-- ==== Sys2Proof/Word.lean ====
section
/-! DEFINITION. The plain number types of the K208: bytes on the wire, ports, channels, frame numbers. -/

namespace Sys2Proof

/-- One byte of a packet (R200: every multi-byte field is sent most significant byte first). -/
abbrev Byte := BitVec 8

/-- A link port, L0 to L3 (R68). -/
abbrev Port := Fin 4

/-- A channel, 0 to 7 (introduction, "Channels and players"). -/
abbrev Ch := Fin 8

/-- A frame number of the timeline. It is an exact integer: the anchor event's origin is the anchor
frame less the anchor offset (R33), and that difference may lie below 0 (DESIGN CHOICE, log entry 15). -/
abbrev Frame := Int

/-- 2^32, the modulus of the 32-bit counts and sums. -/
def two32 : Nat := 4294967296

/-- 2^16, the modulus of the 16-bit numbers. -/
def two16 : Nat := 65536

/-- 2^48, the modulus of HFN's 48 bits. -/
def two48 : Nat := 281474976710656

end Sys2Proof
end

