-- ==== Sys2Proof/Syntax.lean ====
section
/-! DEFINITION. The commands of the K208: one constructor of `Instr` for each row of spec/opcode_table.json,
in the table's order, with the operands each row has. -/

namespace Sys2Proof

/-- A channel's two players (introduction, "Channels and players"). -/
inductive PlayerId
  | a
  | b
deriving DecidableEq, Repr

/-- The two control flows (R192). -/
inductive CtlFlow
  | main
  | loc
deriving DecidableEq, Repr

/-- The four rate codes, in the order of R200's lists: F25, F2997, F50, F5994. -/
inductive RateCode
  | f25
  | f2997
  | f50
  | f5994
deriving DecidableEq, Repr

/-- A label as carried: four bytes of packed BCD, HH, MM, SS, FF (R200). -/
structure Label where
  hh : Byte
  mm : Byte
  ss : Byte
  ff : Byte
deriving DecidableEq, Repr

/-- What a reference pulse carries: a label, or none when it has no readable label (R12). -/
abbrev RefLabel := Option Label

/-- The roles of the flow table (R69), in its order. -/
inductive Role
  | mainReturn
  | playerA
  | playerB
  | output
  | mainCtl
  | localCtl
deriving DecidableEq, Repr

/-- An Ethernet frame as it reaches the checks of R65: port of arrival, whether its check sequence is
right, its length in bytes, its EtherType, and the first bytes of the packet inside: 0 to 2, its flow tag and packet
type (R200). -/
structure Eth where
  port : Port
  fcsOk : Bool
  length : Nat
  etherType : Nat
  head : List Byte
deriving DecidableEq, Repr

/-- A frame with more of its packet's bytes. -/
def Eth.carrying (e : Eth) (bytes : List Byte) : Eth := { e with head := e.head ++ bytes }

/-- The target of a TAKEOVER, HANDBACK or HANDBACK_ASK (R134, R140). -/
inductive Target
  | asap
  | at (day : Nat) (label : Label)
deriving DecidableEq, Repr

/-- The fields of a request's control header that the part uses (R190): request tag, channel, stated
body length, and the bytes of body the packet holds. -/
structure Head where
  tag : Nat
  channel : Nat
  bodyLen : Nat
  present : Nat
deriving DecidableEq, Repr

/-- A part-wide parameter (parameter table of R193). -/
inductive PartParam
  | rateCode
  | etherType
  | siteBeatTimeout
  | mirrorTimeout
  | blackLevel
  | silenceLevel
  | replyTimeout
  | probeInterval
  | batchSize
  | flushInterval
  | retireGrace
deriving DecidableEq, Repr

/-- A per-channel parameter (parameter table of R193); the attribute parameters carry the attribute number. -/
inductive ChanParam
  | policy
  | standby
  | permission
  | prerollLead
  | cueMargin
  | holdoff
  | healthyRun
  | freezeLimit
  | fill
  | eventLimit
  | sweepDepth
  | alignDepth
  | realignTolerance
  | realignPersistence
  | stallLimit
  | resumeMode
  | attrClass (n : Nat)
  | attrThreshold (n : Nat)
deriving DecidableEq, Repr

/-- What SET_PARAM and GET_PARAM name (R193, R194). `unknown` is an identifier that names no parameter. -/
inductive ParamId
  | part (p : PartParam)
  | chan (p : ChanParam)
  | trigger (code : Nat)
  | unknown
deriving DecidableEq, Repr

/-- The action a TRIGGER_LOAD carries (R156, R157). `other` is an action outside the three; an IDENT
without its on-or-off field has `on = none`. -/
inductive LoadAction
  | outputCue (payload : List Byte) (advance : Nat)
  | ident (slot : Nat) (on : Option Bool)
  | notify
  | other
deriving DecidableEq, Repr

/-- The resume mode a BREAK_IN carries (R148); none stands for a value outside the three. -/
inductive BreakMode
  | whereLeft
  | onTime
  | default
deriving DecidableEq, Repr

/-- The mode a RESUME carries (R153). -/
inductive ResumeReq
  | whereLeft
  | onTime
  | preset
deriving DecidableEq, Repr

/-- The requests of the catalogue of R192 with their bodies. A MIRROR_BATCH body is the sequence number
and the bytes of its operations, whose layout R200 gives; the other bodies are given field by field,
since R200 gives no layout for them (log entry 10). -/
inductive ReqBody
  | mirrorBatch (seq : Nat) (ops : List Byte)
  | refreshOpen (seq : Nat)
  | refreshClose (seq count sum : Nat)
  | digestCheck (key count sum : Nat)
  | siteBeat (day : Nat) (label : Label)
  | handover (day : Nat) (label : Label)
  | handbackAsk (target : Target)
  | setParam (id : ParamId) (value : Nat)
  | getParam (id : ParamId)
  | flowLoad (tag port : Nat) (role : Option Role) (channel : Nat)
  | flowClear (tag : Nat)
  | triggerLoad (code : Nat) (action : LoadAction)
  | triggerClear (code : Nat)
  | graphicBegin (slot width height : Nat)
  | graphicSegment (slot offset : Nat) (data : List Byte)
  | graphicEnd (slot : Nat)
  | windowSet (enabled : Bool) (slot x y alpha blink : Nat)
  | takeover (target : Target) (force : Bool)
  | handback (target : Target) (force : Bool)
  | breakIn (handle inPoint : Nat) (duration : Option Nat) (mode : Option BreakMode)
  | resume (mode : Option ResumeReq)
  | queryChannel
  | queryEvents (key count : Nat)
  | queryMonitor
  | clearCounters
  | logRead (number count : Nat)
  | logFlush
  | saveConfig
  | timeSet (day : Nat) (label : Label)
  | resetPart
  | resetChannel (n : Nat)
  | partStatus
  | unknown (code : Nat)
deriving DecidableEq, Repr

/-- A request as it stands in an inbound queue (R191). -/
structure Request where
  head : Head
  body : ReqBody
deriving DecidableEq, Repr

/-- A REQUEST packet behind its prefix: the bytes of its control header, the number of bytes that follow it, and the body
they hold (R190, R200; log entry 10). -/
structure RequestPacket where
  control : List Byte
  present : Nat
  body : ReqBody
deriving DecidableEq, Repr

/-- The reasons of a CUE_FAILED reply (the request table of the Sequencer and Players chapter). -/
inductive CueReason
  | notFound
  | short
  | unable
deriving DecidableEq, Repr

/-- The commands: one constructor for each row of spec/opcode_table.json, in its order. `now` is the time
of a Time Base event in millionths of a nominal frame period (log entry 4). An arriving packet's prefix stands in its
Eth; `bytes` are the bytes after it in an essence packet, and `control` those of the control header that follows it in a
CONTROL packet; `rest` is what stands behind them. -/
inductive Instr
  | powerOn
  | resetPin
  | timeBaseStart (now : Nat) (pulse : Option RefLabel)
  | refreshNeededResetRelease
  | configDefaultedNotice
  | linkUp (p : Port)
  | linkDown (p : Port)
  | frameDrop (e : Eth) (control rest : List Byte)
  | frameHeader (e : Eth) (bytes : List Byte)
  | video (e : Eth) (bytes : List Byte)
  | audio (e : Eth) (bytes : List Byte)
  | controlRequestPacket (e : Eth) (r : RequestPacket)
  | periodBoundary (now : Nat) (pulse : Option RefLabel)
  | advisoryRaised (c : Ch) (attr : Fin 8)
  | monitorSuspect (c : Ch)
  | monitorFailed (c : Ch)
  | monitorHealthy (c : Ch)
  | siteBeatExpiry
  | refreshTimeout (c : Ch)
  | referenceLoss (now : Nat)
  | relockPulse (now : Nat)
  | referenceRelock (now : Nat) (label : RefLabel)
  | relockTimeout (now : Nat)
  | digestScanEnd (c : Ch)
  | saveComplete (good : Bool)
  | joiningStart (c : Ch)
  | joiningTarget (c : Ch)
  | handbackTarget (c : Ch)
  | breakStart (c : Ch)
  | breakExpiry (c : Ch)
  | breakEnd (c : Ch)
  | cueWindow (c : Ch)
  | lateCue (c : Ch)
  | itemLost (c : Ch)
  | playerRoll (c : Ch) (p : PlayerId)
  | playerEnd (c : Ch) (p : PlayerId)
  | stopFrame (c : Ch) (p : PlayerId)
  | replyTimeout (c : Ch) (p : PlayerId)
  | stall (c : Ch) (p : PlayerId)
  | probe (c : Ch) (p : PlayerId)
  | cued (e : Eth) (control : List Byte)
  | cueFailed (e : Eth) (control : List Byte) (reason : CueReason)
  | stopped (e : Eth) (control : List Byte)
  | answer (e : Eth) (control : List Byte) (handle : Nat) (found : Bool) (length : Nat)
  | sweepQuery (c : Ch)
  | shadowStart (c : Ch)
  | shadowRejoin (c : Ch)
  | triggerAct (c : Ch)
  | asRun
  | mirrorBatch (f : CtlFlow) (h : Head) (seq : Nat) (ops : List Byte)
  | refreshOpen (f : CtlFlow) (h : Head) (seq : Nat)
  | refreshClose (f : CtlFlow) (h : Head) (seq count sum : Nat)
  | digestCheck (f : CtlFlow) (h : Head) (key count sum : Nat)
  | siteBeat (f : CtlFlow) (h : Head) (day : Nat) (label : Label)
  | handover (f : CtlFlow) (h : Head) (day : Nat) (label : Label)
  | handbackAsk (f : CtlFlow) (h : Head) (target : Target)
  | setParam (f : CtlFlow) (h : Head) (id : ParamId) (value : Nat)
  | getParam (f : CtlFlow) (h : Head) (id : ParamId)
  | flowLoad (f : CtlFlow) (h : Head) (tag port : Nat) (role : Option Role) (channel : Nat)
  | flowClear (f : CtlFlow) (h : Head) (tag : Nat)
  | triggerLoad (f : CtlFlow) (h : Head) (code : Nat) (action : LoadAction)
  | triggerClear (f : CtlFlow) (h : Head) (code : Nat)
  | graphicBegin (f : CtlFlow) (h : Head) (slot width height : Nat)
  | graphicSegment (f : CtlFlow) (h : Head) (slot offset : Nat) (data : List Byte)
  | graphicEnd (f : CtlFlow) (h : Head) (slot : Nat)
  | windowSet (f : CtlFlow) (h : Head) (enabled : Bool) (slot x y alpha blink : Nat)
  | takeover (f : CtlFlow) (h : Head) (target : Target) (force : Bool)
  | handback (f : CtlFlow) (h : Head) (target : Target) (force : Bool)
  | breakIn (f : CtlFlow) (h : Head) (handle inPoint : Nat) (duration : Option Nat) (mode : Option BreakMode)
  | resume (f : CtlFlow) (h : Head) (mode : Option ResumeReq)
  | queryChannel (f : CtlFlow) (h : Head)
  | queryEvents (f : CtlFlow) (h : Head) (key count : Nat)
  | queryMonitor (f : CtlFlow) (h : Head)
  | clearCounters (f : CtlFlow) (h : Head)
  | logRead (f : CtlFlow) (h : Head) (number count : Nat)
  | logFlush (f : CtlFlow) (h : Head)
  | saveConfig (f : CtlFlow) (h : Head)
  | timeSet (f : CtlFlow) (h : Head) (day : Nat) (label : Label)
  | resetPart (f : CtlFlow) (h : Head)
  | resetChannel (f : CtlFlow) (h : Head) (n : Nat)
  | partStatus (f : CtlFlow) (h : Head)
  | powerLoss
  | unknownRequestCode (f : CtlFlow) (h : Head) (code : Nat)
deriving DecidableEq, Repr

end Sys2Proof
end

