-- ==== Sys2Proof/Decode.lean ====
section
/-! DEFINITION. The commands that a word spells. No row of spec/opcode_table.json gives bits, so no word spells
one; packets are read field by field in Sys2Proof/Machine/Operands.lean. -/

namespace Sys2Proof

/-- No row of the table gives bits: the answer is none for every word. -/
def decodeTableWord (_nbits _w : Nat) : Option Instr := none

end Sys2Proof
end

