-- ==== Sys2Proof/Config.lean ====
section
/-! DEFINITION. What the spec leaves open (free values, with no body, so that no proof can see them) and the
units the model fixes. -/

namespace Sys2Proof.Config

/-- HFN is a 48-bit count (introduction; R2 gives each period the number before plus one) and the spec
does not say what follows 2^48 − 1. A free value for each draw (DESIGN CHOICE, log entry 7). -/
opaque hfnPastTop : Nat → BitVec 48

/-- An abandoned write leaves the image "erased or part-written" (R195); which of the two is free (log entry 12).
True: erased. -/
opaque abandonedErased : Nat → Bool

/-- One nominal frame period in the unit of the times that commands carry (log entry 4). -/
def nominal : Nat := 1000000

/-- Half a nominal period (R10). -/
def half : Nat := 500000

/-- One and a half nominal periods (R10, R11, R14). -/
def oneAndHalf : Nat := 1500000

/-- The spacing window of R11: three quarters to one and a quarter nominal periods. -/
def spacingLow : Nat := 750000

/-- The upper end of the spacing window of R11. -/
def spacingHigh : Nat := 1250000

/-- The number of event records in the pool (R19). -/
def poolSize : Nat := 4096

/-- The most events a digest scan visits in one period (R39). -/
def scanPace : Nat := 64

/-- The most records the as-run ring holds (R181). -/
def ringSize : Nat := 1024

/-- The most requests an inbound queue holds (R66, R191). -/
def queueSize : Nat := 8

/-- The most requests a player's queue holds (R106). -/
def playerQueue : Nat := 4

/-- The most frames a source's FIFO holds (R75). -/
def fifoSize : Nat := 4

/-- The entries of the flow table (R69). -/
def flowEntries : Nat := 64

end Sys2Proof.Config
end

