-- ==== Sys2Proof/Machine/State.lean ====
section
/-! DEFINITION. All the state the spec gives the K208, block by block, as plain data, and its value right
after reset. Each field names the rule of spec/ that gives it. -/

namespace Sys2Proof.Machine

open Sys2Proof

/-! ## Stops -/

/-- Why the machine would stop with a fault. The spec names no stop: every request is answered with a
status and every bad packet is dropped and counted (R65, R190), so the type has no constructor. -/
inductive Fault
deriving DecidableEq, Repr

/-- Why the machine would refuse a command. -/
inductive Refusal
  /-- Raised by an arm of Dispatch.lean whose command has no meaning yet; safe. No arm is one now. -/
  | notModelled (mnemonic : String)
deriving DecidableEq, Repr

/-! ## Names (introduction, R200) -/

/-- The statuses, in the order of the status table. -/
inductive Status
  | ok | adjusted | deferred | duplicate | malformed | notPermitted | badChannel | badValue | busy | wrongMode
  | poolFull | limitReached | conflict | order | notFound | onAir | tooLate | tooSoon | notHealthy
  | outOfSequence | timeUnset | slotBusy | superseded | mismatch | aborted
deriving DecidableEq, Repr

/-- Time state (R14). -/
inductive TimeState
  | unset | set
deriving DecidableEq, Repr

/-- Reference state (R10). -/
inductive RefState
  | locked | freeRun
deriving DecidableEq, Repr

/-- Mirror states, in the order of the Mirror Engine's state table. -/
inductive MirrorState
  | empty | current | syncing | gap | diverged | stale
deriving DecidableEq, Repr

/-- Monitor states, in the order of the Feed Monitor's state table. -/
inductive MonState
  | starting | healthy | suspect | failed | recovering
deriving DecidableEq, Repr

/-- Channel modes, in the order of the Channel Controller's state table. -/
inductive Mode
  | mirror | joining | takeover | breakIn | returning
deriving DecidableEq, Repr

/-- Attribute classes (R83). -/
inductive AttrClass
  | off | advisory | decisive
deriving DecidableEq, Repr

/-- Policy (parameter table). -/
inductive Policy
  | auto | manual
deriving DecidableEq, Repr

/-- Standby (parameter table). -/
inductive Standby
  | cold | hot
deriving DecidableEq, Repr

/-- Resume modes (R153), WHERE_LEFT 0 and ON_TIME 1 (R200). -/
inductive ResumeMode
  | whereLeft | onTime
deriving DecidableEq, Repr

/-- A channel's fill setting (R167). -/
inductive FillSetting
  | black
  | slate (slot : Fin 16)
deriving DecidableEq, Repr

/-- Standby actions of an event, in R38's code order. -/
inductive Action
  | play | blank | drop | substitute
deriving DecidableEq, Repr

/-- Readiness (R37). -/
inductive Readiness
  | unknown | present | absent | short
deriving DecidableEq, Repr

/-- Lifecycle (R23). -/
inductive Lifecycle
  | pending | cued | onAir | orphan
deriving DecidableEq, Repr

/-- Fill kinds, in the order of the item record. -/
inductive FillKind
  | gap | blank | absent | scheduleEnd | wait
deriving DecidableEq, Repr

/-- Item kinds (the item table). -/
inductive ItemKind
  | pass
  | fill (k : FillKind)
  | brk
deriving DecidableEq, Repr

/-- Player states (R105). -/
inductive PState
  | idle | cueing | cued | playing | stopping | fault
deriving DecidableEq, Repr

/-- Kinds of pending switch (R127). -/
inductive SwitchKind
  | takeover | handback
deriving DecidableEq, Repr

/-- Causes of a pending switch, in the order AUTO, MANUAL, PLANNED. -/
inductive SwitchCause
  | auto | manual | planned
deriving DecidableEq, Repr

/-- Causes of a MODE notice (R126). -/
inductive ModeCause
  | auto | manual | planned | cancelled | brk | resume | reset
deriving DecidableEq, Repr

/-- What begins a resume (R153), RESUME 0 and EXPIRY 1 (R200). -/
inductive ResumeCause
  | resume | expiry
deriving DecidableEq, Repr

/-- Output source codes, in the order of R168. -/
inductive OutSource
  | main | a | b | hold | fill
deriving DecidableEq, Repr

/-- Origin of a held frame (R166). -/
inductive Origin
  | main | standby
deriving DecidableEq, Repr

/-- Graphic slot states (the slot table before R174). -/
inductive GState
  | empty | loading | ready | incomplete
deriving DecidableEq, Repr

/-- Causes of a MIRROR notice (R63). -/
inductive MirrorCause
  | opened | commit | sequence | timeout | pool | closeMismatch | digestMismatch | siteSilence | siteBeat | reset
deriving DecidableEq, Repr

/-- Causes of a REFRESH_NEEDED notice (R62). -/
inductive NeedCause
  | reset | sequence | repeated | timeout | pool | closeMismatch | digestMismatch
deriving DecidableEq, Repr

/-- As-run record kinds, in the order of the kind table. -/
inductive AsRunKind
  | itemStart | itemEnd | itemCut | itemLate | fillStart | fillEnd | substituted | dropped | scheduleEnd
  | playerFault | takeover | handback | handbackCancelled | breakStart | breakEnd | trigger | channelReset
deriving DecidableEq, Repr

/-- As-run sources, in the order MAIN, A, B, FILL, BREAK. -/
inductive AsRunSource
  | main | a | b | fill | brk
deriving DecidableEq, Repr

/-- Outcomes of a trigger (R162). -/
inductive TrigOutcome
  | done | late | missed | undefined
deriving DecidableEq, Repr

/-- Why a player entered FAULT, or left it (R124). -/
inductive PlayerCause
  | timeout | stall | answer
deriving DecidableEq, Repr

/-- Why defaults were loaded (R196). -/
inductive DefaultReason
  | blank | checksum | content
deriving DecidableEq, Repr

/-- Outcomes a CONFIG notice carries (R195, R196). -/
inductive ConfigOutcome
  | saved | failed
  | defaulted (why : DefaultReason)
deriving DecidableEq, Repr

/-- The detail of an as-run record (kind table of the As-Run Log and Notices chapter). -/
inductive Detail
  | zero
  | continuation
  | frames (n : Nat)
  | fillKind (k : FillKind)
  | absent | short
  | timeout | stall
  | cause (c : SwitchCause)
  | handback (c : SwitchCause) (force : Bool)
  | byMonitor | byTakeover
  | mode (m : ResumeMode)
  | breakEnd (c : ResumeCause) (m : ResumeMode)
  | outcome (o : TrigOutcome)
  | chMode (m : Mode)
deriving DecidableEq, Repr

/-! ## Time Base -/

/-- A frame number with its day and label (R8), as notices and replies carry it. -/
structure When where
  hfn : Frame
  day : Nat
  label : Label
deriving DecidableEq, Repr

/-- The Time Base (chapter 1). -/
structure TimeBase where
  hfn : Nat                     -- R1, R2: the number of the current output frame period
  waiting : Bool                -- R14: the wait for the first pulse after a part reset
  timeState : TimeState         -- R14 to R16
  refState : RefState           -- R10, R11
  slips : Nat                   -- R12: label-slip count
  slipRun : Bool                -- R12: an open slip run
  relock : Nat                  -- R11: relock count, 0 to 8
  rate : RateCode               -- R3: active rate code
  lastBoundary : Nat            -- R10, R11: time of the last boundary
  lastPulse : Option Nat        -- R11: time of the pulse before, while FREE_RUN
  built : Bool                  -- R158: the output frames of the current period have been built
deriving DecidableEq, Repr

/-! ## Parameters -/

/-- The part-wide parameters (parameter table). -/
structure PartParams where
  rate : RateCode
  etherType : Nat
  siteBeatTimeout : Nat
  mirrorTimeout : Nat
  blackLevel : Nat
  silenceLevel : Nat
  replyTimeout : Nat
  probeInterval : Nat
  batchSize : Nat
  flushInterval : Nat
  retireGrace : Nat
deriving DecidableEq, Repr

/-- An attribute's class and threshold (R83). -/
structure AttrParam where
  cls : AttrClass
  threshold : Nat
deriving DecidableEq, Repr

/-- The per-channel parameters (parameter table). -/
structure ChanParams where
  policy : Policy
  standby : Standby
  permission : Bool
  lead : Nat                    -- preroll lead
  margin : Nat                  -- cue margin
  holdoff : Nat
  healthyRun : Nat
  freezeLimit : Nat
  fill : FillSetting
  eventLimit : Nat
  sweepDepth : Nat
  alignDepth : Nat
  realignTolerance : Nat
  realignPersistence : Nat
  stallLimit : Nat
  resumeMode : ResumeMode
  attrs : Vector AttrParam 8
deriving DecidableEq, Repr

/-- The parameter set the Control Unit holds (R193). -/
structure Params where
  part : PartParams
  chans : Vector ChanParams 8
deriving DecidableEq, Repr

/-! ## Flow table and ports -/

/-- A valid entry of the flow table (R69). The channel is absent for the two control roles. -/
structure FlowEntry where
  tag : Nat
  port : Port
  role : Role
  channel : Option Ch
deriving DecidableEq, Repr

/-- A link port (R65 to R68). -/
structure PortState where
  up : Bool
  unknownTag : Nat
  badFrame : Nat
  oversize : Nat
  overflow : Nat
  mark : Bool                   -- R67: bad-frame mark
deriving DecidableEq, Repr

/-! ## Essence -/

/-- A picture: the samples that do not hold black, by 3840 × line + position, addresses rising (R74). -/
abbrev Picture := List (Nat × BitVec 10)

/-- A position stamp (R72). -/
structure PosStamp where
  event : Nat
  offset : Nat
  pass : Nat
deriving DecidableEq, Repr

/-- The header of a received frame (R72). -/
structure FrameHdr where
  count : Nat
  label : Label
  day : Nat
  stamp : Option PosStamp
  hfn : Option Nat
deriving DecidableEq, Repr

/-- What R78 measures of the samples received. -/
structure Sums where
  lumaSum : Nat
  lumaCount : Nat
  signature : Nat
  peak : Nat
deriving DecidableEq, Repr

/-- A frame being built (R72 to R74). -/
structure Assembly where
  hdr : FrameHdr
  units : List Nat
  picture : Picture
  audio : List (Nat × List (BitVec 24))     -- AUDIO packets in unit-index order
  sums : Sums
deriving DecidableEq, Repr

/-- A complete frame (R75). -/
structure EssFrame where
  hdr : FrameHdr
  picture : Picture
  sound : List (BitVec 24)
  sums : Sums
deriving DecidableEq, Repr

/-- One of a channel's three sources (Frame Intake's state table). -/
structure Source where
  asm : Option Assembly
  fifo : List EssFrame
  completed : Nat
  incomplete : Nat
  pushedOut : Nat
  dropped : Nat
  stray : Nat
deriving DecidableEq, Repr

/-- Frame Intake, one channel. The takes are those of the current period (R79): none is MISSING or LATE. -/
structure Intake where
  main : Source
  a : Source
  b : Source
  lastTaken : Option (Label × Nat)
  takeMain : Option EssFrame
  takeA : Option EssFrame
  takeB : Option EssFrame
deriving DecidableEq, Repr

/-! ## Schedule Store -/

/-- A secondary trigger of an event, with its judged mark (R158). -/
structure Trig where
  code : Nat
  offset : Nat
  mark : Option Frame
deriving DecidableEq, Repr

/-- The held part of the ON_AIR event's record (R60). `fromPass` is the first pass whose cue uses it. -/
structure Held where
  clip : Nat
  inPoint : Nat
  subst : Option Nat
  action : Action
  fromPass : Nat
deriving DecidableEq, Repr

/-- The derived frames of an event; absent is UNANCHORED (R33, R35). The last two fields are the model's own: the end
before the limits of R34, and the frame now + 2 of the last change that shortened it while ON_AIR (log entry 17). -/
structure Resolved where
  origin : Frame
  start : Frame
  stop : Frame
  asked : Frame := stop
  floor : Option Frame := none
deriving DecidableEq, Repr

/-- An event record (the event record table). Its generation is the list that holds it. -/
structure Event where
  id : Nat
  key : Nat
  fixed : Option Nat            -- FIXED with its start frame; none is SEQUENTIAL
  duration : Nat
  passes : Nat
  clip : Nat
  inPoint : Nat
  action : Action
  subst : Option Nat
  triggers : List Trig
  res : Option Resolved
  readiness : Readiness
  lifecycle : Lifecycle
  held : Option Held
deriving DecidableEq, Repr

/-- An open refresh: the opening sequence, the REFRESH generation and its digest pair (R38, R48). -/
structure Refresh where
  opening : Nat
  events : List Event
  count : Nat
  sum : Nat
deriving DecidableEq, Repr

/-- The anchor (R30). -/
structure Anchor where
  event : Nat
  offset : Int
  frame : Frame
deriving DecidableEq, Repr

/-- A digest scan in progress (R39). `next` is the least order key not yet visited, `budget` the visits left
in this period, `addr` the port and tag its reply goes to (R80). -/
structure Scan where
  tag : Nat
  channel : Nat
  addr : Option (Port × Nat)
  key : Nat
  count : Nat
  sum : Nat
  next : Nat
  runCount : Nat
  runSum : Nat
  budget : Nat
deriving DecidableEq, Repr

/-- The Schedule Store, one channel. -/
structure Store where
  current : List Event
  refresh : Option Refresh
  orphan : Option Event
  anchor : Option Anchor
  scan : Option Scan
deriving DecidableEq, Repr

/-- The Mirror Engine, one channel (its state table). -/
structure Mirror where
  state : MirrorState
  lastSeq : Nat
  timer : Nat
deriving DecidableEq, Repr

/-! ## Feed Monitor -/

/-- An attribute record's counts (R83). -/
structure Attr where
  run : Nat
  total : Nat
  worst : Nat
  flag : Bool
deriving DecidableEq, Repr

/-- The last measurements of a channel (R98). -/
structure Meas where
  luma : Nat
  signature : Nat
  peak : Nat
  stamp : Option PosStamp
deriving DecidableEq, Repr

/-- The Feed Monitor, one channel (its state table). -/
structure Monitor where
  attrs : Vector Attr 8
  state : MonState
  holdoff : Nat
  healthy : Nat
  prevSig : Option Nat
  last : Option Meas
deriving DecidableEq, Repr

/-! ## Sequencer -/

/-- An item (the item table). The last ten fields are the model's own: the end frame its cue asked for, against
which a cut is judged (R116), the frame at which a part-way item is entered, whether it is a continuation (R117), the
player its last cue failed on (R109), the event and pass a WAIT item stands for (R151, R169), whether it is a later
pass whose cue stands whatever the held values (R60), whether its substitute stands for a SHORT clip (R123), whether a FILL_NOW acted
for it before it went on air (R161), and whether a failed cue of the clip has its substitute cued next (R109). -/
structure Item where
  kind : ItemKind
  event : Nat
  pass : Nat
  start : Frame
  stop : Option Frame
  onAirStart : Option Frame
  inPoint : Int
  handle : Option Nat
  player : Option PlayerId
  attempts : Nat
  subTried : Bool
  planned : Option Frame
  entry : Option Frame
  contin : Bool
  avoid : Option PlayerId
  forEvent : Nat
  forPass : Nat
  pinned : Bool := false
  subShort : Bool := false
  fillDue : Bool := false
  subNext : Bool := false
deriving DecidableEq, Repr

/-- A request to a player (the request table of the Sequencer and Players chapter). -/
inductive PReq
  | cue (handle : Nat) (inPoint length : Int) (roll : Frame)
  | stop (frame : Frame)
  | query (handle : Nat)
deriving DecidableEq, Repr

/-- The request in flight of a player (R106), with the boundaries counted since its sent frame (R110).
`probe` marks a QUERY of handle 0 sent under R111. `counting` says that the count has begun: for a STOP once its stop frame has
come, whatever HFN steps to afterwards (R1, R110). -/
structure Flight where
  tag : Nat
  req : PReq
  sent : Frame
  age : Nat
  probe : Bool
  counting : Bool := true
deriving DecidableEq, Repr

/-- A player record (R105). `tags` is the request tag counter (R106). -/
structure Player where
  state : PState
  loaded : Option Item
  roll : Option Frame
  endF : Option Frame
  stopF : Option Frame
  stopConfirmed : Bool
  flight : Option Flight
  queue : List (Nat × PReq)
  lateRun : Nat
  probeTimer : Nat
  tags : Nat
deriving DecidableEq, Repr

/-- The item on air (R103): frames into it, remaining passes, its offset into the event at its on-air
start, its planned end, the frame at which it will leave if that is fixed, and the fill mark (R161). -/
structure OnAir where
  item : Item
  framesIn : Nat
  remaining : Nat
  offset0 : Int
  planned : Option Frame
  leave : Option Frame
  fillMark : Bool
deriving DecidableEq, Repr

/-- A landing handed and not yet on air (R114); `rejoin` marks that of a re-join of the shadow (R121). -/
structure Landing where
  item : Item
  target : Frame
  rejoin : Bool := false
deriving DecidableEq, Repr

/-- An item that has become ABSENT fill (R102, R112, R113); `due` is its span while its ITEM_LATE record waits
for its resolved start (R123). -/
structure Spent where
  event : Nat
  pass : Nat
  due : Option (Frame × Frame)
deriving DecidableEq, Repr

/-- The outstanding readiness query (R118). -/
structure SweepQ where
  player : PlayerId
  tag : Nat
  event : Nat
deriving DecidableEq, Repr

/-- The Sequencer, one channel (its state table). -/
structure Seq where
  onAir : Option OnAir
  landing : Option Landing
  cued : Option Item
  preroll : Option Item
  breakClip : Option Item
  spent : List Spent
  a : Player
  b : Player
  sweep : Option SweepQ
  shadow : Bool
  realign : Nat
deriving DecidableEq, Repr

/-! ## Channel Controller -/

/-- A pending switch (R127). -/
structure Switch where
  kind : SwitchKind
  cause : SwitchCause
  target : Frame
  force : Bool
deriving DecidableEq, Repr

/-- The handed landing (R130, R131); `offset` is the offset at the target counted across passes. -/
inductive Handed
  | pass (event pass : Nat) (q offset : Int)
  | fill (k : FillKind)
deriving DecidableEq, Repr

/-- The saved context (R151). -/
structure Saved where
  event : Nat
  offset : Int
  remaining : Nat
  b : Frame
  mode : ResumeMode
deriving DecidableEq, Repr

/-- A pending break-in (R148); duration none is OPEN. -/
structure PendingBreak where
  handle : Nat
  inPoint : Nat
  duration : Option Nat
  mode : ResumeMode
  b : Frame
  player : PlayerId
deriving DecidableEq, Repr

/-- A resume begun (R153). -/
structure Resume where
  cause : ResumeCause
  mode : ResumeMode
  r : Frame
deriving DecidableEq, Repr

/-- The Channel Controller, one channel (its state tables in chapters 7 and 8). The context stack holds at
most one context (R150). -/
structure Ctl where
  mode : Mode
  switch : Option Switch
  handed : Option Handed
  ctx : Option Saved
  monitor : MonState            -- R94: the monitor state last handed
  pendingBreak : Option PendingBreak
  resume : Option Resume
  expiry : Option Frame         -- R153: the expiry frame e of the break-in on air; none for OPEN
deriving DecidableEq, Repr

/-! ## Trigger Unit -/

/-- The actions of the trigger table (R156). -/
inductive TrigAction
  | none | identOn | identOff | identBlink | fillNow | mark
  | outputCue (payload : List Byte) (advance : Nat)
  | ident (slot : Nat) (on : Bool)
  | notify
deriving DecidableEq, Repr

/-- An entry of a pending trigger list (R158). The owner is an item, by event, pass and resolved start. -/
structure PendTrig where
  code : Nat
  action : TrigAction
  ownerEvent : Nat
  ownerPass : Nat
  ownerStart : Frame
  source : AsRunSource
  event : Nat
  index : Nat
  offset : Nat
  pass : Nat
  frame : Frame                 -- trigger frame
  insertion : Frame             -- insertion frame
  late : Bool
deriving DecidableEq, Repr

/-- A channel's trigger lists (R159). -/
structure Triggers where
  pending : List PendTrig
  held : List PendTrig
deriving DecidableEq, Repr

/-! ## Output Assembler -/

/-- A cue entry of an output frame (R170). -/
structure Cue where
  code : Nat
  payload : List Byte
deriving DecidableEq, Repr

/-- An output frame (R168), picture and sound. -/
structure OutFrame where
  count : Nat
  label : Label
  day : Nat
  hfn : Nat
  counter : Nat
  source : OutSource
  standby : Bool
  stamp : Option PosStamp
  cues : List Cue
  picture : Picture
  sound : List (BitVec 24)
deriving DecidableEq, Repr

/-- The held frame (R166). -/
structure HeldFrame where
  picture : Picture
  samples : Nat
  origin : Origin
deriving DecidableEq, Repr

/-- The ident window record (R171). -/
structure Window where
  enabled : Bool
  slot : Nat
  x : Nat
  y : Nat
  alpha : Nat
  blink : Nat
  phase : Nat
deriving DecidableEq, Repr

/-- The Output Assembler, one channel (its state table), with the cue packets handed for the period
(R170) and what R177 reports of the last frame built. -/
structure Out where
  counter : Nat
  held : Option HeldFrame
  holdRun : Nat
  last : OutSource
  window : Window
  cues : List Cue
  lastIdent : Bool
  lastCues : Nat
deriving DecidableEq, Repr

/-- A graphic slot (the slot table before R174); bytes received is the number of positions listed. -/
structure Graphic where
  state : GState
  width : Nat
  height : Nat
  expected : Nat
  bytes : List Host.Cell
deriving DecidableEq, Repr

/-- One channel's part of every block. -/
structure Chan where
  store : Store
  mirror : Mirror
  intake : Intake
  mon : Monitor
  seq : Seq
  ctl : Ctl
  trig : Triggers
  out : Out
deriving DecidableEq, Repr

/-! ## As-Run Log -/

/-- An as-run record as a block hands it to the log. -/
structure RecProto where
  hfn : Frame
  channel : Nat
  kind : AsRunKind
  event : Nat
  pass : Nat
  offset : Int
  source : AsRunSource
  detail : Detail
  trigger : Option Nat
deriving DecidableEq, Repr

/-- A record of the ring: its number, its fields, and the log tick at which it was appended (R179). -/
structure AsRunRec where
  number : Nat
  body : RecProto
  tick : Nat
deriving DecidableEq, Repr

/-- The As-Run Log (its state table), with the TRIGGER records that its period has made so far: they stand after all the item records
of the period, so they are appended as it ends (R160, R179; log entry 88). The reporting cursor is the counter less the unreported
count. -/
structure Log where
  ring : List AsRunRec          -- oldest first, at most 1024
  counter : Nat
  unreported : Nat
  overrun : Nat
  tick : Nat
  triggers : List RecProto
deriving DecidableEq, Repr

/-! ## What the part sends -/

/-- The pending switch as notices and replies carry it (R126). -/
structure SwitchReport where
  kind : SwitchKind
  cause : SwitchCause
  target : When
  force : Bool
deriving DecidableEq, Repr

/-- Reasons of a REFERENCE notice (R13). -/
inductive RefReason
  | lost | locked | slip
deriving DecidableEq, Repr

/-- The notices (the notice catalogue of chapter 10). -/
inductive Notice
  | asRun (first count : Nat) (records : List AsRunRec) (overrun unreported : Nat) (at_ : When)
  | mode (before after : Mode) (cause : ModeCause) (switch : Option SwitchReport) (landing : Option Handed) (at_ : When)
  | monitor (before after : MonState) (reset : Bool) (decisive : List (Nat × Nat)) (holdoff healthy : Nat) (at_ : When)
  | advisory (attr : Nat) (raised : Bool) (cls : AttrClass) (threshold run total worst : Nat) (at_ : When)
  | mirror (before after : MirrorState) (cause : MirrorCause) (lastSeq : Nat) (refresh : Option Nat) (hfn : Frame)
  | player (p : PlayerId) (before after : PState) (cause : PlayerCause) (lost : Option Item) (hfn : Frame)
  | trigger (code event pass offset : Nat) (frame : When) (late : Bool)
  | refreshNeeded (cause : NeedCause) (state : MirrorState) (lastSeq : Nat) (at_ : When)
  | reference (why : RefReason) (hfn : Frame) (state : RefState) (slips : Nat) (carried : Option RefLabel) (own : Option Label)
  | config (outcome : ConfigOutcome) (tag : Option Nat) (hfn : Option Frame)
deriving DecidableEq, Repr

/-- An event as QUERY_EVENTS returns it (R41): the record's fields, with frames given as day and label. -/
structure EventReport where
  event : Event
  start : Option When
  resolved : Option (When × When × When)
deriving DecidableEq, Repr

/-- The reply of QUERY_EVENTS (R41). -/
structure EventsReport where
  currentCount : Nat
  refreshCount : Option Nat
  orphan : Option Nat
  anchor : Option (Nat × Int × When)
  free : Nat
  scanning : Bool
  events : List EventReport
deriving DecidableEq, Repr

/-- A source as QUERY_CHANNEL reports it (R81). -/
structure SourceReport where
  frames : Nat
  openAsm : Bool
  completed : Nat
  incomplete : Nat
  pushedOut : Nat
  dropped : Nat
  stray : Nat
deriving DecidableEq, Repr

/-- The reply of QUERY_CHANNEL (R63, R81, R124, R146, R162, R177). -/
structure ChannelReport where
  mirror : MirrorState
  lastSeq : Nat
  refresh : Option Nat
  refreshTimer : Nat
  refreshPair : Option (Nat × Nat)
  main : SourceReport
  srcA : SourceReport
  srcB : SourceReport
  lastTaken : Option (Label × Nat)
  active : Bool
  shadow : Bool
  context : Option Item
  framesIn : Nat
  remaining : Nat
  preroll : Option Item
  cued : Option Item
  playerA : Player
  playerB : Player
  sweepWindow : Nat
  sweep : Option SweepQ
  realign : Nat
  mode : Mode
  switch : Option SwitchReport
  handed : Option Handed
  stacked : Bool
  policy : Policy
  standby : Standby
  permission : Bool
  monitor : MonState
  pendingBreak : Option PendingBreak
  saved : Option Saved
  resume : Option Resume
  triggers : List PendTrig
  heldTriggers : Nat
  fillMark : Bool
  outCounter : Nat
  lastSource : OutSource
  holdRun : Nat
  freezeLimit : Nat
  heldOrigin : Option Origin
  fill : FillSetting
  fillIsSlate : Bool
  window : Window
  lastIdent : Bool
  lastCues : Nat
deriving DecidableEq, Repr

/-- The reply of QUERY_MONITOR for one channel (R98). -/
structure MonitorReport where
  state : MonState
  holdoff : Nat
  healthy : Nat
  holdoffParam : Nat
  healthyRunParam : Nat
  params : Vector AttrParam 8
  attrs : Vector Attr 8
  last : Option Meas
  blackLevel : Nat
  silenceLevel : Nat
  beat : Nat
  expired : Bool
deriving DecidableEq, Repr

/-- A channel's part of a SITE_BEAT reply (R97). -/
structure BeatChannel where
  mode : Mode
  monitor : MonState
  mirror : MirrorState
  missing : Nat
deriving DecidableEq, Repr

/-- The configuration source (R196). -/
inductive CfgSource
  | image
  | defaulted (why : DefaultReason)
deriving DecidableEq, Repr

/-- Last save outcome (R195). -/
inductive SaveOutcome
  | none | saved | failed
deriving DecidableEq, Repr

/-- The reply of PART_STATUS (R199). -/
structure PartReport where
  now : When
  timeState : TimeState
  refState : RefState
  slips : Nat
  slipRun : Bool
  rate : RateCode
  configuredRate : RateCode
  ports : Vector PortState 4
  graphics : List (GState × Nat × Nat × Nat × Nat)
  source : CfgSource
  writing : Option Nat          -- the tag of the SAVE_CONFIG being written; none is IDLE
  lastSave : SaveOutcome
  waitingMain : Nat
  waitingLocal : Nat
  nextMain : Nat
  nextLocal : Nat
  free : Nat
  channels : List (Mode × MonState × MirrorState)
  newest : Option Nat
  cursor : Nat
  unreported : Nat
  overrun : Nat
deriving DecidableEq, Repr

/-- What the body of a reply carries, by the owning rule. -/
inductive ReplyBody
  | none
  | batch (seq : Nat) (state : MirrorState) (lastSeq : Nat) (ops : List Status) (free : Nat)
  | refresh (state : MirrorState) (lastSeq : Nat) (pair : Option (Nat × Nat)) (free : Nat)
  | digest (count sum : Nat)
  | beat (now : When) (timeState : TimeState) (setDay : Bool) (timeout : Nat) (channels : List BeatChannel)
  | takeover (target : When) (mode : Mode) (force : Bool)
  | cancelled (mode : Mode)
  | handback (target : When) (force : Bool) (monitor : MonState)
  | values (vs : List Nat)
  | trigger (entry : Option TrigAction)
  | received (n : Nat)
  | graphicEnd (state : GState) (expected received : Nat)
  | breakIn (b : When) (player : PlayerId) (mode : ResumeMode)
  | resume (r : When) (mode : ResumeMode) (landing : Option Handed)
  | channel (r : ChannelReport)
  | events (r : EventsReport)
  | monitor (r : MonitorReport)
  | monitors (rs : List (MonState × List Bool)) (beat : Nat) (expired : Bool)
  | log (records : List AsRunRec) (oldest newest cursor unreported overrun : Nat)
  | flushed (emitted unreported : Nat)
  | part (r : PartReport)
deriving DecidableEq, Repr

/-- A packet the part transmits. -/
inductive Outgoing
  | reply (f : CtlFlow) (code : Nat) (tag channel : Nat) (status : Status) (body : ReplyBody)
  | notice (f : CtlFlow) (number channel : Nat) (n : Notice)
  | player (c : Ch) (p : PlayerId) (tag : Nat) (req : PReq)
  | frame (c : Ch) (f : OutFrame)
deriving DecidableEq, Repr

/-- A packet with the port and tag it left on (R80). -/
structure Sent where
  port : Port
  tag : Nat
  what : Outgoing
deriving DecidableEq, Repr

/-- What a channel's blocks hand to the rest of the part, in order. -/
inductive Effect
  | record (r : RecProto)
  | notice (f : CtlFlow) (channel : Nat) (n : Notice)
  | request (p : PlayerId) (tag : Nat) (req : PReq)
  | reply (addr : Option (Port × Nat)) (f : CtlFlow) (code tag channel : Nat) (status : Status) (body : ReplyBody)
deriving DecidableEq, Repr

/-- What a channel's blocks read of the rest of the part. -/
structure Env where
  ch : Ch
  now : Frame
  built : Bool
  rate : RateCode
  timeSet : Bool
  part : PartParams
  cp : ChanParams
  table : List (Nat × TrigAction)
  others : Nat                  -- event records held by the other channels (R19)
  expired : Bool                -- the site beat timer's expired mark (R95)
deriving DecidableEq, Repr

/-- A channel with what its blocks have handed on so far. -/
structure W where
  ch : Chan
  fx : List Effect
deriving DecidableEq, Repr

/-! ## Control Unit -/

/-- The configuration an image holds (R195). -/
structure Config where
  params : Params
  flows : List FlowEntry
  table : List (Nat × TrigAction)
deriving DecidableEq, Repr

/-- The retained image (R195, R196): every byte 0xFF; what cannot be read (a wrong format mark, an image erased or written
in part); or a copy with the checksum word that stands behind it. -/
inductive Image
  | blank
  | bad
  | stored (c : Config) (sum : Nat)
deriving DecidableEq, Repr

/-- A write of the retained image in progress (R195). -/
structure SaveJob where
  tag : Nat
  copy : Config
deriving DecidableEq, Repr

/-- The K208. -/
structure State where
  powered : Bool                          -- POWER_LOSS, R195
  time : TimeBase
  ports : Vector PortState 4
  flows : List FlowEntry                  -- R69: the valid entries, at most 64
  params : Params                         -- R193
  table : List (Nat × TrigAction)         -- R156: the loadable entries that hold an action, codes rising
  chans : Vector Chan 8
  graphics : Vector Graphic 16            -- R174
  beat : Nat                              -- R95: site beat timer
  expired : Bool                          -- R95: its expired mark
  log : Log
  nextMain : Nat                          -- R188: notice number of MAIN_CTL
  nextLocal : Nat                         -- R188: notice number of LOCAL_CTL
  inMain : List Request                   -- R191: MAIN_CTL inbound queue, oldest first
  inLocal : List Request                  -- R191: LOCAL_CTL inbound queue, oldest first
  source : CfgSource                      -- R196
  flash : Image                           -- R195
  save : Option SaveJob                   -- R195: none is IDLE
  lastSave : SaveOutcome                  -- R195
  resetNotices : Bool                     -- R64: the eight reset notices wait
  defaultedNotice : Bool                  -- R196: the CONFIG DEFAULTED notice waits
  sent : List Sent                        -- R80: what the ports have transmitted, oldest first
  draws : Nat                             -- the model's counter of free values drawn
  pending : List Instr                    -- the commands waiting, first in, first out
deriving DecidableEq, Repr

/-! ## Reset values -/

/-- The defaults of the part-wide parameters (parameter table). -/
def PartParams.default : PartParams :=
  { rate := .f25, etherType := 0x9A20, siteBeatTimeout := 125, mirrorTimeout := 250, blackLevel := 80,
    silenceLevel := 256, replyTimeout := 12, probeInterval := 25, batchSize := 4, flushInterval := 25,
    retireGrace := 1500 }

/-- The default attribute classes and thresholds (R85). -/
def AttrParam.defaults : Vector AttrParam 8 :=
  #v[⟨.decisive, 25⟩, ⟨.decisive, 250⟩, ⟨.advisory, 500⟩, ⟨.advisory, 250⟩,
     ⟨.advisory, 50⟩, ⟨.advisory, 25⟩, ⟨.off, 125⟩, ⟨.advisory, 25⟩]

/-- The defaults of the per-channel parameters (parameter table). -/
def ChanParams.default : ChanParams :=
  { policy := .auto, standby := .cold, permission := false, lead := 50, margin := 25, holdoff := 25,
    healthyRun := 1500, freezeLimit := 250, fill := .black, eventLimit := 1024, sweepDepth := 32,
    alignDepth := 2, realignTolerance := 2, realignPersistence := 25, stallLimit := 25,
    resumeMode := .onTime, attrs := AttrParam.defaults }

/-- The bootstrap entry of a defaulted configuration (R69, R196). -/
def FlowEntry.bootstrap : FlowEntry := { tag := 1, port := 0, role := .localCtl, channel := none }

/-- The configuration loaded from defaults (R196). -/
def Config.default : Config :=
  { params := { part := PartParams.default, chans := Vector.replicate 8 ChanParams.default },
    flows := [FlowEntry.bootstrap], table := [] }

/-- A source after a reset (R82). -/
def Source.reset : Source :=
  { asm := none, fifo := [], completed := 0, incomplete := 0, pushedOut := 0, dropped := 0, stray := 0 }

/-- A player record after a part reset (R125). -/
def Player.reset : Player :=
  { state := .idle, loaded := none, roll := none, endF := none, stopF := none, stopConfirmed := false,
    flight := none, queue := [], lateRun := 0, probeTimer := 0, tags := 0 }

/-- A Feed Monitor after a reset (R100). -/
def Monitor.reset : Monitor :=
  { attrs := Vector.replicate 8 { run := 0, total := 0, worst := 0, flag := false }, state := .starting,
    holdoff := 0, healthy := 0, prevSig := none, last := none }

/-- A Frame Intake after a reset (R82); the takes of the period stand at none (log entry 50). -/
def Intake.reset : Intake :=
  { main := Source.reset, a := Source.reset, b := Source.reset, lastTaken := none, takeMain := none,
    takeA := none, takeB := none }

/-- A Sequencer after a part reset (R125). -/
def Seq.reset : Seq :=
  { onAir := none, landing := none, cued := none, preroll := none, breakClip := none, spent := [],
    a := Player.reset, b := Player.reset, sweep := none, shadow := false, realign := 0 }

/-- A Channel Controller after a reset (R147, R163). -/
def Ctl.reset : Ctl :=
  { mode := .mirror, switch := none, handed := none, ctx := none, monitor := .starting, pendingBreak := none,
    resume := none, expiry := none }

/-- The ident window after a part reset (R178). -/
def Window.reset : Window := { enabled := false, slot := 0, x := 0, y := 0, alpha := 16, blink := 0, phase := 0 }

/-- An Output Assembler after a part reset (R178). -/
def Out.reset : Out :=
  { counter := 0, held := none, holdRun := 0, last := .main, window := Window.reset, cues := [],
    lastIdent := false, lastCues := 0 }

/-- A channel after a part reset (R42, R64, R82, R100, R125, R147, R163, R178). -/
def Chan.reset : Chan :=
  { store := { current := [], refresh := none, orphan := none, anchor := none, scan := none },
    mirror := { state := .empty, lastSeq := 0, timer := 0 }, intake := Intake.reset, mon := Monitor.reset,
    seq := Seq.reset, ctl := Ctl.reset, trig := { pending := [], held := [] }, out := Out.reset }

/-- A graphic slot after a part reset (R178). -/
def Graphic.reset : Graphic := { state := .empty, width := 0, height := 0, expected := 0, bytes := [] }

/-- The As-Run Log after a part reset (R189). -/
def Log.reset : Log := { ring := [], counter := 0, unreported := 0, overrun := 0, tick := 0, triggers := [] }

/-- The Time Base after a part reset that loads rate code `rc` (R14, R18). The reference state is settled at
the end of the wait of R14; LOCKED stands here until then (DESIGN CHOICE, log entry 6). -/
def TimeBase.reset (rc : RateCode) : TimeBase :=
  { hfn := 0, waiting := true, timeState := .unset, refState := .locked, slips := 0, slipRun := false,
    relock := 0, rate := rc, lastBoundary := 0, lastPulse := none, built := false }

/-- A port whose link is `up`, after a part reset (R82). -/
def PortState.reset (up : Bool) : PortState :=
  { up := up, unknownTag := 0, badFrame := 0, oversize := 0, overflow := 0, mark := false }

/-- The part right after power-on with a blank flash (R196, R197; the blank flash is a DESIGN CHOICE, log entry 13). -/
def State.reset : State :=
  { powered := true, time := TimeBase.reset .f25, ports := Vector.replicate 4 (PortState.reset false),
    flows := Config.default.flows, params := Config.default.params, table := Config.default.table,
    chans := Vector.replicate 8 Chan.reset, graphics := Vector.replicate 16 Graphic.reset, beat := 0,
    expired := false, log := Log.reset, nextMain := 0, nextLocal := 0, inMain := [], inLocal := [],
    source := .defaulted .blank, flash := .blank, save := none, lastSave := .none, resetNotices := true,
    defaultedNotice := true, sent := [], draws := 0, pending := [] }

end Sys2Proof.Machine
end

