-- ==== Sys2Proof/Machine/Operands.lean ====
section
/-! DEFINITION. How operands are read: labels, days and frame numbers (R3 to R9), and the fields of packets in
the byte order and at the places of R200. -/

namespace Sys2Proof.Machine

open Sys2Proof

/-! ## Rate codes (introduction, R3) -/

/-- The timecode base b. -/
def RateCode.base : RateCode → Nat
  | .f25 => 25
  | .f2997 => 30
  | .f50 => 50
  | .f5994 => 60

/-- d, the labels dropped at the start of a dropped minute. -/
def RateCode.drop : RateCode → Nat
  | .f25 => 0
  | .f2997 => 2
  | .f50 => 0
  | .f5994 => 4

/-- F, the frames in a day. -/
def RateCode.perDay : RateCode → Nat
  | .f25 => 2160000
  | .f2997 => 2589408
  | .f50 => 4320000
  | .f5994 => 5178816

/-! ## Labels -/

/-- The value of two BCD digits. -/
def bcd (b : Byte) : Nat := b.toNat / 16 * 10 + b.toNat % 16

/-- Both BCD digits are 9 or less (R4). -/
def bcdOk (b : Byte) : Bool := decide (b.toNat / 16 ≤ 9) && decide (b.toNat % 16 ≤ 9)

/-- The byte of two BCD digits that holds `n`. -/
def toBcd (n : Nat) : Byte := BitVec.ofNat 8 (n / 10 * 16 + n % 10)

/-- A label is valid (R4). -/
def labelValid (rc : RateCode) (l : Label) : Bool :=
  bcdOk l.hh && bcdOk l.mm && bcdOk l.ss && bcdOk l.ff && decide (bcd l.hh ≤ 23) && decide (bcd l.mm ≤ 59) &&
    decide (bcd l.ss ≤ 59) && decide (bcd l.ff < RateCode.base rc)

/-- A label exists under the rate code (R5). -/
def labelExists (rc : RateCode) (l : Label) : Bool :=
  !(decide (bcd l.mm % 10 ≠ 0) && decide (bcd l.ss = 0) && decide (bcd l.ff < RateCode.drop rc))

/-- The first label that exists, for one that does not (R5). -/
def labelMoved (rc : RateCode) (l : Label) : Label :=
  if labelExists rc l then l else { l with ff := toBcd (RateCode.drop rc) }

/-- The frame of day of a valid label that exists (R6). -/
def frameOfDay (rc : RateCode) (l : Label) : Nat :=
  let m := 60 * bcd l.hh + bcd l.mm
  (3600 * bcd l.hh + 60 * bcd l.mm + bcd l.ss) * RateCode.base rc + bcd l.ff - RateCode.drop rc * (m - m / 10)

/-- A non-drop count of labels as HH, MM, SS, FF (R7, first case). -/
def labelOfCount (b f : Nat) : Label :=
  let s := f / b
  { hh := toBcd (s / 3600), mm := toBcd (s / 60 % 60), ss := toBcd (s % 60), ff := toBcd (f % b) }

/-- The adjustment of R7 for base 30 (`ten` 17,982, `minute` 1,798, `d` 2) and base 60 (35,964, 3,596, 4). -/
def dropAdjust (ten minute d f : Nat) : Nat :=
  let M := f % ten
  9 * d * (f / ten) + (if M < d then 0 else d * ((M - d) / minute))

/-- The label of a frame of day (R7). -/
def labelOfDay (rc : RateCode) (f : Nat) : Label :=
  match rc with
  | .f25 => labelOfCount 25 f
  | .f50 => labelOfCount 50 f
  | .f2997 => labelOfCount 30 (f + dropAdjust 17982 1798 2 f)
  | .f5994 => labelOfCount 60 (f + dropAdjust 35964 3596 4 f)

/-- The HFN that a day and a label name, the label moved under R5 first (R8). -/
def hfnOf (rc : RateCode) (day : Nat) (l : Label) : Nat :=
  day * RateCode.perDay rc + frameOfDay rc (labelMoved rc l)

/-- A frame number with its day and label (R8). -/
def whenOf (rc : RateCode) (h : Frame) : When :=
  { hfn := h, day := (h / (RateCode.perDay rc : Int) % 65536).toNat,
    label := labelOfDay rc (h % (RateCode.perDay rc : Int)).toNat }

/-- The outcomes of the conversion of R9. -/
inductive Conv
  | frame (h : Nat) (moved : Bool)
  | malformed
  | timeUnset
deriving DecidableEq, Repr

/-- The conversion of R9, its checks in the order of the table there. -/
def convert (rc : RateCode) (timeSet : Bool) (day : Nat) (l : Label) : Conv :=
  if labelValid rc l = false then .malformed
  else if timeSet = false then .timeUnset
  else .frame (hfnOf rc day l) (!labelExists rc l)

/-! ## Fields of packets (R200) -/

/-- The number that bytes spell, most significant first. -/
def beNat (l : List Byte) : Nat := l.foldl (fun n b => n * 256 + b.toNat) 0

/-- The field of `n` bytes at byte `at_` of a packet's first bytes. -/
def headField (at_ n : Nat) (e : Eth) : Nat := beNat ((e.head.drop at_).take n)

/-- The flow tag, bytes 0 and 1 (R200). -/
def flowTag (e : Eth) : Nat := headField 0 2 e

/-- The packet type, byte 2: FRAME_HEADER 0, VIDEO 1, AUDIO 2, CONTROL 3 (R200). -/
def packetType (e : Eth) : Nat := headField 2 1 e

/-- A control packet's kind, byte 3: REQUEST 0, REPLY 1, NOTICE 2 (R200). -/
def controlKind (e : Eth) : Nat := headField 3 1 e

/-- A control packet's code, byte 4 (R200). -/
def controlCode (e : Eth) : Nat := headField 4 1 e

/-- A control packet's request tag, bytes 5 and 6 (R190, R200). -/
def requestTag (e : Eth) : Nat := headField 5 2 e

/-- A request's control header as its check reads it (R190, R200): request tag, channel and body length from their
bytes, and the bytes of body that the packet holds. Byte 8, the status, is disregarded. A header that the packet cuts
short states a body that runs past its end (log entry 11). -/
def requestHead (e : Eth) (present : Nat) : Head :=
  { tag := requestTag e, channel := headField 7 1 e, present := present,
    bodyLen := if e.head.length < 11 then present + 1 else headField 9 2 e }

/-- The part of a body's last field that the stated body length takes in: the field ends where the packet does, and the
bytes beyond the stated length are disregarded (R190; log entry 10). -/
def statedPart (h : Head) (l : List Byte) : List Byte := l.take (min h.bodyLen (l.length - (h.present - h.bodyLen)))

/-- The next `n` bytes as one number, and the bytes after them; none when the packet ends before. -/
def readBe (n : Nat) (l : List Byte) : Option (Nat × List Byte) :=
  if l.length < n then none else some (beNat (l.take n), l.drop n)

/-- Four label bytes, and the bytes after them. -/
def readLabel (l : List Byte) : Option (Label × List Byte) :=
  match l with
  | h :: m :: s :: f :: rest => some ({ hh := h, mm := m, ss := s, ff := f }, rest)
  | _ => none

/-- The essence frame header, bytes 3 to 26 of the packet (R72, R200); bytes from 27 on are disregarded. A
position stamp with event id 0 is taken as absent; a pass byte of 255 is kept as it is (log entry 61). -/
def readFrameHeader (l : List Byte) : Option FrameHdr := do
  let (count, l) ← readBe 2 l
  let (label, l) ← readLabel l
  let (day, l) ← readBe 2 l
  let (flags, l) ← readBe 1 l
  let (pass, l) ← readBe 1 l
  let (event, l) ← readBe 4 l
  let (offset, l) ← readBe 4 l
  let (hfn, _) ← readBe 6 l
  pure { count := count, label := label, day := day,
         stamp := if flags % 2 = 1 ∧ event ≠ 0 then some { event := event, offset := offset, pass := pass } else none,
         hfn := if flags / 2 % 2 = 1 then some hfn else none }

/-- `n` samples of `k` bytes each; none when the packet ends before. -/
def readSamples (k : Nat) : Nat → List Byte → Option (List Nat)
  | 0, _ => some []
  | n + 1, l => do
    let (v, l) ← readBe k l
    let vs ← readSamples k n l
    pure (v :: vs)

/-- A VIDEO packet (R74, R200). -/
structure VideoPkt where
  index : Nat
  line : Nat
  first : Nat
  samples : List (BitVec 10)
deriving DecidableEq, Repr

/-- Reads a VIDEO packet; each sample is the low 10 bits of its two bytes. -/
def readVideo (l : List Byte) : Option VideoPkt := do
  let (index, l) ← readBe 2 l
  let (line, l) ← readBe 2 l
  let (first, l) ← readBe 2 l
  let (count, l) ← readBe 2 l
  let vs ← readSamples 2 count l
  pure { index := index, line := line, first := first, samples := vs.map (BitVec.ofNat 10) }

/-- An AUDIO packet (R74, R200). -/
structure AudioPkt where
  index : Nat
  samples : List (BitVec 24)
deriving DecidableEq, Repr

/-- Reads an AUDIO packet; each sample is three bytes, signed. -/
def readAudio (l : List Byte) : Option AudioPkt := do
  let (index, l) ← readBe 2 l
  let (count, l) ← readBe 2 l
  let vs ← readSamples 3 count l
  pure { index := index, samples := vs.map (BitVec.ofNat 24) }

/-- A PUT's fields as carried (R200), before the checks of R25. -/
structure Put where
  id : Nat
  key : Nat
  timing : Nat
  action : Nat
  passes : Nat
  day : Nat
  label : Label
  duration : Nat
  clip : Nat
  inPoint : Nat
  subst : Nat
  triggers : List (Nat × Nat)
deriving DecidableEq, Repr

/-- An operation of a MIRROR_BATCH (R44). -/
inductive BatchOp
  | put (p : Put)
  | remove (id : Nat)
deriving DecidableEq, Repr

/-- `n` triggers of a PUT, five bytes each. -/
def readTriggers : Nat → List Byte → Option (List (Nat × Nat) × List Byte)
  | 0, l => some ([], l)
  | n + 1, l => do
    let (code, l) ← readBe 1 l
    let (offset, l) ← readBe 4 l
    let (ts, l) ← readTriggers n l
    pure ((code, offset) :: ts, l)

/-- The event record as carried in a PUT (R200). -/
def readPut (l : List Byte) : Option (Put × List Byte) := do
  let (id, l) ← readBe 4 l
  let (key, l) ← readBe 4 l
  let (timing, l) ← readBe 1 l
  let (action, l) ← readBe 1 l
  let (passes, l) ← readBe 1 l
  let (tcount, l) ← readBe 1 l
  let (day, l) ← readBe 2 l
  let (label, l) ← readLabel l
  let (duration, l) ← readBe 4 l
  let (clip, l) ← readBe 4 l
  let (inPoint, l) ← readBe 4 l
  let (subst, l) ← readBe 4 l
  let (triggers, l) ← readTriggers tcount l
  pure ({ id := id, key := key, timing := timing, action := action, passes := passes, day := day, label := label,
          duration := duration, clip := clip, inPoint := inPoint, subst := subst, triggers := triggers }, l)

/-- One operation: PUT 0 and the record, or REMOVE 1 and the event id (R200). -/
def readOp (l : List Byte) : Option (BatchOp × List Byte) := do
  let (k, l) ← readBe 1 l
  if k = 0 then
    let (p, l) ← readPut l
    pure (.put p, l)
  else if k = 1 then
    let (id, l) ← readBe 4 l
    pure (.remove id, l)
  else none

/-- The operations of a body, read to its end; none when it cannot be read so (R45). `fuel` bounds the number
of operations. -/
def readOpsAux : Nat → List Byte → Option (List BatchOp)
  | _, [] => some []
  | 0, _ :: _ => none
  | fuel + 1, l => do
    let (op, l) ← readOp l
    let ops ← readOpsAux fuel l
    pure (op :: ops)

/-- The operations of a MIRROR_BATCH body (R45). -/
def readOps (l : List Byte) : Option (List BatchOp) := readOpsAux l.length l

/-! ## Channels and roles -/

/-- A channel value 0 to 7 (R45, R134 and every rule that refuses BAD_CHANNEL). -/
def chanOf (n : Nat) : Option Ch := if h : n < 8 then some ⟨n, h⟩ else none

/-- A port code, L0 to L3 (R70). -/
def portOf (n : Nat) : Option Port := if h : n < 4 then some ⟨n, h⟩ else none

/-- The roles that take a channel (R69). -/
def roleHasChannel : Role → Bool
  | .mainReturn => true
  | .playerA => true
  | .playerB => true
  | .output => true
  | .mainCtl => false
  | .localCtl => false

/-- The loadable action a TRIGGER_LOAD stores, once its checks have passed (R157). -/
def loadedAction : LoadAction → Option TrigAction
  | .outputCue p adv => some (.outputCue p adv)
  | .ident slot (some on) => some (.ident slot on)
  | .ident _ none => none
  | .notify => some .notify
  | .other => none

/-- The action code of R38: PLAY 0, BLANK 1, DROP 2, SUBSTITUTE 3. -/
def actionCode : Action → Nat
  | .play => 0
  | .blank => 1
  | .drop => 2
  | .substitute => 3

/-- The action a code names (R25). -/
def actionOf : Nat → Option Action
  | 0 => some .play
  | 1 => some .blank
  | 2 => some .drop
  | 3 => some .substitute
  | _ => none

end Sys2Proof.Machine
end

