-- ==== Sys2Proof/Machine/Flags.lean ====
section
/-! DEFINITION. How counts, runs and marks move: saturating counters (introduction, "Numbers"), the counts of an
attribute record (R87) and its advisory flag (R88), and the decisive tests of R90. -/

namespace Sys2Proof.Machine

open Sys2Proof

/-- A count of 32 bits that stops at its maximum. -/
def sat32 (n : Nat) : Nat := if n < two32 - 1 then n + 1 else two32 - 1

/-- A count of 16 bits that stops at its maximum. -/
def sat16 (n : Nat) : Nat := if n < two16 - 1 then n + 1 else two16 - 1

/-- What a period says of an attribute (R85). -/
inductive Cond
  | holds
  | lacks
  | held
deriving DecidableEq, Repr

/-- The update of R87, the worst run last. -/
def Attr.update (a : Attr) (c : Cond) : Attr :=
  let run := match c with
    | .holds => sat16 a.run
    | .lacks => 0
    | .held => a.run
  let total := match c with
    | .holds => sat32 a.total
    | .lacks => a.total
    | .held => a.total
  { a with run := run, total := total, worst := max a.worst run }

/-- The advisory flag rises (R88): an ADVISORY record with its run at its threshold and its flag clear. -/
def Attr.raises (p : AttrParam) (a : Attr) : Bool :=
  decide (p.cls = .advisory) && decide (p.threshold ≤ a.run) && !a.flag

/-- The advisory flag falls (R88): an ADVISORY record whose run stands at 0 with its flag raised. -/
def Attr.clears (p : AttrParam) (a : Attr) : Bool :=
  decide (p.cls = .advisory) && decide (a.run = 0) && a.flag

/-- A DECISIVE run has reached its threshold (R90). -/
def Attr.reached (p : AttrParam) (a : Attr) : Bool :=
  decide (p.cls = .decisive) && decide (p.threshold ≤ a.run)

/-- A record shows a decisive condition in a period (R90): its condition held, or it was held with a run
above 0. After the update of R87 both are the same as a run above 0. -/
def Attr.shows (p : AttrParam) (a : Attr) : Bool :=
  decide (p.cls = .decisive) && decide (0 < a.run)

/-- Some DECISIVE run has reached its threshold. -/
def anyReached (ps : Vector AttrParam 8) (as : Vector Attr 8) : Bool :=
  (List.finRange 8).any fun i => Attr.reached ps[i] as[i]

/-- The period shows a decisive condition. -/
def anyShows (ps : Vector AttrParam 8) (as : Vector Attr 8) : Bool :=
  (List.finRange 8).any fun i => Attr.shows ps[i] as[i]

/-- The numbers and runs of the DECISIVE records at their thresholds, for a MONITOR notice (R94). -/
def reachedRuns (ps : Vector AttrParam 8) (as : Vector Attr 8) : List (Nat × Nat) :=
  (List.finRange 8).filterMap fun i => if Attr.reached ps[i] as[i] then some (i.val, as[i].run) else none

end Sys2Proof.Machine
end

