-- ==== Sys2Proof/Machine/Ops.lean ====
section
/-! DEFINITION. The shared operations: sparse stores in their one canonical form, channels and ports, the flow
table, sending under R80 and R188, the As-Run Log's ring (R179 to R183), and the running of a channel's
blocks. -/

namespace Sys2Proof.Machine

open Sys2Proof

/-! ## Sparse stores -/

/-- What is listed at an address. -/
def cellAt {α : Type} (k : Nat) : List (Nat × α) → Option α
  | [] => none
  | (j, v) :: m => if j = k then some v else cellAt k m

/-- The list with `v` at address `k`. -/
def cellSet {α : Type} (k : Nat) (v : α) : List (Nat × α) → List (Nat × α)
  | [] => [(k, v)]
  | (j, w) :: m => if k < j then (k, v) :: (j, w) :: m else if k = j then (k, v) :: m else (j, w) :: cellSet k v m

/-- The list without address `k`. -/
def cellDrop {α : Type} (k : Nat) : List (Nat × α) → List (Nat × α)
  | [] => []
  | (j, w) :: m => if j = k then m else (j, w) :: cellDrop k m

/-- Addresses strictly rising. -/
def risingBelow {α : Type} (lo : Nat) : List (Nat × α) → Bool
  | [] => true
  | (j, _) :: m => decide (lo ≤ j) && risingBelow (j + 1) m

/-- The canonical order of a sparse store. -/
abbrev cellsRise {α : Type} (m : List (Nat × α)) : Bool := risingBelow 0 m

/-! ### Pictures (R74) -/

/-- The number of a position of a line. -/
def picKey (line pos : Nat) : Nat := line * 3840 + pos

/-- Black at a position: luma 64 at odd positions, chroma 512 at even ones (R74). -/
def blackAt (k : Nat) : BitVec 10 := if k % 2 = 1 then 64#10 else 512#10

/-- The sample at a position. -/
def Picture.read (p : Picture) (k : Nat) : BitVec 10 := (cellAt k p).getD (blackAt k)

/-- The picture with a sample stored; a position that holds black is not listed. -/
def Picture.write (p : Picture) (k : Nat) (v : BitVec 10) : Picture :=
  if v = blackAt k then cellDrop k p else cellSet k v p

/-- The canonical form of a picture. -/
def Picture.wf (p : Picture) : Bool := cellsRise p && p.all fun c => decide (c.2 ≠ blackAt c.1)

/-- Black throughout. -/
def Picture.black : Picture := []

/-! ### Graphic bytes (R175) -/

/-- The slot's bytes with `data` stored from `offset` on. -/
def storeBytes (offset : Nat) : List Byte → List Host.Cell → List Host.Cell
  | [], m => m
  | b :: bs, m => storeBytes (offset + 1) bs (cellSet offset b m)

/-- A graphic's sample number `i`: 16 bits, most significant byte first (R200). -/
def graphicSample (g : Graphic) (i : Nat) : Nat :=
  ((cellAt (2 * i) g.bytes).getD 0).toNat * 256 + ((cellAt (2 * i + 1) g.bytes).getD 0).toNat

/-- Each sample above 1023 is set to 1023 as a load ends READY (R175). A READY slot lists every position, so its
bytes stand in pairs. -/
def clampSamples : List Host.Cell → List Host.Cell
  | (i, h) :: (j, l) :: m =>
    (if 1023 < h.toNat * 256 + l.toNat then [(i, 3), (j, 255)] else [(i, h), (j, l)]) ++ clampSamples m
  | m => m

/-! ## Channels and ports -/

/-- Change one channel. -/
def State.setCh (s : State) (c : Ch) (x : Chan) : State := { s with chans := s.chans.set c x }

/-- Change one port. -/
def State.modPort (s : State) (p : Port) (f : PortState → PortState) : State :=
  { s with ports := s.ports.set p (f s.ports[p]) }

/-- A player's record. -/
def Seq.player (q : Seq) : PlayerId → Player
  | .a => q.a
  | .b => q.b

/-- Change a player's record. -/
def Seq.setPlayer (q : Seq) (p : PlayerId) (x : Player) : Seq :=
  match p with
  | .a => { q with a := x }
  | .b => { q with b := x }

/-- The other player. -/
def PlayerId.other : PlayerId → PlayerId
  | .a => .b
  | .b => .a

/-- The event records a channel holds: both generations and the orphan (R19). -/
def Store.held (t : Store) : Nat :=
  t.current.length + (match t.refresh with | some r => r.events.length | none => 0) +
    (match t.orphan with | some _ => 1 | none => 0)

/-- The event records that all channels hold. -/
def State.heldAll (s : State) : Nat := (s.chans.toList.map fun c => Store.held c.store).sum

/-- The free event records of the pool (R19). -/
def State.free (s : State) : Nat := Config.poolSize - s.heldAll

/-! ## The flow table (R66, R69) -/

/-- The valid entry that holds a tag. -/
def entryByTag (fl : List FlowEntry) (tag : Nat) : Option FlowEntry := fl.find? fun e => decide (e.tag = tag)

/-- The valid entry of a role and channel. -/
def entryByRole (fl : List FlowEntry) (r : Role) (c : Option Ch) : Option FlowEntry :=
  fl.find? fun e => decide (e.role = r) && decide (e.channel = c)

/-- The role of a control flow. -/
def ctlRole : CtlFlow → Role
  | .main => .mainCtl
  | .loc => .localCtl

/-- The port and tag of a control flow as they stand (R80). -/
def State.ctlAddr (s : State) (f : CtlFlow) : Option (Port × Nat) :=
  (entryByRole s.flows (ctlRole f) none).map fun e => (e.port, e.tag)

/-- The role of a player. -/
def playerRole : PlayerId → Role
  | .a => .playerA
  | .b => .playerB

/-- The port of the LOCAL_CTL entry has its link UP (R183). -/
def State.localUp (s : State) : Bool :=
  match s.ctlAddr .loc with
  | some (p, _) => s.ports[p].up
  | none => false

/-- A valid MAIN_CTL entry whose port has its link UP (R64). -/
def State.mainUp (s : State) : Bool :=
  match s.ctlAddr .main with
  | some (p, _) => s.ports[p].up
  | none => false

/-! ## Sending -/

/-- A packet leaves on a port and tag; when the entry is missing or the link DOWN it is not sent and not
kept (R80). -/
def State.transmit (s : State) (addr : Option (Port × Nat)) (o : Outgoing) : State :=
  match addr with
  | none => s
  | some (p, tag) => if s.ports[p].up then { s with sent := s.sent ++ [{ port := p, tag := tag, what := o }] } else s

/-- The notice number a flow will give next (R188). -/
def State.nextNotice (s : State) : CtlFlow → Nat
  | .main => s.nextMain
  | .loc => s.nextLocal

/-- The number advances for every notice made, mod 65536 (R188). -/
def State.bumpNotice (s : State) (f : CtlFlow) : State :=
  match f with
  | .main => { s with nextMain := (s.nextMain + 1) % two16 }
  | .loc => { s with nextLocal := (s.nextLocal + 1) % two16 }

/-- A notice is made: it takes the next number of its flow and is sent on the flow's entry (R188). -/
def State.notice (s : State) (f : CtlFlow) (channel : Nat) (n : Notice) : State :=
  (s.bumpNotice f).transmit (s.ctlAddr f) (.notice f (s.nextNotice f) channel n)

/-- Now, as a day and label (R8). -/
def State.now (s : State) : When := whenOf s.time.rate s.time.hfn

/-! ## The As-Run Log -/

/-- The reporting cursor (R181). -/
def Log.cursor (l : Log) : Nat := (l.counter + two32 - l.unreported) % two32

/-- The unreported records, oldest first. -/
def Log.waiting (l : Log) : List AsRunRec := l.ring.drop (l.ring.length - l.unreported)

/-- The waiting time of the oldest unreported record (R182). -/
def Log.waited (l : Log) : Option Nat :=
  match l.waiting with
  | [] => none
  | r :: _ => some ((l.tick + two32 - r.tick) % two32)

/-- A record joins the ring (R179, R181). -/
def Log.append (l : Log) (r : RecProto) : Log :=
  let rec' : AsRunRec := { number := l.counter, body := r, tick := l.tick }
  let full := decide (Config.ringSize ≤ l.ring.length)
  let lost := full && decide (l.ring.length ≤ l.unreported)
  { l with
    ring := (if full then l.ring.drop 1 else l.ring) ++ [rec']
    counter := (l.counter + 1) % two32
    unreported := if lost then l.unreported else l.unreported + 1
    overrun := if lost then sat32 l.overrun else l.overrun }

/-- One AS_RUN notice of the `n` oldest unreported records (R183). -/
def emitAsRun (n : Nat) (s : State) : State :=
  let l := s.log
  let recs := l.waiting.take n
  let left := l.unreported - recs.length
  State.notice { s with log := { l with unreported := left, overrun := 0 } } .loc 15
    (.asRun l.cursor recs.length recs l.overrun left s.now)

/-- How many records the next AS_RUN notice carries, if one is due (R183). -/
def asRunDue (s : State) : Option Nat :=
  let l := s.log
  let size := s.params.part.batchSize
  if size = 0 ∨ s.localUp = false ∨ l.unreported = 0 then none
  else if size ≤ l.unreported then some size
  else match l.waited with
    | some w => if s.params.part.flushInterval ≤ w then some (min size l.unreported) else none
    | none => none

/-- The test of R183: notices one after another until neither condition holds. -/
def asRunTest : Nat → State → State
  | 0, s => s
  | fuel + 1, s =>
    match asRunDue s with
    | some n => asRunTest fuel (emitAsRun n s)
    | none => s

/-- The test of R183 with enough room for every unreported record. -/
def State.testAsRun (s : State) : State := asRunTest s.log.unreported s

/-- A record is appended and the test of R183 is made (R179, R183). -/
def State.append (s : State) (r : RecProto) : State := State.testAsRun { s with log := s.log.append r }

/-- A block hands a record (R179). A TRIGGER record waits for the end of the period, behind the item records that the period may
still make (R160; log entry 88). -/
def State.record (s : State) (r : RecProto) : State :=
  if r.kind = .trigger then { s with log := { s.log with triggers := s.log.triggers ++ [r] } } else s.append r

/-- The waiting TRIGGER records that a test picks are appended, in the order in which they were made. -/
def State.appendTriggers (pick : RecProto → Bool) (s : State) : State :=
  (s.log.triggers.filter pick).foldl State.append
    { s with log := { s.log with triggers := s.log.triggers.filter fun r => !pick r } }

/-- A period ends: its TRIGGER records are appended, before its number and the log tick move on (R160, R179). -/
def State.closePeriod (s : State) : State := s.appendTriggers fun _ => true

/-! ## Running a channel's blocks -/

/-- What a channel reads of the rest of the part. -/
def envOf (s : State) (c : Ch) : Env :=
  { ch := c, now := s.time.hfn, built := s.time.built, rate := s.time.rate,
    timeSet := decide (s.time.timeState = .set), part := s.params.part, cp := s.params.chans[c],
    table := s.table, others := s.heldAll - Store.held s.chans[c].store, expired := s.expired }

/-- One thing a channel's blocks handed on reaches the part. -/
def applyEffect (c : Ch) (s : State) (e : Effect) : State :=
  match e with
  | .record r => s.record r
  | .notice f ch n => s.notice f ch n
  | .request p tag req =>
    s.transmit ((entryByRole s.flows (playerRole p) (some c)).map fun e => (e.port, e.tag)) (.player c p tag req)
  | .reply addr f code tag ch st body => s.transmit addr (.reply f code tag ch st body)

/-- Runs an operation of channel `c` and hands its effects on, in order. -/
def runCh (c : Ch) (op : Env → W → W) (s : State) : State :=
  let w := op (envOf s c) { ch := s.chans[c], fx := [] }
  w.fx.foldl (applyEffect c) (s.setCh c w.ch)

/-- Runs an operation on every channel, 0 to 7 (records of different channels may stand in either order, R179). -/
def runAll (op : Env → W → W) (s : State) : State :=
  (List.finRange 8).foldl (fun s c => runCh c op s) s

/-- Hand one thing on. -/
def W.emit (w : W) (e : Effect) : W := { w with fx := w.fx ++ [e] }

/-- A notice of a channel. -/
def W.notice (w : W) (env : Env) (f : CtlFlow) (n : Notice) : W := w.emit (.notice f env.ch.val n)

/-- A frame with its day and label. -/
def Env.at (env : Env) (h : Frame) : When := whenOf env.rate h

/-- A frame is past when the output frame bearing it has already been built (R158). -/
def Env.past (env : Env) (h : Frame) : Bool := decide (h < env.now) || (decide (h = env.now) && env.built)

/-- The first frame not yet built (R158). -/
def Env.firstUnbuilt (env : Env) : Frame := if env.built then env.now + 1 else env.now

end Sys2Proof.Machine
end

