-- ==== Sys2Proof/Machine/Schedule.lean ====
section
/-! DEFINITION. The Schedule Store (chapter 2): the lists and the pool, PUT and REMOVE, the anchor, resolution,
retirement and digests. -/

namespace Sys2Proof.Machine

open Sys2Proof

/-! ## Lists -/

/-- The list with a record at the place its order key gives; before a record with the same key (R20, R33). -/
def insertByKey (e : Event) : List Event → List Event
  | [] => [e]
  | x :: xs => if e.key ≤ x.key then e :: x :: xs else x :: insertByKey e xs

/-- The list without an id. -/
def removeId (id : Nat) (l : List Event) : List Event := l.filter fun e => decide (e.id ≠ id)

/-- The event of an id in a list. -/
def lookupId (id : Nat) (l : List Event) : Option Event := l.find? fun e => decide (e.id = id)

/-- The CURRENT event of an id, or the orphan. -/
def Store.event (t : Store) (id : Nat) : Option Event :=
  match lookupId id t.current with
  | some e => some e
  | none => match t.orphan with
    | some o => if o.id = id then some o else none
    | none => none

/-- Change the CURRENT event of an id, or the orphan. -/
def Store.modEvent (t : Store) (id : Nat) (f : Event → Event) : Store :=
  { t with
    current := t.current.map fun e => if e.id = id then f e else e
    orphan := t.orphan.map fun e => if e.id = id then f e else e }

/-- The CURRENT events with the orphan at its place (R33). -/
def Store.merged (t : Store) : List Event :=
  match t.orphan with
  | some o => insertByKey o t.current
  | none => t.current

/-! ## Effective length and digest terms -/

/-- The effective length L (R31). -/
def effLen (e : Event) : Nat := if e.action = .drop then 0 else e.passes * e.duration

/-- The digest term (R38); for a record with a held part, with the held clip handle and action (R60). -/
def digestTerm (e : Event) : Nat :=
  let clip := match e.held with | some h => h.clip | none => e.clip
  let act := match e.held with | some h => h.action | none => e.action
  let startTerm := match e.fixed with | some s => s % two32 | none => 0
  (e.id + 3 * e.duration + 5 * e.passes + 7 * startTerm + 11 * clip + 13 * e.key + 17 * actionCode act) % two32

/-- The digest of a set of events (R38). -/
def digestOf (l : List Event) : Nat × Nat := (l.length, (l.map digestTerm).sum % two32)

/-! ## Resolution (R31 to R35) -/

/-- What a resolution reads besides the records: now, the anchor, the end of the orphan's item on air (R55), and
the end R154 gives an orphan at a resume. -/
structure RCtx where
  now : Frame
  anchor : Option Anchor
  orphanItemEnd : Option Frame
  orphanFixed : Option Frame
deriving DecidableEq, Repr

/-- The end of an event that starts at `start` before the limits of R34: its own, or truncated by a FIXED event that
follows (R33); an orphan's is that of its item on air (R55), and its own while none of its items is on air
(log entry 82). `next` is the start frame of the next event if that is FIXED. -/
def askedEnd (x : RCtx) (origin start : Frame) (e : Event) (next : Option Nat) : Frame :=
  let natural := match e.lifecycle, x.orphanItemEnd with
    | .orphan, some f => f
    | _, _ => origin + effLen e
  max start (match next with
    | some s => min natural (s : Frame)
    | none => natural)

/-- The frame now + 2 of the last change that shortened the event while ON_AIR (R34, R60); for an orphan no later than
the end of its item on air (R55). It stands once the event has left the air, but for one that a step of HFN has put too far ahead
(log entry 17). -/
def onAirFloor (x : RCtx) (asked : Frame) (e : Event) : Option Frame :=
  match e.res, e.lifecycle, x.orphanItemEnd with
  | some r, .onAir, _ => if asked < r.asked then some (x.now + 2) else r.floor
  | some r, .orphan, some f => if asked < r.asked then some (min (x.now + 2) f) else r.floor.map (min · f)
  | some r, _, _ => r.floor.filter fun f => decide (f ≤ x.now + 2)
  | none, _, _ => none

/-- The resolved end of an event: the end asked for, held no earlier than the two limits of R34; R154 gives an orphan's
end at a resume. -/
def resolvedEnd (x : RCtx) (origin start : Frame) (e : Event) (next : Option Nat) : Frame :=
  let asked := askedEnd x origin start e next
  let stop := match onAirFloor x asked e with
    | some f => max asked f
    | none => asked
  match x.anchor with
  | some a =>
    if a.event = e.id then
      (match e.lifecycle, x.orphanFixed with
       | .orphan, some f => max start f
       | _, _ => max stop (a.frame + 1))
    else stop
  | none => stop

/-- The event with its three derived frames. -/
def Event.resolveAt (x : RCtx) (origin start : Frame) (e : Event) (next : Option Nat) : Event :=
  let asked := askedEnd x origin start e next
  { e with res := some { origin := origin, start := start, stop := resolvedEnd x origin start e next, asked := asked,
                         floor := onAirFloor x asked e } }

/-- The event without derived frames: UNANCHORED. -/
def Event.unanchor (e : Event) : Event := { e with res := none }

/-- The start frame of the first event of a list, if that is FIXED. -/
def nextFixed : List Event → Option Nat
  | [] => none
  | e :: _ => e.fixed

/-- The walk of R33 over the events after the first; `c` is the resolved end of the event before. -/
def resolveWalk (x : RCtx) (c : Frame) : List Event → List Event
  | [] => []
  | e :: rest =>
    let origin : Frame := match e.fixed with | some s => (s : Frame) | none => c
    let start : Frame := match e.fixed with | some s => max (s : Frame) c | none => c
    let stop := resolvedEnd x origin start e (nextFixed rest)
    e.resolveAt x origin start (nextFixed rest) :: resolveWalk x stop rest

/-- The walk from its first event, whose origin and resolved start are `o` (R33, R35). -/
def resolveHead (x : RCtx) (o : Frame) (e : Event) (rest : List Event) : List Event :=
  e.resolveAt x o o (nextFixed rest) :: resolveWalk x (resolvedEnd x o o e (nextFixed rest)) rest

/-- Resolution from the event of id `id`, with the events before it UNANCHORED (R33). -/
def resolveFromId (x : RCtx) (id : Nat) (o : Frame) : List Event → List Event
  | [] => []
  | e :: rest => if e.id = id then resolveHead x o e rest else e.unanchor :: resolveFromId x id o rest

/-- Resolution from the first FIXED event of the generation (R35); the orphan does not begin it. -/
def resolveFromFixed (x : RCtx) : List Event → List Event
  | [] => []
  | e :: rest =>
    match e.fixed with
    | some s => if e.lifecycle = .orphan then e.unanchor :: resolveFromFixed x rest else resolveHead x s e rest
    | none => e.unanchor :: resolveFromFixed x rest

/-- The merged list resolved. -/
def resolveList (x : RCtx) (l : List Event) : List Event :=
  match x.anchor with
  | some a => if l.any (fun e => decide (e.id = a.event)) then resolveFromId x a.event (a.frame - a.offset) l
              else resolveFromFixed x l
  | none => resolveFromFixed x l

/-- The CURRENT generation and the orphan resolved again (R32). -/
def Store.resolve (x : RCtx) (t : Store) : Store :=
  let l := resolveList { x with anchor := t.anchor } t.merged
  { t with current := l.filter (fun e => decide (e.lifecycle ≠ .orphan))
           orphan := l.find? (fun e => decide (e.lifecycle = .orphan)) }

/-! ## Retirement (R36) -/

/-- The order key of the anchor event, when it stands in the CURRENT generation or is the orphan. -/
def Store.anchorKey (t : Store) : Option Nat :=
  match t.anchor with
  | some a => (t.event a.event).map (·.key)
  | none => none

/-- An event is due for retirement. -/
def retires (now : Frame) (grace : Nat) (anchorKey : Option Nat) (e : Event) : Bool :=
  decide (e.lifecycle = .pending) &&
    ((match anchorKey with | some k => decide (e.key < k) | none => false) ||
     (match e.res with | some r => decide (r.stop ≤ now - grace) | none => false))

/-- A scan in progress restarts (R40). -/
def Scan.restart (s : Scan) : Scan := { s with next := s.key, runCount := 0, runSum := 0 }

/-- A change to the CURRENT generation for the digest scan (R40). -/
def Store.scanChanged (t : Store) : Store := { t with scan := t.scan.map Scan.restart }

/-- Resolve and retire until nothing more retires (R32: a retirement makes the store resolve again). -/
def resolveRetire (x : RCtx) (grace : Nat) : Nat → Store → Store
  | 0, t => t.resolve x
  | fuel + 1, t =>
    let t := t.resolve x
    let key := t.anchorKey
    if t.current.any (retires x.now grace key) then
      resolveRetire x grace fuel
        (Store.scanChanged { t with current := t.current.filter fun e => !retires x.now grace key e })
    else t

/-! ## PUT (R24 to R28) -/

/-- The form checks of R25. -/
def putMalformed (rc : RateCode) (p : Put) : Bool :=
  decide (p.id = 0) || decide (1 < p.timing) || (actionOf p.action).isNone ||
    (decide (p.timing = 0) && !labelValid rc p.label) ||
    decide (p.duration = 0) || decide (16777215 < p.duration) || decide (p.passes = 0) || decide (255 < p.passes) ||
    decide (16777215 < p.inPoint) ||
    ((decide (p.action = 0) || decide (p.action = 3)) && decide (p.clip = 0)) ||
    (decide (p.action = 3) && decide (p.subst = 0)) ||
    decide (4 < p.triggers.length) || p.triggers.any (fun t => decide (p.passes * p.duration ≤ t.2))

/-- The event a PUT inserts (R26, R28). -/
def putEvent (rc : RateCode) (p : Put) : Event :=
  { id := p.id, key := p.key, fixed := if p.timing = 0 then some (hfnOf rc p.day p.label) else none,
    duration := p.duration, passes := p.passes, clip := p.clip, inPoint := p.inPoint,
    action := (actionOf p.action).getD .play, subst := if p.subst = 0 then none else some p.subst,
    triggers := p.triggers.map fun t => { code := t.1, offset := t.2, mark := none },
    res := none, readiness := .unknown, lifecycle := .pending, held := none }

/-- The two trigger lists carry the same codes and offsets. -/
def sameTriggers (a b : List Trig) : Bool :=
  decide (a.map (fun t => (t.code, t.offset)) = b.map (fun t => (t.code, t.offset)))

/-- A replacing PUT keeps readiness unless it changes one of the fields R28 names. -/
def readinessKept (old new : Event) : Bool :=
  decide (old.clip = new.clip) && decide (old.subst = new.subst) && decide (old.inPoint = new.inPoint) &&
    decide (old.duration = new.duration) && decide (old.key = new.key)

/-- The four fields that wait for the next pass while the event is ON_AIR differ (R24, R60). -/
def holdsBack (old new : Event) : Bool :=
  !(decide (old.clip = new.clip) && decide (old.inPoint = new.inPoint) && decide (old.subst = new.subst) &&
    decide (old.action = new.action))

/-- The record as a replacing PUT leaves it (R28). For the ON_AIR event the four fields go into the held part
(R60), used from pass `fromPass` on. -/
def replaceEvent (fromPass : Nat) (old new : Event) : Event :=
  let kept := { new with
    lifecycle := old.lifecycle
    readiness := if readinessKept old new then old.readiness else .unknown
    res := old.res
    triggers := if sameTriggers old.triggers new.triggers then old.triggers else new.triggers }
  if old.lifecycle = .onAir then
    { kept with
      clip := old.clip, inPoint := old.inPoint, subst := old.subst, action := old.action
      held := if holdsBack old new then
                some { clip := new.clip, inPoint := new.inPoint, subst := new.subst, action := new.action,
                       fromPass := fromPass }
              else none }
  else { kept with held := none }

/-- The held part written into the record's own fields (R60). -/
def Event.writeHeld (e : Event) : Event :=
  match e.held with
  | some h => { e with clip := h.clip, inPoint := h.inPoint, subst := h.subst, action := h.action, held := none }
  | none => e

/-- FIXED start frames ascend with order keys (R20, check 6 of R24). -/
def ordered (e : Event) (l : List Event) : Bool :=
  match e.fixed with
  | none => true
  | some s => l.all fun x =>
      match x.fixed with
      | none => true
      | some y => decide (x.id = e.id) || (if x.key < e.key then decide (y < s) else decide (s < y))

/-- Another FIXED event of the list has the same start frame (check 5 of R24). -/
def sameStart (e : Event) (l : List Event) : Bool :=
  match e.fixed with
  | none => false
  | some s => l.any fun x => decide (x.id ≠ e.id) && decide (x.fixed = some s)

/-- Check 9 of R24: too late for the CURRENT generation (R27). `t` is the store with the PUT applied. -/
def tooLate (x : RCtx) (lead : Nat) (before t : Store) (old : Option Event) (e : Event) : Bool :=
  let standsBefore := match before.anchorKey, before.anchor with
    | some k, some a => decide (e.id ≠ a.event) && decide (e.key < k)
    | _, _ => false
  let isOver := match (t.resolve x).event e.id with
    | some r => (match r.res with | some f => decide (f.stop ≤ x.now) | none => false)
    | none => false
  let cuedClose := match old with
    | some o => decide (o.lifecycle = .cued) &&
        (match o.res with | some f => decide (f.start < x.now + lead) | none => false)
    | none => false
  let onAir := match old with
    | some o => decide (o.lifecycle = .onAir)
    | none => false
  !onAir && (standsBefore || isOver || cuedClose)

/-- The outcome of an operation aimed at a generation: refused with nothing changed, or applied. -/
inductive OpResult
  | refused (s : Status)
  | applied (s : Status) (l : List Event) (old : Option Event) (new : Option Event)
deriving DecidableEq, Repr

/-- Checks 1 to 8 of R24 and the application of R28 on a generation `l`; `limit` is the event limit, `free` the
free records. -/
def putOn (rc : RateCode) (timeSet : Bool) (limit free : Nat) (orphan : Option Event) (fromPass : Nat) (p : Put)
    (l : List Event) : OpResult :=
  if putMalformed rc p then .refused .malformed
  else if p.timing = 0 ∧ timeSet = false then .refused .timeUnset
  else
    let e := putEvent rc p
    let old := lookupId p.id l
    let keyMoves := match old with
      | some o => decide (o.lifecycle = .onAir) && decide (o.key ≠ e.key)
      | none => false
    if (match orphan with | some o => decide (o.id = p.id) | none => false) || keyMoves then .refused .onAir
    else if l.any (fun x => decide (x.id ≠ e.id) && decide (x.key = e.key)) then .refused .conflict
    else if sameStart e l then .refused .conflict
    else if ordered e l = false then .refused .order
    else match old with
      | none =>
        if limit ≤ l.length then .refused .limitReached
        else if free = 0 then .refused .poolFull
        else .applied (if e.fixed.isSome && !labelExists rc p.label then .adjusted else .ok) (insertByKey e l) none (some e)
      | some o =>
        let new := replaceEvent fromPass o e
        .applied (if new.held.isSome then .deferred
                  else if e.fixed.isSome && !labelExists rc p.label then .adjusted else .ok)
          (insertByKey new (removeId p.id l)) (some o) (some new)

/-- REMOVE on a generation (R29), whose checks are all of it: event id 0 is NOT_FOUND as any id that no record has (log entry 89); `x` and `lead` judge the CUED event of the CURRENT generation. -/
def removeOn (now : Frame) (lead : Nat) (orphan : Option Event) (isCurrent : Bool) (id : Nat) (l : List Event) : OpResult :=
  if (match orphan with | some o => decide (o.id = id) | none => false) then .refused .onAir
  else match lookupId id l with
    | none => .refused .notFound
    | some o =>
      if o.lifecycle = .onAir then .refused .onAir
      else if isCurrent && decide (o.lifecycle = .cued) &&
          (match o.res with | some f => decide (f.start < now + lead) | none => false) then .refused .tooLate
      else .applied .ok (removeId id l) (some o) none

/-! ## Digest scans (R39, R40) -/

/-- The events still to visit. -/
def Scan.left (s : Scan) (l : List Event) : List Event := l.filter fun e => decide (s.next ≤ e.key)

/-- One period's visits: up to the budget left, in ascending order key (R39). -/
def Scan.visit (s : Scan) (l : List Event) : Scan :=
  let seen := (s.left l).take s.budget
  { s with
    next := match seen.getLast? with | some e => e.key + 1 | none => s.next
    runCount := s.runCount + seen.length
    runSum := (s.runSum + (seen.map digestTerm).sum) % two32
    budget := s.budget - seen.length }

end Sys2Proof.Machine
end

