-- ==== Sys2Proof/Machine/Items.lean ====
section
/-! DEFINITION. Items cut from the resolved timeline (R101), the lookups every block of a channel shares, and the
as-run records and MODE notices they make. -/

namespace Sys2Proof.Machine

open Sys2Proof

/-! ## Changing a channel's blocks -/

/-- Change the channel. -/
def W.modCh (w : W) (f : Chan → Chan) : W := { w with ch := f w.ch }

/-- Change the Schedule Store. -/
def W.modStore (w : W) (f : Store → Store) : W := w.modCh fun c => { c with store := f c.store }

/-- Change the Sequencer. -/
def W.modSeq (w : W) (f : Seq → Seq) : W := w.modCh fun c => { c with seq := f c.seq }

/-- Change the Channel Controller. -/
def W.modCtl (w : W) (f : Ctl → Ctl) : W := w.modCh fun c => { c with ctl := f c.ctl }

/-- Change the Trigger Unit's lists. -/
def W.modTrig (w : W) (f : Triggers → Triggers) : W := w.modCh fun c => { c with trig := f c.trig }

/-- Change the Output Assembler. -/
def W.modOut (w : W) (f : Out → Out) : W := w.modCh fun c => { c with out := f c.out }

/-- Change the Feed Monitor. -/
def W.modMon (w : W) (f : Monitor → Monitor) : W := w.modCh fun c => { c with mon := f c.mon }

/-- Change a player's record. -/
def W.modPlayer (w : W) (p : PlayerId) (f : Player → Player) : W :=
  w.modSeq fun q => q.setPlayer p (f (q.player p))

/-- A player's record. -/
def W.player (w : W) (p : PlayerId) : Player := w.ch.seq.player p

/-- The channel mode. -/
def W.mode (w : W) : Mode := w.ch.ctl.mode

/-- The modes in which the standby site airs the channel (the DR modes of the introduction; R123). -/
def drMode : Mode → Bool
  | .takeover => true
  | .breakIn => true
  | .returning => true
  | .mirror => false
  | .joining => false

/-- The Sequencer is active (opening of chapter 6). -/
def Chan.active (c : Chan) : Bool := decide (c.ctl.mode ≠ .mirror) || c.seq.shadow

/-! ## Items (R101) -/

/-- An item with nothing learned of it yet. -/
def Item.fresh (kind : ItemKind) (event pass : Nat) (start : Frame) (stop : Option Frame) (inPoint : Int) : Item :=
  { kind := kind, event := event, pass := pass, start := start, stop := stop, onAirStart := none,
    inPoint := inPoint, handle := none, player := none, attempts := 0, subTried := false, planned := none,
    entry := none, contin := false, avoid := none, forEvent := 0, forPass := 0 }

/-- A PASS item. -/
def Item.isPass (i : Item) : Bool := decide (i.kind = .pass)

/-- A FILL item that carries its event: BLANK or ABSENT. -/
def Item.carriesFill (i : Item) : Bool := decide (i.kind = .fill .blank) || decide (i.kind = .fill .absent)

/-- An item of an event. -/
def Item.ofEvent (i : Item) : Bool := i.isPass || i.carriesFill

/-- Two items stand for the same event and pass. -/
def Item.same (a b : Item) : Bool := decide (a.event = b.event) && decide (a.pass = b.pass)

/-- The item ends after a frame. -/
def Item.endsAfter (i : Item) (f : Frame) : Bool :=
  match i.stop with
  | some t => decide (f < t)
  | none => true

/-- The item entered part-way at `f`: its frames keep their own places (R101, R128). -/
def Item.trim (i : Item) (f : Frame) : Item :=
  if i.start < f then { i with start := f, inPoint := i.inPoint + (f - i.start), entry := some f } else i

/-- The four fields that an item of pass `p` takes: the held ones from the first pass they apply to (R60), the
record's own before and for a continuation (R117). -/
def Event.fieldsFor (e : Event) (p : Nat) (own : Bool) : Nat × Nat × Option Nat × Action :=
  match e.held with
  | some h => if h.fromPass ≤ p ∧ own = false then (h.clip, h.inPoint, h.subst, h.action)
              else (e.clip, e.inPoint, e.subst, e.action)
  | none => (e.clip, e.inPoint, e.subst, e.action)

/-- The item of one pass, when the pass shares a frame with the span (R101, R60). -/
def passItem (e : Event) (r : Resolved) (p : Nat) : Option Item :=
  let first : Frame := r.origin + p * e.duration
  let s := max r.start first
  let t := min r.stop (first + e.duration)
  let f := e.fieldsFor p false
  let kind : ItemKind := match f.2.2.2 with
    | .blank => .fill .blank
    | .drop => .fill .blank
    | _ => .pass
  if s < t then some (Item.fresh kind e.id p s (some t) (f.2.1 + (s - first))) else none

/-- The GAP item of the frames of a span beyond the last pass (R101). -/
def tailGap (e : Event) (r : Resolved) : List Item :=
  let last : Frame := max r.start (r.origin + e.passes * e.duration)
  if last < r.stop then [Item.fresh (.fill .gap) 0 0 last (some r.stop) 0] else []

/-- The items of one resolved event (R101). The one FILL item of a BLANK event has pass 0 (log entry 83). -/
def eventItems (e : Event) (r : Resolved) : List Item :=
  if r.stop ≤ r.start then []
  else match e.action with
    | .drop => []
    | .blank => [Item.fresh (.fill .blank) e.id 0 r.start (some r.stop) 0]
    | _ => (List.range e.passes).filterMap (passItem e r) ++ tailGap e r

/-- The items from frame `c` on: the events' items, the gaps between them, and SCHEDULE_END (R101). -/
def spanItems (c : Frame) : List Event → List Item
  | [] => [Item.fresh (.fill .scheduleEnd) 0 0 c none 0]
  | e :: es =>
    match e.res with
    | none => spanItems c es
    | some r =>
      (if c < r.start then [Item.fresh (.fill .gap) 0 0 c (some r.start) 0] else []) ++ eventItems e r ++
        spanItems (max c r.stop) es

/-- An item that has become ABSENT fill (R102, R112, R113). -/
def spentAs (spent : List Spent) (i : Item) : Item :=
  if i.isPass && spent.any (fun x => decide (x.event = i.event) && decide (x.pass = i.pass))
  then { i with kind := .fill .absent } else i

/-- The items that the resolved timeline gives. The gap before the first resolved start (R129) begins at −1, before every
HFN. -/
def Chan.timeline (c : Chan) : List Item := spanItems (-1) c.store.merged

/-- The items of a channel. -/
def Chan.items (c : Chan) : List Item := c.timeline.map (spentAs c.seq.spent)

/-- The item of a list that holds a frame (R128, R129). A frame that the anchor's floor gives to a DROP event has none, and
the next event's item is taken (log entry 67). -/
def heldAt (l : List Item) (f : Frame) : Item :=
  (l.find? fun i => i.endsAfter f).getD (Item.fresh (.fill .scheduleEnd) 0 0 f none 0)

/-- The item of the channel that holds a frame. -/
def Chan.itemAt (c : Chan) (f : Frame) : Item := heldAt c.items f

/-- The end the timeline gives an item of an event: the earlier of its pass end and the event's resolved end (R116). -/
def Chan.endOf (c : Chan) (i : Item) : Option Frame :=
  match c.store.event i.event with
  | none => none
  | some e => match e.res with
    | none => none
    | some r => if i.kind = .fill .blank ∧ e.action = .blank then some r.stop
                else some (min r.stop (r.origin + (i.pass + 1) * e.duration))

/-- The origin of an event, when it is resolved. -/
def Chan.origin (c : Chan) (id : Nat) : Option Frame := ((c.store.event id).bind (·.res)).map (·.origin)

/-- The offset into its pass that an item's own place gives at its start: its in-point less the clip in-point it was cut
with; the frames trimmed of an item that has no clip frame, a BLANK event's or a WAIT item. -/
def Event.inPass (e : Event) (i : Item) : Int :=
  if i.kind = .fill .wait ∨ (i.kind = .fill .blank ∧ e.action = .blank) then i.inPoint
  else i.inPoint - (e.fieldsFor i.pass i.contin).2.1

/-- The offset into its event of an item at a frame: from the origin (R103, R123, R169), or from the item's own place when the
event is UNANCHORED or gone (log entry 77). -/
def Chan.offsetAt (c : Chan) (i : Item) (f : Frame) : Int :=
  match c.origin i.event with
  | some o => f - o
  | none => match c.store.event i.event with
    | some e => i.pass * e.duration + e.inPass i + (f - i.start)
    | none => f - i.start

/-- The item with the in-point that its record's own clip in-point gives it, whatever is held (R117). -/
def Chan.ownPoint (c : Chan) (i : Item) : Item :=
  match c.store.event i.event with
  | some e => { i with inPoint := i.inPoint + (e.inPoint - (e.fieldsFor i.pass false).2.1) }
  | none => i

/-- The item that the context names: the landing handed, or else the item on air (R114). -/
def Chan.context (c : Chan) : Option Item :=
  match c.seq.landing with
  | some l => some l.item
  | none => c.seq.onAir.map (·.item)

/-- A landing waits for its target. -/
def Chan.landingWaits (c : Chan) (now : Frame) : Bool :=
  match c.seq.landing with
  | some l => decide (now < l.target)
  | none => false

/-- A PASS landing has no cue yet; the preroll pointer is then equal to it (R114). -/
def Chan.landingUncued (c : Chan) : Bool :=
  match c.seq.landing with
  | some l => l.item.isPass && l.item.player.isNone
  | none => false

/-! ## As-run records (R123, R179) -/

/-- The source of an item's records: its player, or FILL. -/
def Item.source (i : Item) : AsRunSource :=
  match i.player with
  | some .a => .a
  | some .b => .b
  | none => .fill

/-- The source of a player. -/
def playerSource : PlayerId → AsRunSource
  | .a => .a
  | .b => .b

/-- Hands a record to the As-Run Log. -/
def W.record (env : Env) (kind : AsRunKind) (event pass : Nat) (offset : Int) (source : AsRunSource)
    (detail : Detail) (trigger : Option Nat) (w : W) : W :=
  w.emit (.record { hfn := env.now, channel := env.ch.val, kind := kind, event := event, pass := pass,
                    offset := offset, source := source, detail := detail, trigger := trigger })

/-- A record that R123 makes in the DR modes only. -/
def W.itemRecord (env : Env) (kind : AsRunKind) (event pass : Nat) (offset : Int) (source : AsRunSource)
    (detail : Detail) (w : W) : W :=
  if drMode w.mode then w.record env kind event pass offset source detail none else w

/-! ## Modes (R126) -/

/-- The pending switch as a notice or a reply carries it. -/
def Env.switchReport (env : Env) (s : Switch) : SwitchReport :=
  { kind := s.kind, cause := s.cause, target := env.at s.target, force := s.force }

/-- A MODE notice on LOCAL_CTL and on MAIN_CTL (R126). -/
def W.modeNotice (env : Env) (before after : Mode) (cause : ModeCause) (landing : Option Handed) (w : W) : W :=
  let n : Notice := .mode before after cause (w.ch.ctl.switch.map env.switchReport) landing (env.at env.now)
  (w.notice env .loc n).notice env .main n

/-- Set the mode. -/
def W.setMode (m : Mode) (w : W) : W := w.modCtl fun c => { c with mode := m }

/-- The cause of a pending switch, as a MODE notice carries it. -/
def switchModeCause : SwitchCause → ModeCause
  | .auto => .auto
  | .manual => .manual
  | .planned => .planned

end Sys2Proof.Machine
end

