-- ==== Sys2Proof/Machine/Trigger.lean ====
section
/-! DEFINITION. The Trigger Unit (chapter 8): judging an item's triggers (R158), the pending and held lists (R159),
and what a due trigger does (R160 to R162). -/

namespace Sys2Proof.Machine

open Sys2Proof

/-! ## The table (R156) -/

/-- The action of a code: fixed for 0 to 5, the loadable entry for the others; none is an empty entry. -/
def trigAction (table : List (Nat × TrigAction)) : Nat → Option TrigAction
  | 0 => some .none
  | 1 => some .identOn
  | 2 => some .identOff
  | 3 => some .identBlink
  | 4 => some .fillNow
  | 5 => some .mark
  | n => cellAt n table

/-- The advance of an action (R158). -/
def TrigAction.advance : TrigAction → Nat
  | .outputCue _ a => a
  | _ => 0

/-! ## Judged marks and the pending list -/

/-- Set the judged mark of trigger number `i` of an event (R158). -/
def Event.setMark (i : Nat) (m : Option Frame) (e : Event) : Event :=
  { e with triggers := e.triggers.modify i fun t => { t with mark := m } }

/-- Set a judged mark in the store. -/
def W.setMark (event i : Nat) (m : Option Frame) (w : W) : W :=
  w.modStore fun t => t.modEvent event (Event.setMark i m)

/-- The order of the pending list (R159). -/
def PendTrig.before (a b : PendTrig) : Bool :=
  decide (a.insertion < b.insertion) || (decide (a.insertion = b.insertion) &&
    (decide (a.frame < b.frame) || (decide (a.frame = b.frame) && decide (a.index ≤ b.index))))

/-- An entry joins the pending list at its place (R159). -/
def insertPend (t : PendTrig) : List PendTrig → List PendTrig
  | [] => [t]
  | x :: xs => if x.before t then x :: insertPend t xs else t :: x :: xs

/-- The entry belongs to the item. -/
def PendTrig.ownedBy (t : PendTrig) (i : Item) : Bool :=
  decide (t.ownerEvent = i.event) && decide (t.ownerPass = i.pass) && decide (t.ownerStart = i.start)

/-- Entries leave the list without a record, their marks set back to none (R159). -/
def W.dropPending (leaves : PendTrig → Bool) (w : W) : W :=
  let gone := w.ch.trig.pending.filter leaves
  let w := w.modTrig fun t => { t with pending := t.pending.filter fun x => !leaves x }
  gone.foldl (fun w t => w.setMark t.event t.index none) w

/-- The entries of an item that is no longer on air or cued leave the list (R159). -/
def W.dropOwner (i : Item) (w : W) : W := w.dropPending fun t => t.ownedBy i

/-! ## Judging (R158) -/

/-- A TRIGGER record (R162). -/
def W.trigRecord (env : Env) (event pass offset : Nat) (source : AsRunSource) (o : TrigOutcome) (code : Nat) (w : W) : W :=
  w.record env .trigger event pass offset source (.outcome o) (some code)

/-- One trigger of an item whose trigger frame lies in the item's span: its one outcome (R158). -/
def judgeOne (env : Env) (it : Item) (aired : Frame) (e : Event) (index : Nat) (t : Trig) (frame : Frame) (w : W) : W :=
  let w := w.setMark e.id index (some frame)
  let pass := t.offset / e.duration
  match trigAction env.table t.code with
  | none => w.trigRecord env e.id pass t.offset it.source .undefined t.code
  | some act =>
    let ins := frame - act.advance
    if env.past frame || decide (frame < aired) then w.trigRecord env e.id pass t.offset it.source .missed t.code
    else
      let late := env.past ins
      let entry : PendTrig :=
        { code := t.code, action := act, ownerEvent := it.event, ownerPass := it.pass, ownerStart := it.start,
          source := it.source, event := e.id, index := index, offset := t.offset, pass := pass, frame := frame,
          insertion := if late then env.firstUnbuilt else ins, late := late }
      w.modTrig fun l => { l with pending := insertPend entry l.pending }

/-- The entry is of this trigger of an event, and its trigger frame has not moved (R159; log entry 91). -/
def PendTrig.unmoved (event : Nat) (t : Trig) (frame : Frame) (x : PendTrig) : Bool :=
  decide (x.event = event) && decide (x.code = t.code) && decide (x.offset = t.offset) && decide (x.frame = frame)

/-- The entry as the item that now holds its frame owns it. -/
def PendTrig.heldBy (it : Item) (index pass : Nat) (x : PendTrig) : PendTrig :=
  { x with ownerEvent := it.event, ownerPass := it.pass, ownerStart := it.start, source := it.source, index := index, pass := pass }

/-- A trigger is judged, after the entries `old` were taken off the list: an entry whose trigger frame did not move is judged to
the same result, with the action it copied (R157, R159), and any other trigger under R158. -/
def judgeAgain (env : Env) (old : List PendTrig) (it : Item) (aired : Frame) (e : Event) (index : Nat) (t : Trig) (frame : Frame)
    (w : W) : W :=
  match old.find? (PendTrig.unmoved e.id t frame) with
  | some x => (w.setMark e.id index (some frame)).modTrig fun l =>
      { l with pending := insertPend (x.heldBy it index (t.offset / e.duration)) l.pending }
  | none => judgeOne env it aired e index t frame w

/-- The triggers of an item are judged (R158), after the entries `old` were taken off the list (R159). -/
def judgeTriggers (env : Env) (old : List PendTrig) (it : Item) (aired : Frame) (w : W) : W :=
  if w.mode = .mirror ∨ it.ofEvent = false then w
  else match w.ch.store.event it.event with
    | none => w
    | some e => match e.res with
      | none => w
      | some r => e.triggers.zipIdx.foldl (fun w x =>
          let frame : Frame := r.origin + x.1.offset
          if decide (it.start ≤ frame) && it.endsAfter frame && decide (x.1.mark ≠ some frame)
          then judgeAgain env old it aired e x.2 x.1 frame w else w) w

/-- The triggers of an item are judged when it is cued, or when it goes on air if it is a FILL item (R158). -/
def judgeItem (env : Env) (it : Item) (aired : Frame) (w : W) : W := judgeTriggers env [] it aired w

/-- The frame from which a cued item airs: its player's roll frame (R158). -/
def Chan.rollOf (c : Chan) (it : Item) : Frame :=
  match it.player with
  | some p => (c.seq.player p).roll.getD it.start
  | none => it.start

/-- The entries of the on-air and cued items are taken off the list and judged again: those that did not move to the same result,
the others by the trigger table as it then stands (R157, R159; log entry 91). While a join waits for its target its landing is the context's item (R114), so what a shadow still airs is not judged (R158). -/
def rejudge (env : Env) (w : W) : W :=
  if w.mode = .mirror then w
  else
    let old := w.ch.trig.pending
    let w := w.dropPending fun _ => true
    let w := match w.ch.seq.onAir with
      | some o => if w.ch.landingWaits env.now then w else judgeTriggers env old o.item (o.item.onAirStart.getD env.now) w
      | none => w
    let w := match w.ch.seq.landing with
      | some l => if l.item.player.isSome then judgeTriggers env old l.item (w.ch.rollOf l.item) w else w
      | none => w
    match w.ch.seq.cued with
    | some i => judgeTriggers env old i (w.ch.rollOf i) w
    | none => w

/-! ## Actions (R161) -/

/-- Enable or disable the ident window; either leaves the blink phase at 0 (R161, R173). -/
def Window.enable (on : Bool) (x : Window) : Window := { x with enabled := on, phase := 0 }

/-- Change the ident window. -/
def W.modWindow (f : Window → Window) (w : W) : W := w.modOut fun o => { o with window := f o.window }

/-- The entry's FILL_NOW is for this item: its owner, a PASS item (R161). -/
def PendTrig.fills (t : PendTrig) (i : Item) : Bool := i.isPass && t.ownedBy i

/-- FILL_NOW marks its owning item where that is on air (R161). -/
def markFill (t : PendTrig) (o : OnAir) : OnAir := if t.fills o.item then { o with fillMark := true } else o

/-- FILL_NOW marks its owning item where that is still cued, for its time on air (R161). -/
def markDue (t : PendTrig) (i : Item) : Item := if t.fills i then { i with fillDue := true } else i

/-- FILL_NOW marks the owning item: on air, or before its late roll frame the cued item, the landing and the item its player
has loaded (R161). -/
def fillNow (t : PendTrig) (q : Seq) : Seq :=
  if q.onAir.any fun o => t.fills o.item then { q with onAir := q.onAir.map (markFill t) }
  else
    { q with cued := q.cued.map (markDue t)
             landing := q.landing.map fun l => { l with item := markDue t l.item }
             a := { q.a with loaded := q.a.loaded.map (markDue t) }
             b := { q.b with loaded := q.b.loaded.map (markDue t) } }

/-- The entry stays on the list and is marked LATE once its insertion frame has come (R160). -/
def PendTrig.wait (now : Frame) (t : PendTrig) : PendTrig :=
  if t.insertion ≤ now then { t with late := true } else t

/-- The effect of a trigger that acts (R161). -/
def actTrigger (env : Env) (t : PendTrig) (late : Bool) (w : W) : W :=
  match t.action with
  | .none => w
  | .mark => w
  | .identOn => w.modWindow (Window.enable true)
  | .identOff => w.modWindow (Window.enable false)
  | .identBlink => w.modWindow fun x => { x with enabled := true, blink := if x.blink = 0 then 25 else x.blink, phase := 0 }
  | .fillNow => w.modSeq (fillNow t)
  | .outputCue p _ => w.modOut fun o => { o with cues := o.cues ++ [{ code := t.code, payload := p }] }
  | .ident slot on => w.modWindow fun x => { x with slot := slot, enabled := on, phase := 0 }
  | .notify => w.notice env .loc (.trigger t.code t.event t.pass t.offset (env.at t.frame) late)

/-- A due entry in TAKEOVER (R160): it acts, or is recorded MISSED when it waited past its trigger frame. -/
def actEntry (env : Env) (w : W) (t : PendTrig) : W :=
  let w := w.modTrig fun l => { l with pending := l.pending.erase t }
  if t.insertion < env.now ∧ t.frame < env.now then w.trigRecord env t.event t.pass t.offset t.source .missed t.code
  else
    let late := t.late || decide (t.insertion < env.now)
    (actTrigger env t late w).trigRecord env t.event t.pass t.offset t.source (if late then .late else .done) t.code

/-- The entries whose insertion frame has come are dealt with by the channel mode (R160). -/
def triggerAct (env : Env) (w : W) : W :=
  let due := w.ch.trig.pending.filter fun t => decide (t.insertion ≤ env.now)
  match w.mode with
  | .takeover => due.foldl (actEntry env) w
  | .returning => due.foldl (fun w t =>
      (w.modTrig fun l => { l with pending := l.pending.erase t }).trigRecord env t.event t.pass t.offset t.source
        .missed t.code) w
  | .joining => w.modTrig fun l => { l with pending := l.pending.map (PendTrig.wait env.now) }
  | .breakIn => w.modTrig fun l => { l with pending := l.pending.map (PendTrig.wait env.now) }
  | .mirror => w

/-- The held list at a resume (R160): an entry whose trigger frame on the resumed timeline lies before `r` is
recorded MISSED, with the pass that holds it there (R162); every other leaves with its mark set back to none. An entry whose event
is UNANCHORED or gone keeps its last frame, and for one that is gone its pass (log entry 80). -/
def judgeHeld (env : Env) (r : Frame) (w : W) : W :=
  let held := w.ch.trig.held
  let w := w.modTrig fun l => { l with held := [] }
  held.foldl (fun (w : W) (t : PendTrig) =>
    let frame : Frame := match w.ch.origin t.event with
      | some o => o + t.offset
      | none => t.frame
    let pass := match w.ch.store.event t.event with
      | some e => t.offset / e.duration
      | none => t.pass
    if frame < r then (w.setMark t.event t.index (some frame)).trigRecord env t.event pass t.offset t.source .missed t.code
    else w.setMark t.event t.index none) w

end Sys2Proof.Machine
end

