-- ==== Sys2Proof/Machine/Players.lean ====
section
/-! DEFINITION. The player protocol (R105 to R111): requests and their queue, stops and cancelled cues, the frames
at which a player rolls, ends and stops, faults and probes. -/

namespace Sys2Proof.Machine

open Sys2Proof

/-! ## Requests (R106) -/

/-- The class order of the queue: STOP, CUE, QUERY. -/
def PReq.rank : PReq → Nat
  | .stop _ => 0
  | .cue _ _ _ _ => 1
  | .query _ => 2

/-- A request is a CUE. -/
def PReq.isCue : PReq → Bool
  | .cue _ _ _ _ => true
  | _ => false

/-- A request is a STOP. -/
def PReq.isStop : PReq → Bool
  | .stop _ => true
  | _ => false

/-- A request is a QUERY. -/
def PReq.isQuery : PReq → Bool
  | .query _ => true
  | _ => false

/-- A request joins the queue behind those of its class (R106). -/
def insertReq (x : Nat × PReq) : List (Nat × PReq) → List (Nat × PReq)
  | [] => [x]
  | y :: ys => if y.2.rank ≤ x.2.rank then y :: insertReq x ys else x :: y :: ys

/-- A CUE waits in the queue. A cue in flight is then one that was cancelled: a player is given another item only after that (R106,
R108, R148). -/
def Player.cueQueued (pl : Player) : Bool := pl.queue.any fun x => x.2.isCue

/-- Removes the first entry that satisfies a test. -/
def dropFirst (f : Nat × PReq → Bool) : List (Nat × PReq) → List (Nat × PReq)
  | [] => []
  | y :: ys => if f y then ys else y :: dropFirst f ys

/-- The reply timeout of a request sent earlier counts from a frame on: for a STOP from its stop frame (R110). -/
def PReq.countsFrom (f : Frame) : PReq → Bool
  | .stop x => decide (x ≤ f)
  | _ => true

/-- The next request of the queue is sent when nothing is in flight (R106). -/
def sendNext (env : Env) (p : PlayerId) (w : W) : W :=
  let pl := w.player p
  match pl.flight, pl.queue with
  | none, (tag, req) :: rest =>
    let sent : Flight := { tag := tag, req := req, sent := env.now, age := 0, probe := false, counting := req.countsFrom env.now }
    (w.modPlayer p fun x => { x with flight := some sent, queue := rest }).emit (.request p tag req)
  | _, _ => w

/-- A request takes the next tag, joins the queue and is sent when nothing is in flight (R106). -/
def submit (env : Env) (p : PlayerId) (req : PReq) (w : W) : W :=
  sendNext env p (w.modPlayer p fun x =>
    { x with queue := insertReq (x.tags, req) x.queue, tags := (x.tags + 1) % two16 })

/-- The queue of a player has room for a request, once its oldest QUERY is discarded (R106). -/
def hasRoom (pl : Player) : Bool :=
  decide (pl.queue.length < Config.playerQueue) || pl.queue.any fun x => x.2.isQuery

/-- The oldest queued QUERY is discarded when the queue is full (R106). -/
def makeRoom (p : PlayerId) (w : W) : W :=
  if (w.player p).queue.length < Config.playerQueue then w
  else w.modPlayer p fun x => { x with queue := dropFirst (fun y => y.2.isQuery) x.queue }

/-! ## The slots that hold items -/

/-- The item as it stands once no player holds it: it keeps its attempts (R110, R113). -/
def Item.released (avoid : Option PlayerId) (i : Item) : Item :=
  { i with player := none, avoid := avoid, planned := none, pinned := false }

/-- The frames of an item become an ABSENT FILL item (R102, R109, R112, R113). -/
def W.addSpent (i : Item) (due : Option (Frame × Frame)) (w : W) : W :=
  w.modSeq fun q => { q with spent := q.spent ++ [{ event := i.event, pass := i.pass, due := due }] }

/-- The item as ABSENT fill. -/
def Item.absent (i : Item) : Item := { i with kind := .fill .absent, player := none }

/-- The landing is this item, held by this player. -/
def Chan.isLanding (c : Chan) (p : PlayerId) : Bool :=
  match c.seq.landing with
  | some l => decide (l.item.player = some p)
  | none => false

/-- Change the landing's item. -/
def W.modLanding (f : Item → Item) (w : W) : W :=
  w.modSeq fun q => { q with landing := q.landing.map fun l => { l with item := f l.item } }

/-- The landing's item stands without a cue, and the preroll pointer is equal to it (R114). -/
def W.uncueLanding (f : Item → Item) (w : W) : W :=
  w.modSeq fun q => { q with landing := q.landing.map fun l => { l with item := f l.item }
                             preroll := match q.landing with | some l => some (f l.item) | none => q.preroll }

/-- An item that lost its cue on `p` is cued again, or is filled. It stands again where it stood: as the break-in
clip, as the landing, or at the preroll pointer. -/
def itemAgain (again : Bool) (p : PlayerId) (avoid : Option PlayerId) (i : Item) (w : W) : W :=
  let w := w.dropOwner i
  let i := i.released avoid
  if i.kind = .brk then w.modSeq fun q => { q with breakClip := some (if again then i else i.absent) }
  else if w.ch.isLanding p then
    if again then w.uncueLanding fun _ => i else (w.modLanding fun _ => i.absent).addSpent i none
  else
    let w := w.modSeq fun q => { q with cued := q.cued.filter fun j => decide (j.player ≠ some p) }
    if again then w.modSeq fun q => { q with preroll := some i }
    else (w.modSeq fun q => { q with preroll := none }).addSpent i none

/-- The player tried last for an item that a late CUED or a FAULT of `p` took off it: `p` for the break-in clip (R152) and, after
a FAULT in JOINING, for the landing (R131). Any other item goes to the first free player, A before B (R105, R112). -/
def Chan.triedLast (c : Chan) (p : PlayerId) (fault : Bool) (i : Item) : Option PlayerId :=
  if i.kind = .brk ∨ (fault = true ∧ c.ctl.mode = .joining ∧ c.isLanding p = true) then some p else none

/-- An item lost its cue on `p`: it is cued again while its attempts are below 2, with the player `avoid` tried last, and is
filled otherwise (R109, R110, R113). -/
def itemReturned (p : PlayerId) (avoid : Option PlayerId) (i : Item) (w : W) : W :=
  itemAgain (decide (i.attempts < 2)) p avoid i w

/-- A cue fails: the record becomes IDLE with its loaded item cleared (R109). -/
def clearCue (p : PlayerId) (st : PState) (w : W) : W :=
  w.modPlayer p fun x => { x with state := st, loaded := none, roll := none, endF := none, stopF := none,
                                  stopConfirmed := false }

/-- A CUE the queue has no room for fails as though answered UNABLE: the other player is tried first (R106, R109). -/
def failQueuedCue (p : PlayerId) (w : W) : W :=
  let pl := w.player p
  match pl.loaded with
  | some i => itemReturned p (some p) i (clearCue p .idle w)
  | none => w

/-! ## STOP (R108) -/

/-- The newest queued STOP takes a stop frame (R108). -/
def moveStop (frame : Frame) : List (Nat × PReq) → List (Nat × PReq)
  | [] => []
  | y :: ys =>
    if y.2.isStop && !ys.any (fun x => x.2.isStop) then (y.1, .stop frame) :: ys else y :: moveStop frame ys

/-- A STOP for the record's item waits in the queue: the item has a stop frame, which a new cue clears, and STOPs are sent oldest
first, so the newest one queued is the item's own. One that cancelled an earlier item's cue is not (R106, R108, R148). -/
def Player.ownStopQueued (pl : Player) : Bool := pl.stopF.isSome && pl.queue.any fun x => x.2.isStop

/-- A STOP with a stop frame. A queued STOP for the same item takes the new frame instead; in a full queue the oldest QUERY is
discarded, or else the oldest CUE, which fails (R106, R108); with four STOPs queued the oldest goes (log entry 20). -/
def issueStop (env : Env) (p : PlayerId) (frame : Frame) (w : W) : W :=
  let pl := w.player p
  let w := w.modPlayer p fun x => { x with stopF := some frame, stopConfirmed := false }
  if pl.ownStopQueued then w.modPlayer p fun x => { x with queue := moveStop frame x.queue }
  else if hasRoom pl then submit env p (.stop frame) (makeRoom p w)
  else if pl.cueQueued then
    submit env p (.stop frame)
      (failQueuedCue p (w.modPlayer p fun x => { x with queue := dropFirst (fun y => y.2.isCue) x.queue }))
  else submit env p (.stop frame) (w.modPlayer p fun x => { x with queue := x.queue.drop 1 })

/-- A STOP that makes the record STOPPING at once: with the stop frame now to cancel a cue, or with a later one at
a channel reset or a change to COLD (R108). The roll and end frames become none, and the stop frame stands until STOPPED (log
entry 72). -/
def stopAtOnce (env : Env) (p : PlayerId) (frame : Frame) (w : W) : W :=
  let w := issueStop env p frame w
  w.modPlayer p fun x => { x with state := .stopping, loaded := none, roll := none, endF := none }

/-- A cue is cancelled: a queued CUE is removed, a sent one is stopped (R108). A record whose queued CUE is removed is
STOPPING while a STOP of its player is queued or in flight, else IDLE (log entry 65). -/
def cancelCue (env : Env) (p : PlayerId) (w : W) : W :=
  let pl := w.player p
  let w := match pl.loaded with
    | some i => w.dropOwner i
    | none => w
  if pl.cueQueued then
    let w := w.modPlayer p fun x => { x with queue := x.queue.filter fun y => !y.2.isCue }
    let held := pl.queue.any (fun x => x.2.isStop) ||
      (match pl.flight with | some f => f.req.isStop | none => false)
    clearCue p (if held then .stopping else .idle) w
  else stopAtOnce env p env.now w

/-- Cancels the cue of an item that a player holds. -/
def cancelItem (env : Env) (i : Item) (w : W) : W :=
  match i.player with
  | some p => cancelCue env p w
  | none => w.dropOwner i

/-! ## Free players (R105) -/

/-- The player that carries the on-air item. -/
def Chan.carrier (c : Chan) : Option PlayerId :=
  match c.seq.onAir with
  | some o => match o.item.player with
    | some p => if (c.seq.player p).state = .playing then some p else none
    | none => none
  | none => none

/-- A player is free: IDLE, and not carrying the on-air item. -/
def Chan.isFree (c : Chan) (p : PlayerId) : Bool :=
  decide ((c.seq.player p).state = .idle) && decide (c.carrier ≠ some p)

/-- A free player: A before B, but the one other than `avoid` first (R105, R109). -/
def Chan.freePlayer (c : Chan) (avoid : Option PlayerId) : Option PlayerId :=
  let order : List PlayerId := match avoid with
    | some .a => [.b, .a]
    | some .b => [.a, .b]
    | none => [.a, .b]
  order.find? c.isFree

/-! ## Items leaving the air -/

/-- The on-air item leaves at the joint with its continuation: its player's end frame has come, and the timeline gives the
item a later end (R117). -/
def Chan.atJoint (c : Chan) (i : Item) (now : Frame) : Bool :=
  i.player.any (fun p => decide ((c.seq.player p).endF = some now)) && (c.endOf i).any fun t => decide (now < t)

/-- The as-run record of the on-air item as it leaves (R117, R123). A break-in item makes none (R150). One that a fault cuts at
its planned end has ended (log entry 93). -/
def leaveRecord (env : Env) (o : OnAir) (w : W) : W :=
  let now := env.now
  let off := o.offset0 + (now - o.item.onAirStart.getD now)
  match o.item.kind with
  | .pass => match o.planned with
    | some t => if now < t ∧ w.ch.atJoint o.item now = false then w.itemRecord env .itemCut o.item.event o.item.pass off o.item.source (.frames (t - now).toNat)
                else w.itemRecord env .itemEnd o.item.event o.item.pass off o.item.source .zero
    | none => w.itemRecord env .itemEnd o.item.event o.item.pass off o.item.source .zero
  | .fill k => w.itemRecord env .fillEnd o.item.event o.item.pass 0 .fill (.fillKind k)
  | .brk => w

/-- The on-air item leaves the air. -/
def leaveAir (env : Env) (w : W) : W :=
  match w.ch.seq.onAir with
  | some o => ((leaveRecord env o w).modSeq fun q => { q with onAir := none }).dropOwner o.item
  | none => w

/-- The on-air item is the one a player carries. -/
def Chan.carries (c : Chan) (p : PlayerId) : Bool :=
  match c.seq.onAir with
  | some o => decide (o.item.player = some p) && decide (o.leave = none)
  | none => false

/-- At its end frame a PLAYING player without a STOP for that frame becomes IDLE and its item leaves (R107). -/
def playerEnd (env : Env) (p : PlayerId) (w : W) : W :=
  let pl := w.player p
  if pl.state = .playing ∧ pl.endF = some env.now ∧ pl.stopF ≠ some env.now then
    let w := if w.ch.carries p then leaveAir env w else w
    clearCue p .idle w
  else w

/-- At its stop frame the player's item leaves and the record becomes STOPPING, or IDLE when the stop is confirmed
(R108). The roll and end frames become none, and the stop frame stands until STOPPED (log entry 72). A cued item that is stopped
before it rolled leaves no record and no fill (log entry 73). -/
def stopFrame (env : Env) (p : PlayerId) (w : W) : W :=
  let pl := w.player p
  if pl.stopF = some env.now ∧ (pl.state = .playing ∨ pl.state = .cued ∨ pl.state = .cueing) then
    let w := if w.ch.carries p then leaveAir env w else w
    let w := if pl.state = .playing then w else w.modSeq fun q => { q with cued := q.cued.filter fun i => decide (i.player ≠ some p) }
    if pl.stopConfirmed then clearCue p .idle w
    else w.modPlayer p fun x => { x with state := .stopping, loaded := none, roll := none, endF := none }
  else w

/-- Both players' stop frames and end frames at a boundary. -/
def playersLeave (env : Env) (w : W) : W :=
  playerEnd env .b (playerEnd env .a (stopFrame env .b (stopFrame env .a w)))

/-! ## Faults (R110, R111) -/

/-- The items a faulted player held return to the Sequencer (R110). The rest of the on-air item stands at the preroll pointer, or
before the cued item, in the place of a late landing, where one is cued (log entry 21); it is not kept while a join waits
for its target, since the context is then the landing's (R114). The new item's attempts are 0, and no substitute counts as tried
for it (log entry 64); the rest of a continuation stays one (log entry 21). -/
def returnItems (env : Env) (p : PlayerId) (i : Item) (w : W) : W :=
  let last := w.ch.triedLast p true i
  match w.ch.seq.onAir with
  | some o =>
    if o.item.player = some p ∧ o.leave = none then
      let cut := env.now + 1
      let rest := { ((i.trim cut).released last) with
                    attempts := 0, subTried := false, stop := o.item.stop, entry := some cut, fillDue := false }
      let more := o.item.endsAfter cut
      let w := w.modSeq fun q =>
        { q with onAir := some { o with leave := some cut, item := { o.item with stop := some cut } } }
      if o.item.kind = .brk then
        w.modSeq fun q => { q with breakClip := if more then some rest else none }
      else if w.ch.isLanding p then w.uncueLanding fun l => { (l.released last) with attempts := 0, subTried := false }
      else if more = false ∨ w.ch.landingWaits env.now = true then w
      else if w.ch.seq.cued.isSome ∧ w.ch.seq.landing = none then
        w.modSeq fun q => { q with landing := some { item := rest, target := env.now }, preroll := some rest }
      else w.modSeq fun q => { q with preroll := some rest }
    else itemReturned p last i w
  | none => itemReturned p last i w

/-- A player enters FAULT (R110, R111): its requests are discarded, its items return, their triggers are judged again for
what is left of them (R159), and it is reported. Its PLAYER_FAULT record names the event and pass of the loaded item, or 0 (log entry
90). -/
def enterFault (env : Env) (p : PlayerId) (cause : PlayerCause) (w : W) : W :=
  let pl := w.player p
  let w := w.modPlayer p fun x =>
    { x with state := .fault, loaded := none, roll := none, endF := none, stopF := none, stopConfirmed := false,
             flight := none, queue := [], probeTimer := 0 }
  let w := w.modSeq fun q => { q with sweep := q.sweep.filter fun s => decide (s.player ≠ p) }
  let w := match pl.loaded with
    | some i => returnItems env p i w
    | none => w
  let w := if drMode w.mode ∨ w.mode = .joining then
      w.record env .playerFault (match pl.loaded with | some i => i.event | none => 0)
        (match pl.loaded with | some i => i.pass | none => 0) 0 (playerSource p)
        (match cause with | .stall => .stall | _ => .timeout) none
    else w
  let w := if pl.loaded.isSome then rejudge env w else w
  w.notice env .loc (.player p pl.state .fault cause pl.loaded env.now)

/-- A request in flight is due for the timeout of R110; a probe is not. -/
def replyDue (env : Env) (pl : Player) : Bool :=
  match pl.flight with
  | some f => !f.probe && decide (env.part.replyTimeout ≤ f.age) && decide (pl.state ≠ .fault)
  | none => false

/-- The timeout of R110. -/
def replyTimeout (env : Env) (p : PlayerId) (w : W) : W :=
  if replyDue env (w.player p) then enterFault env p .timeout w else w

/-- A PLAYING player whose late-frame run reaches the stall limit goes to FAULT (R111). -/
def stall (env : Env) (p : PlayerId) (w : W) : W :=
  if (w.player p).state = .playing ∧ env.cp.stallLimit ≤ (w.player p).lateRun then enterFault env p .stall w else w

/-- A FAULT player whose probe timer has reached the probe interval is probed; an unanswered probe is abandoned
(R111). -/
def probe (env : Env) (p : PlayerId) (w : W) : W :=
  let pl := w.player p
  if pl.state = .fault ∧ env.part.probeInterval ≤ pl.probeTimer then
    (w.modPlayer p fun x =>
      { x with flight := some { tag := x.tags, req := .query 0, sent := env.now, age := 0, probe := true },
               tags := (x.tags + 1) % two16, probeTimer := 0 }).emit (.request p pl.tags (.query 0))
  else w

/-- One boundary passes for a request in flight: it ages once its count has begun, for a STOP at its stop frame (R1, R110). -/
def Flight.tick (now : Frame) (f : Flight) : Flight :=
  { f with age := if f.counting || f.req.countsFrom (now - 1) then f.age + 1 else f.age
           counting := f.counting || f.req.countsFrom now }

/-- One boundary passes for a player: the flight ages (R110) and the probe timer of a FAULT player advances (R111). -/
def Player.tick (now : Frame) (pl : Player) : Player :=
  { pl with
    flight := pl.flight.map (Flight.tick now)
    probeTimer := if pl.state = .fault then pl.probeTimer + 1 else pl.probeTimer }

end Sys2Proof.Machine
end

