-- ==== Sys2Proof/Machine/Sequencer.lean ====
section
/-! DEFINITION. The Sequencer (chapter 6): the preroll pointer, cues on time and late, items going on the air, joins
handed by the Channel Controller, reactions to a new timeline, the readiness sweep and the HOT shadow. -/

namespace Sys2Proof.Machine

open Sys2Proof

/-! ## The preroll pointer (R101, R104, R117) -/

/-- The end of an item on air or about to be, from which the items after it are reckoned (R101). -/
def Item.followEnd (i : Item) (now : Frame) : Frame :=
  match i.kind with
  | .fill .gap => now
  | .fill .scheduleEnd => now
  | .fill .wait => now
  | _ => i.stop.getD now

/-- The frame after which the items that follow the context end. -/
def Chan.contextEnd (c : Chan) (now : Frame) : Frame :=
  match c.seq.landing with
  | some l => l.item.followEnd (max now l.target)
  | none => match c.seq.onAir with
    | some o => o.item.followEnd now
    | none => now

/-- The first PASS item of the timeline that ends after a frame. -/
def Chan.firstPassAfter (c : Chan) (f : Frame) : Option Item := c.items.find? fun i => i.isPass && i.endsAfter f

/-- The item that the timeline gives where an uncued one waited. It is that item, with its attempts and what its failed cues
left, while its start and in-point stand as they stood; moved, it is an item of its own, which starts with attempts 0 and waits for
its cue window (R105, R113, R115; log entry 81). -/
def Item.waitsAs (old j : Item) : Item :=
  if j.start = old.start ∧ j.inPoint = old.inPoint then
    { j with attempts := old.attempts, subTried := old.subTried, subShort := old.subShort, subNext := old.subNext,
             avoid := old.avoid, fillDue := old.fillDue }
  else { j with fillDue := old.fillDue }

/-- What the old pointer knew of an item is kept for the same item of the new timeline: its part-way entry and, while it still
begins before that, its continuation mark (R110, R117), and its attempts while it has not moved (R113). -/
def carryOver (c : Chan) (old : Item) (i : Item) : Item :=
  let contin := old.contin && old.entry.any fun f => decide (i.start < f)
  let i := if contin then c.ownPoint i else i
  let j := match old.entry with
    | some f => i.trim f
    | none => i
  { old.waitsAs j with contin := contin }

/-- The frames of the item after its first part's end: a continuation item, which keeps the attempts of the one that
stood at the pointer, with the in-point that the record's own clip in-point gives (R113, R117). -/
def continuation (c : Chan) (old : Option Item) (ref : Frame) (i : Item) : Item :=
  let j := { ((c.ownPoint i).trim ref) with contin := true }
  match old with
  | some o => if o.contin then o.waitsAs j else j
  | none => j

/-- The item as an on-air WAIT item that stands for it gives its entry (R112). -/
def Chan.waitEntry (c : Chan) (i : Item) : Item :=
  match c.seq.onAir with
  | some o => if o.item.kind = .fill .wait ∧ o.item.forEvent = i.event ∧ o.item.forPass = i.pass
              then i.trim o.item.start else i
  | none => i

/-- The item the pointer names, among the items that follow `ref`, which belongs to `prev` (R104, R117): the one that
the old pointer named as it knew it, a continuation of `prev`, or the timeline's item. A continuation waits on its own only once its
first part's end has come; where the first part lost its cue before, the timeline's item stands whole (R115). -/
def pointerItem (c : Chan) (prev : Option Item) (now ref : Frame) : Option Item :=
  (c.firstPassAfter ref).map fun i =>
    let old := c.seq.preroll.filter fun o => o.same i
    match old with
    | some o =>
      if o.contin = false ∧ (o.entry.isSome ∨ 0 < o.attempts ∨ o.fillDue = true) then carryOver c o i
      else if prev.any fun r => r.ofEvent && r.same i then continuation c old ref i
      else if o.contin && o.entry.any (fun f => decide (f ≤ now)) then carryOver c o i
      else c.waitEntry i
    | none => if prev.any fun r => r.ofEvent && r.same i then continuation c none ref i else c.waitEntry i

/-- The preroll pointer is taken afresh (R104): it is equal to a landing that no player holds (R114), and else names the
first PASS item after the cued item or the context. It stands while a break-in is pending or on air (R104, R149), but
for the landing of a resume (R114). -/
def takePointer (env : Env) (w : W) : W :=
  let c := w.ch
  if c.active = false then w.modSeq fun q => { q with preroll := none }
  else if (c.ctl.mode = .breakIn ∧ c.seq.landing = none) ∨ c.ctl.pendingBreak.isSome then w
  else
    let i := if c.landingUncued then c.context else match c.seq.cued with
      | some i => pointerItem c (some i) env.now (i.stop.getD env.now)
      | none => pointerItem c c.context env.now (c.contextEnd env.now)
    w.modSeq fun q => { q with preroll := i }

/-! ## Issuing a cue (R102, R105, R112) -/

/-- The handle an item cues and whether it is a substitute tried; none makes it ABSENT: by the event's action and readiness as the
cue is issued (R102). A failed cue of the clip has the substitute cued whatever the readiness, which a held clip leaves as it was
(R60, R109). -/
def cueHandle (e : Event) (i : Item) : Option (Nat × Bool) :=
  let f := e.fieldsFor i.pass i.contin
  let missing := decide (e.readiness = .absent) || decide (e.readiness = .short)
  match f.2.2.2 with
  | .play => match f.2.2.1 with
    | some h => some (if i.subNext || missing then (h, true) else (f.1, false))
    | none => if missing then none else some (f.1, false)
  | .substitute => if missing then none else f.2.2.1.map fun h => (h, false)
  | _ => none

/-- A CUE is issued to a free player: the record becomes CUEING with the item loaded (R105). A CUE that finds a full queue
without a QUERY to discard fails as though answered UNABLE (R106). -/
def loadCue (env : Env) (p : PlayerId) (i : Item) (handle : Nat) (roll : Frame) (w : W) : W :=
  let inPoint := i.inPoint + (roll - i.start)
  let stop := i.stop
  let length : Int := match stop with
    | some t => t - roll
    | none => 0
  let room := hasRoom (w.player p)
  let w := w.modPlayer p fun x => { x with state := .cueing, loaded := some i, roll := some roll, endF := stop,
                                           stopF := none, stopConfirmed := false }
  if room then submit env p (.cue handle inPoint length roll) (makeRoom p w) else failQueuedCue p w

/-- The item as it stands once cued: its handle, its player and one more attempt (R105). -/
def Item.cuedOn (i : Item) (p : PlayerId) (h : Nat × Bool) : Item :=
  { i with handle := some h.1, player := some p, attempts := i.attempts + 1, subTried := h.2, subNext := false,
           planned := i.stop, avoid := none }

/-- The item of an event as it stands once cued; a substitute tried for a SHORT clip is marked so (R102, R123). -/
def Item.cuedFor (i : Item) (e : Event) (p : PlayerId) (h : Nat × Bool) : Item :=
  { i.cuedOn p h with subShort := if i.subNext then i.subShort else decide (e.readiness = .short) }

/-- An item is lost whole: an ABSENT item fills its frames, and its ITEM_LATE record is made now or at its resolved
start (R112, R123), with its offset at its resolved start (log entry 66). The record's place among those of the fill items
is the model's (log entry 96). -/
def loseWhole (env : Env) (i : Item) (w : W) : W :=
  let stop := i.stop.getD i.start
  if i.start ≤ env.now then
    (w.itemRecord env .itemLate i.event i.pass (w.ch.offsetAt i i.start) .fill (.frames (stop - i.start).toNat)).addSpent
      i none
  else w.addSpent i (some (i.start, stop))

/-- The roll frame of an item: its resolved start when that is preroll lead ahead, else now + preroll lead (R105, R112). -/
def rollFrame (env : Env) (i : Item) : Frame := max i.start (env.now + env.cp.lead)

/-- In RETURNING an item is not cued to roll at or after the target (R142). -/
def Chan.rollsBeforeReturn (c : Chan) (roll : Frame) : Bool :=
  match c.ctl.mode, c.ctl.switch with
  | .returning, some s => decide (roll < s.target)
  | _, _ => true

/-- Cues may be issued for the timeline's items (R104, R142, R149). -/
def Chan.cuesAllowed (c : Chan) (roll : Frame) : Bool :=
  c.active && c.ctl.pendingBreak.isNone && decide (c.ctl.mode ≠ .breakIn) && c.rollsBeforeReturn roll

/-- The landing is cued at once, outside the cue window, to roll at the later of its target and now + preroll lead
(R114, R130); not while a break-in is pending (R149). The pointer then moves on. -/
def cueLanding (env : Env) (w : W) : W :=
  match w.ch.seq.landing with
  | none => w
  | some l =>
    if l.item.isPass = false ∨ l.item.player.isSome ∨ w.ch.ctl.pendingBreak.isSome ∨
        w.ch.rollsBeforeReturn (rollFrame env l.item) = false then w
    else match w.ch.freePlayer l.item.avoid with
      | none => w
      | some p =>
        let roll := rollFrame env l.item
        match w.ch.store.event l.item.event with
        | none => takePointer env ((w.modLanding Item.absent).addSpent l.item none)
        | some e => match cueHandle e l.item with
          | none => takePointer env ((w.modLanding Item.absent).addSpent l.item none)
          | some h =>
            if l.item.endsAfter roll = false then takePointer env (loseWhole env l.item (w.modLanding Item.absent))
            else
              let i := l.item.cuedFor e p h
              let w := (w.modLanding fun _ => i).modSeq fun q => { q with preroll := none }
              takePointer env (judgeItem env i roll (loadCue env p i h.1 roll w))

/-- The item of the preroll pointer is cued on a player (R105, R112). -/
def cuePreroll (env : Env) (p : PlayerId) (i : Item) (w : W) : W :=
  let roll := rollFrame env i
  match w.ch.store.event i.event with
  | none => takePointer env (w.addSpent i none)
  | some e => match cueHandle e i with
    | none => takePointer env (w.addSpent i none)
    | some h =>
      if i.endsAfter roll = false then takePointer env (loseWhole env i w)
      else
        let i := i.cuedFor e p h
        let w := w.modSeq fun q => { q with cued := some i, preroll := none }
        takePointer env (judgeItem env i roll (loadCue env p i h.1 roll w))

/-- An item at the pointer is late: it cannot be cued preroll lead before its resolved start (R112), or its cue
has failed before (R109, R113). -/
def isLate (env : Env) (i : Item) : Bool := decide (i.start < env.now + env.cp.lead) || decide (0 < i.attempts)

/-- The break-in clip waits for a player: it is cued late as soon as one is free (R148, R150, R152). One cued after the resume
is begun is sent no STOP at the resume target (log entry 95). -/
def cueBreak (env : Env) (w : W) : W :=
  match w.ch.seq.breakClip with
  | none => w
  | some i =>
    if i.kind ≠ .brk ∨ i.player.isSome then w
    else match w.ch.freePlayer i.avoid with
      | none => w
      | some p =>
        let roll := rollFrame env i
        if i.endsAfter roll = false then w.modSeq fun q => { q with breakClip := some i.absent }
        else
          let i := i.cuedOn p (i.handle.getD 0, false)
          loadCue env p i (i.handle.getD 0) roll (w.modSeq fun q => { q with breakClip := some i })

/-- The item that the pointer names and nothing stands before: no item is cued, and no landing waits for its cue. A landing
that a player holds past its target stands before nothing (log entry 92). -/
def Chan.nextToCue (c : Chan) : Option Item :=
  if c.seq.cued.isSome ∨ c.landingUncued = true then none else c.seq.preroll

/-- A late item is cued as soon as a player is free: the break-in clip, the landing, or the item at the pointer
(R112). The clip comes before the landing (log entry 94). -/
def lateCue (env : Env) (w : W) : W :=
  let w := cueLanding env (cueBreak env w)
  match w.ch.nextToCue with
  | some i =>
    if isLate env i && w.ch.cuesAllowed (rollFrame env i) then
      match w.ch.freePlayer i.avoid with
      | some p => cuePreroll env p i w
      | none => w
    else w
  | none => w

/-- The item at the pointer is cued once its cue window opens and a player is free (R105). -/
def cueWindow (env : Env) (w : W) : W :=
  match w.ch.nextToCue with
  | some i =>
    if isLate env i = false ∧ i.start - (env.cp.lead + env.cp.margin) ≤ env.now ∧ w.ch.cuesAllowed (rollFrame env i) then
      match w.ch.freePlayer none with
      | some p => cuePreroll env p i w
      | none => w
    else w
  | none => w

/-- An item without a player ends no later than a frame. -/
def Item.lostBy (i : Item) (edge : Frame) : Bool := i.player.isNone && !i.endsAfter edge

/-- The break-in clip is lost whole: ABSENT fill takes its place, without a record (R112, R150). -/
def breakLost (edge : Frame) (w : W) : Option W :=
  match w.ch.seq.breakClip with
  | some i => if decide (i.kind = .brk) && i.lostBy edge then some (w.modSeq fun q => { q with breakClip := some i.absent })
              else none
  | none => none

/-- The landing is lost whole (R112), also while a break-in is pending (log entry 87). -/
def landingLost (env : Env) (edge : Frame) (w : W) : Option W :=
  match w.ch.seq.landing with
  | some l => if l.item.isPass && l.item.lostBy edge
              then some (takePointer env (loseWhole env l.item (w.modLanding Item.absent))) else none
  | none => none

/-- The item at the pointer is lost whole (R112), but while a break-in is pending the pointer stands (R149; log entry 87).
An item that R142 withholds in RETURNING is lost as any other (log entry 87). -/
def pointerLost (env : Env) (edge : Frame) (w : W) : Option W :=
  match w.ch.nextToCue with
  | some i =>
    if !i.endsAfter edge && w.ch.active && w.ch.ctl.pendingBreak.isNone && decide (w.mode ≠ .breakIn) then
      some (takePointer env (loseWhole env i (w.modSeq fun q => { q with preroll := none })))
    else none
  | none => none

/-- A late item with no cue issued by the period in which now + preroll lead reaches its resolved end is lost whole
(R112). -/
def itemLostOnce (env : Env) (w : W) : Option W :=
  let edge := env.now + env.cp.lead
  match breakLost edge w with
  | some w' => some w'
  | none => match landingLost env edge w with
    | some w' => some w'
    | none => pointerLost env edge w

/-- Every item that is lost in this period. -/
def loseItems (env : Env) : Nat → W → W
  | 0, w => w
  | n + 1, w => match itemLostOnce env w with
    | some w' => loseItems env n w'
    | none => w

/-! ## Going on the air (R103) -/

/-- The remaining passes of an item on air (R103). -/
def remainingPasses (c : Chan) (i : Item) : Nat :=
  if i.isPass then (match c.store.event i.event with | some e => e.passes - i.pass - 1 | none => 0) else 0

/-- The records of an item going on air (R123). -/
def startRecords (env : Env) (i : Item) (w : W) : W :=
  let off := w.ch.offsetAt i env.now
  match i.kind with
  | .pass =>
    let w := if i.start < env.now then
        w.itemRecord env .itemLate i.event i.pass off i.source (.frames (env.now - i.start).toNat) else w
    let w := if i.subTried then
        w.itemRecord env .substituted i.event i.pass off i.source (if i.subShort then .short else .absent) else w
    w.itemRecord env .itemStart i.event i.pass off i.source (if i.contin then .continuation else .zero)
  | .fill .scheduleEnd => w.itemRecord env .scheduleEnd 0 0 0 .fill .zero
  | .fill k => w.itemRecord env .fillStart i.event i.pass 0 .fill (.fillKind k)
  | .brk => w

/-- In a DR mode a PASS item going on air sets the anchor (R30, R103). -/
def setAnchorFrom (env : Env) (i : Item) (w : W) : W :=
  if drMode w.mode && i.isPass then
    w.modStore fun t => { t with anchor := some { event := i.event, offset := w.ch.offsetAt i env.now, frame := env.now } }
  else w

/-- An item goes on air in place of what stands there (R103). -/
def putOnAir (env : Env) (i : Item) (w : W) : W :=
  let w := startRecords env i (leaveAir env w)
  let i := { i with onAirStart := some env.now }
  let o : OnAir := { item := i, framesIn := 0, remaining := remainingPasses w.ch i,
                     offset0 := if i.ofEvent then w.ch.offsetAt i env.now else 0, planned := i.planned, leave := none,
                     fillMark := i.isPass && i.fillDue }
  let w := setAnchorFrom env i (w.modSeq fun q => { q with onAir := some o })
  if i.carriesFill then judgeItem env i env.now w else w

/-- The WAIT item that stands for a late item, or for none (R103, R112, R150). -/
def waitFor (now : Frame) (i : Option Item) : Item :=
  { (Item.fresh (.fill .wait) 0 0 now none 0) with
    forEvent := match i with | some x => x.event | none => 0
    forPass := match i with | some x => x.pass | none => 0
    start := match i with | some x => max x.start (x.entry.getD x.start) | none => now }

/-- A WAIT item stands on air for the late item. One that stands for the same item goes on, without records, as where the
late roll frame finds the player still CUEING (R103; log entry 63). -/
def putWait (env : Env) (i : Option Item) (w : W) : W :=
  let x := waitFor env.now i
  match w.ch.seq.onAir with
  | some o => if o.item.kind = .fill .wait ∧ o.item.forEvent = x.forEvent ∧ o.item.forPass = x.forPass then w
              else putOnAir env x w
  | none => putOnAir env x w

/-- The slot that held a rolled item is emptied; a landing stays until its target (R104, R114). -/
def clearSlots (now : Frame) (p : PlayerId) (q : Seq) : Seq :=
  { q with
    cued := q.cued.filter fun i => decide (i.player ≠ some p)
    breakClip := q.breakClip.filter fun i => decide (i.player ≠ some p)
    landing := q.landing.filter fun l => decide (l.item.player ≠ some p) || decide (now < l.target) }

/-- At its roll frame a CUED player becomes PLAYING and its item goes on air; in RETURNING an item that would run
past the target is stopped there (R107, R142). -/
def playerRoll (env : Env) (p : PlayerId) (w : W) : W :=
  let pl := w.player p
  match pl.loaded with
  | none => w
  | some i =>
    if pl.state = .cued ∧ pl.roll = some env.now then
      let w := w.modPlayer p fun x => { x with state := .playing }
      let w := putOnAir env i (w.modSeq (clearSlots env.now p))
      match w.mode, w.ch.ctl.switch with
      | .returning, some s =>
        if pl.endF.all (fun t => decide (s.target < t)) then issueStop env p s.target w else w
      | _, _ => w
    else w

/-- The break-in goes on while the channel is in BREAK_IN (R150, R152). -/
def nextBreak (env : Env) (w : W) : W :=
  match w.ch.seq.breakClip with
  | some b => match w.ch.seq.onAir with
    | some o => if o.item.kind = .brk ∨ o.item.kind = b.kind then w
                else if b.kind = .brk then putWait env none w else putOnAir env { b with start := env.now } w
    | none => if b.kind = .brk then putWait env none w else putOnAir env { b with start := env.now } w
  | none => match w.ch.seq.onAir with
    | some _ => w
    | none => putOnAir env (Item.fresh (.fill .absent) 0 0 env.now none 0) w

/-- The due item as the cued slot or the pointer holds it, part-way entry and all; else as the timeline gives it. -/
def Chan.dueItem (c : Chan) (x : Item) : Item :=
  match (c.seq.cued.toList ++ c.seq.preroll.toList).find? fun i => i.same x with
  | some i => i
  | none => x

/-- The timeline's item at now goes on air, or a WAIT item in its place (R103). -/
def nextItem (env : Env) (w : W) : W :=
  let x := w.ch.itemAt env.now
  let put (w : W) : W := if x.isPass then putWait env (some (w.ch.dueItem x)) w else putOnAir env x w
  match w.ch.seq.onAir with
  | none => put w
  | some o => match o.item.kind with
    | .fill .wait => put w
    | .fill .gap => if o.item.onAirStart = some env.now ∨ (x.kind = .fill .gap ∧ x.start < env.now) then w else put w
    | .fill .scheduleEnd => if x.kind = .fill .scheduleEnd then w else put w
    | _ => w

/-- A landing whose end has come before it went on air is lost whole, its cue with it, unless it was filled before
(R112). -/
def landingOver (env : Env) (w : W) : W :=
  match w.ch.seq.landing with
  | some l =>
    let w := w.modSeq fun q => { q with landing := none }
    if l.item.isPass then
      loseWhole env l.item (match l.item.player with
        | some p => if (w.player p).state = .cueing then cancelCue env p w else w.dropOwner l.item
        | none => w.dropOwner l.item)
    else w.dropOwner l.item
  | none => w

/-- The landing goes on air at its target from the player that carries it already and plays it: it is the context's item, with
its on-air start at the target (R114). -/
def landPlaying (env : Env) (w : W) : Option W :=
  match w.ch.seq.landing, w.ch.seq.onAir with
  | some l, some o => match l.item.player with
    | some p =>
      if o.item.player = some p ∧ (w.player p).state = .playing ∧ o.item.same l.item = true then
        some (putOnAir env l.item (w.modSeq fun q => { q with onAir := none, landing := none }))
      else none
    | none => none
  | _, _ => none

/-- The landing at its target, or past it: from the player that plays it, lost whole when it is over, as a WAIT item, or as
fill (R103, R112, R114). -/
def landNow (env : Env) (l : Landing) (w : W) : W :=
  match landPlaying env w with
  | some w' => w'
  | none =>
    if l.item.endsAfter env.now = false then nextItem env (landingOver env w)
    else if l.item.isPass then putWait env (some l.item) w
    else putOnAir env l.item (w.modSeq fun q => { q with landing := none })

/-- A WAIT item on air stands until the frame of a pending break-in (R149). -/
def Chan.waitsForBreak (c : Chan) : Bool :=
  c.ctl.pendingBreak.isSome && c.seq.onAir.any fun o => decide (o.item.kind = .fill .wait)

/-- What goes on air at a boundary besides the items that roll (R103, R138, R149, R150). Before the target of a landing nothing
follows the old context's item (log entry 54). -/
def nextOnAir (env : Env) (w : W) : W :=
  if w.ch.active = false ∨ w.ch.waitsForBreak = true then w
  else if w.mode = .breakIn then nextBreak env w
  else match w.ch.seq.landing with
    | some l =>
      if env.now < l.target then w else landNow env l w
    | none => nextItem env w

/-- Fill that ends now, and an item whose player faulted, leave the air (R103, R110). A GAP item gives way to the next
item, or leaves at its end while a landing waits for its target. -/
def othersLeave (env : Env) (w : W) : W :=
  match w.ch.seq.onAir with
  | some o =>
    if o.leave = some env.now ∨ (o.item.endsAfter env.now = false ∧
        (o.item.carriesFill = true ∨ o.item.kind = .fill .gap ∧ w.ch.landingWaits env.now = true)) then leaveAir env w else w
  | none => w

/-- DROPPED records of the DROP events whose empty span the on-air frame passes (R101, R123). -/
def droppedRecords (env : Env) (w : W) : W :=
  if w.mode = .takeover ∨ w.mode = .returning then
    (w.ch.store.merged.filter fun e => decide (e.action = .drop) &&
        (match e.res with | some r => decide (r.start = env.now) | none => false)).foldl
      (fun w e => w.itemRecord env .dropped e.id 0 0 .fill .zero) w
  else w

/-- ITEM_LATE records that waited for their item's resolved start (R123), and spent items that are over. They stand after the
records of the item that goes on air at that frame (log entry 96). -/
def spentRecords (env : Env) (w : W) : W :=
  let ready := w.ch.seq.spent.filter fun x => match x.due with | some d => decide (d.1 ≤ env.now) | none => false
  let w := ready.foldl (fun w x => match x.due with
    | some d => w.itemRecord env .itemLate x.event x.pass
        (w.ch.offsetAt (Item.fresh (.fill .wait) x.event x.pass d.1 (some d.2) 0) d.1) .fill (.frames (d.2 - d.1).toNat)
    | none => w) w
  let w := w.modSeq fun q => { q with spent := q.spent.map fun x => match x.due with
    | some d => if d.1 ≤ env.now then { x with due := none } else x
    | none => x }
  let items := w.ch.items
  let stands (x : Spent) : Bool := x.due.isSome || items.any fun i =>
    i.ofEvent && decide (i.event = x.event) && decide (i.pass = x.pass) && i.endsAfter env.now
  w.modSeq fun q => { q with spent := q.spent.filter stands }

/-! ## Lifecycles (R23) -/

/-- The events with an item on air, and the one a saved context names. -/
def Chan.onAirIds (c : Chan) : List Nat :=
  (match c.seq.onAir with | some o => if o.item.ofEvent then [o.item.event] else [] | none => []) ++
  (match c.ctl.ctx with | some s => [s.event] | none => [])

/-- The events with an item cued. -/
def Chan.cuedIds (c : Chan) : List Nat :=
  (match c.seq.cued with | some i => [i.event] | none => []) ++
  (match c.seq.landing with | some l => if l.item.player.isSome then [l.item.event] else [] | none => [])

/-- The lifecycle an event has by its items; a held part is written once none is on air or cued (R23, R60). -/
def Event.relife (onAir cued : List Nat) (e : Event) : Event :=
  if onAir.contains e.id then { e with lifecycle := .onAir }
  else if cued.contains e.id then { e with lifecycle := .cued }
  else { e.writeHeld with lifecycle := .pending }

/-- The item that an on-air WAIT item stands for, once a player holds it. -/
def Chan.waited (c : Chan) (x : Item) : Option Item :=
  (c.seq.cued.toList ++ (c.seq.landing.map (·.item)).toList ++ c.seq.breakClip.toList).find? fun i =>
    i.player.isSome && decide (i.event = x.forEvent) && decide (i.pass = x.forPass)

/-- A WAIT item stands without an end while no player is free; its end is the roll frame once the cue is issued (R112), and
stays so while the player is CUEING past it (log entry 74). -/
def syncWait (w : W) : W :=
  match w.ch.seq.onAir with
  | some o =>
    if o.item.kind = .fill .wait then
      let stop := (w.ch.waited o.item).map w.ch.rollOf
      w.modSeq fun q => { q with onAir := some { o with item := { o.item with stop := stop } } }
    else w
  | none => w

/-- The remaining passes of the item on air follow its event's passes (R60, R103). -/
def syncPasses (w : W) : W :=
  w.modSeq fun q => { q with onAir := q.onAir.map fun o => { o with remaining := remainingPasses w.ch o.item } }

/-- Lifecycles follow the slots, and so do a WAIT item's end and the remaining passes; an orphan with no item on air and
no context is freed (R22, R23, R103, R112). -/
def syncLife (w : W) : W :=
  let w := syncPasses (syncWait w)
  let air := w.ch.onAirIds
  let cued := w.ch.cuedIds
  w.modStore fun t =>
    { t with current := t.current.map (Event.relife air cued)
             orphan := t.orphan.filter fun e => air.contains e.id }

/-! ## Joins (R114, R128 to R131) -/

/-- The landing item of a target frame on the resolved timeline (R128, R129). A PASS item is the landing also where an item
of its event and pass has been filled: whether the landing can be cued is decided at its own cue (R114, R131). -/
def Chan.landingAt (c : Chan) (target : Frame) : Item :=
  let i := heldAt c.timeline target
  let j := i.trim target
  { j with start := target, onAirStart := some target, entry := if i.isPass then some target else none }

/-- The landing as the Channel Controller records it (R130). -/
def Chan.handedOf (c : Chan) (i : Item) (target : Frame) : Handed :=
  match i.kind with
  | .fill k => .fill k
  | _ =>
    let j := c.offsetAt i target
    let u : Int := match c.store.event i.event with
      | some e => e.duration
      | none => 0
    .pass i.event i.pass (j - i.pass * u) j

/-- Two landings differ (R131). -/
def landingsDiffer (tol : Nat) : Handed → Handed → Bool
  | .pass e p q _, .pass e' p' q' _ => decide (e ≠ e') || decide (p ≠ p') || decide ((tol : Int) < |q - q'|)
  | .fill k, .fill k' => decide (k ≠ k')
  | _, _ => true

/-- A player already carries the landing item with the same in-point for the target (R114, R130). -/
def Chan.carriesLanding (c : Chan) (land : Item) (target : Frame) (p : PlayerId) : Bool :=
  let pl := c.seq.player p
  match pl.loaded, pl.roll with
  | some i, some r =>
    i.isPass && i.same land && decide (pl.state = .cueing ∨ pl.state = .cued ∨ pl.state = .playing) &&
      decide (r ≤ target) && decide (i.inPoint + (target - i.start) = land.inPoint) && i.endsAfter target
  | _, _ => false

/-- What a join is for: a takeover or its recomputation, the start of the shadow, its re-join, or a resume. -/
inductive JoinFor
  | takeover
  | shadow
  | rejoin
  | resume
deriving DecidableEq, Repr

/-- What stands on air as a join is handed (R114, R121, R130, R154). A player that carries the landing on keeps a STOP that an
earlier re-join sent it (log entry 75). -/
def joinOnAir (env : Env) (why : JoinFor) (carrier : Option PlayerId) (target : Frame) (w : W) : W :=
  match w.ch.seq.onAir with
  | none => w
  | some o =>
    let kept := match o.item.player with
      | some p => decide (carrier = some p)
      | none => false
    if kept || (!o.item.endsAfter target) then w
    else match why, o.item.player with
      | .takeover, some p =>
        let w := w.modSeq fun q => { q with onAir := none }
        if (w.player p).state = .playing then stopAtOnce env p env.now w else w
      | .takeover, none => w.modSeq fun q => { q with onAir := none }
      | _, some p =>
        if (w.player p).state = .playing ∧ (w.player p).stopF.all (fun f => decide (target < f))
        then issueStop env p target w else w
      | _, none => w

/-- A break-in clip still cueing at a resume is stopped at the resume target as well (R154). -/
def joinBreak (env : Env) (target : Frame) (w : W) : W :=
  match w.ch.seq.breakClip with
  | some i => match i.player with
    | some p => if i.kind = .brk ∧ (w.player p).endF.all (fun f => decide (target < f)) then issueStop env p target w else w
    | none => w
  | none => w

/-- The old landing's cue is cancelled unless the new join keeps it (R131, R133). -/
def joinOldLanding (env : Env) (carrier : Option PlayerId) (w : W) : W :=
  match w.ch.seq.landing with
  | some l => match l.item.player with
    | some p =>
      let st := (w.player p).state
      if carrier ≠ some p ∧ (st = .cueing ∨ st = .cued) then cancelCue env p w else w
    | none => w
  | none => w

/-- The handle that an item's own fields give it (R115). -/
def Chan.handleOf (c : Chan) (i : Item) : Option Nat :=
  match c.store.event i.event with
  | none => none
  | some e =>
    let f := e.fieldsFor i.pass i.contin
    match f.2.2.2 with
    | .play => if i.subTried then f.2.2.1 else some f.1
    | .substitute => f.2.2.1
    | _ => none

/-- A timeline's item as a cued item of the same pass entered it: a continuation at the end of its first part, while that
is the context's, and a part-way item at its own entry. -/
def Item.enteredAs (i : Item) (ctx : Option Item) (ref : Frame) (x : Item) : Item :=
  if i.contin && ctx.any (fun r => r.ofEvent && r.same i) then x.trim ref
  else match i.entry with
    | some f => x.trim f
    | none => x

/-- The item of the timeline that stands where a cued item was cued, when it does: the same event and pass with the same
resolved start, in-point and handle (R115). A later pass whose cue stands under R60 keeps its own in-point and handle. An item
that no player holds has no handle cued yet: R102 gives it one at its cue.
`ref` is the end of the context's item `ctx`. -/
def Chan.standing (c : Chan) (i x : Item) (ctx : Option Item) (ref : Frame) : Option Item :=
  let y := i.enteredAs ctx ref (if i.contin then c.ownPoint x else x)
  if x.same i && decide (y.start = i.start) &&
      (i.pinned || decide (y.inPoint = i.inPoint) && (i.player.isNone || decide (c.handleOf i = i.handle))) then some y
  else none

/-- The cued item is kept when it passes the test of R115 as the first PASS item after the landing (R130). -/
def joinCued (env : Env) (carrier : Option PlayerId) (land : Item) (after : Frame) (w : W) : W :=
  match w.ch.seq.cued with
  | none => w
  | some i =>
    if i.player = carrier then w.modSeq fun q => { q with cued := none }
    else if ((w.ch.firstPassAfter after).bind fun x => w.ch.standing i x (some land) after).isSome then w
    else (cancelItem env i w).modSeq fun q => { q with cued := none }

/-- The landing as a player that already carries it holds it (R114, R130). -/
def Item.carriedBy (p : PlayerId) (held : Option Item) (land : Item) : Item :=
  match held with
  | some i => { land with handle := i.handle, player := some p, attempts := i.attempts, subTried := i.subTried,
                          subShort := i.subShort, planned := i.planned, stop := i.stop }
  | none => land

/-- The player that carries the landing on holds it as the landing item (R114). -/
def carryLanding (carrier : Option PlayerId) (land : Item) (w : W) : W :=
  match carrier with
  | some p => w.modPlayer p fun x => { x with loaded := some land }
  | none => w

/-- A PASS landing is an item of its own: what was filled of its event and pass is so no more (R114, R131). -/
def Item.unspent (land : Item) (l : List Spent) : List Spent :=
  if land.isPass then l.filter fun x => decide (x.event ≠ land.event) || decide (x.pass ≠ land.pass) else l

/-- The Sequencer takes a join handed by the Channel Controller (R114, R130). -/
def handJoin (env : Env) (why : JoinFor) (target : Frame) (w : W) : W :=
  let land := w.ch.landingAt target
  let handed := w.ch.handedOf land target
  let carrier := if land.isPass then [PlayerId.a, .b].find? (w.ch.carriesLanding land target) else none
  let land := match carrier with
    | some p => land.carriedBy p (w.player p).loaded
    | none => land
  let w := if why = .resume then joinBreak env target w else w
  let w := joinOldLanding env carrier (joinOnAir env why carrier target w)
  let w := joinCued env carrier land (land.followEnd target) w
  let w := carryLanding carrier land w
  let w := w.modSeq fun q => { q with landing := some { item := land, target := target, rejoin := decide (why = .rejoin) }
                                      shadow := q.shadow || decide (w.mode = .mirror)
                                      spent := land.unspent q.spent }
  let w := w.modCtl fun c => { c with handed := some handed }
  let w := cueLanding env w
  syncLife (rejudge env (takePointer env w))

/-! ## Reactions to a new timeline (R115 to R117, R131) -/

/-- A player's item is cut: a STOP with the new end, unless an earlier stop stands, and the end frame moved (R116). -/
def cutPlayer (env : Env) (p : PlayerId) (stop : Frame) (w : W) : W :=
  let earlier := match (w.player p).stopF with
    | some f => decide (f ≤ stop)
    | none => false
  let w := if earlier then w else issueStop env p stop w
  w.modPlayer p fun x => { x with endF := some stop, loaded := x.loaded.map fun i => { i with stop := some stop } }

/-- The on-air item meets its new end (R116); a GAP item ends where the timeline's next item now starts (R101). -/
def reactOnAir (env : Env) (w : W) : W :=
  match w.ch.seq.onAir with
  | none => w
  | some o =>
    if o.item.kind = .fill .gap then
      let x := w.ch.itemAt env.now
      if x.kind = .fill .gap then w.modSeq fun q => { q with onAir := some { o with item := { o.item with stop := x.stop } } }
      else w
    else match w.ch.endOf o.item with
    | none => w
    | some e => match o.item.kind, o.item.player with
      | .pass, some p =>
        let stop := max e (env.now + 2)
        if o.leave = none ∧ (w.player p).state = .playing ∧
            (w.player p).endF.any (fun t => decide (stop < t)) then
          (cutPlayer env p stop w).modSeq fun q => { q with onAir := some { o with item := { o.item with stop := some stop } } }
        else w
      | .fill _, _ =>
        if o.item.carriesFill then
          w.modSeq fun q => { q with onAir := some { o with item := { o.item with stop := some (max e (env.now + 1)) } } }
        else w
      | _, _ => w

/-- The cued item stands with an end that may have moved, or its cue is cancelled (R115, R116). An end at or
before its roll frame is a cut as any other: it is stopped there (log entry 73). -/
def reactCued (env : Env) (w : W) : W :=
  match w.ch.seq.cued with
  | none => w
  | some i =>
    let ref := w.ch.contextEnd env.now
    match (w.ch.firstPassAfter ref).bind fun x => w.ch.standing i x w.ch.context ref, i.player with
    | some y, some p => match y.stop, (w.player p).endF with
      | some t, some f =>
        if t < f then (cutPlayer env p t w).modSeq fun q => { q with cued := some { i with stop := some t } } else w
      | _, _ => w
    | _, _ => (cancelItem env i w).modSeq fun q => { q with cued := none }

/-- A landing that does not differ, before its target: a fill landing takes its end afresh (R129); a cued or carried one is
cut when its end moves earlier (R116) and keeps its player's end else (R117); one that no player holds takes the new end
and the new record's in-point, at the in-pass offset first handed (R131). -/
def keepLanding (env : Env) (l : Landing) (fresh : Item) (q q' : Int) (w : W) : W :=
  match l.item.kind, l.item.player with
  | .pass, some p =>
    let w := match fresh.stop, (w.player p).endF with
      | some t, some f => if t < f then cutPlayer env p t w else w
      | _, _ => w
    w.modLanding fun i => { i with stop := (w.player p).endF }
  | .pass, none => w.modLanding fun i => { i with stop := fresh.stop, inPoint := fresh.inPoint + (q - q') }
  | _, _ => w.modLanding fun i => { i with stop := fresh.stop }

/-- What a landing's recomputation is handed for (R131; log entry 22). -/
def Landing.why (l : Landing) (m : Mode) : JoinFor :=
  match m with
  | .joining => .takeover
  | .breakIn => .resume
  | _ => if l.rejoin then .rejoin else .shadow

/-- The in-pass offset of a handed landing; 0 for a fill. -/
def Handed.inPass : Handed → Int
  | .pass _ _ q _ => q
  | .fill _ => 0

/-- The landing follows the timeline: before its target the join is computed again (R131); a late landing is dealt
with as a cued item (R115). -/
def reactLanding (env : Env) (w : W) : W :=
  match w.ch.seq.landing with
  | none => w
  | some l =>
    if env.now < l.target then
      let fresh := w.ch.landingAt l.target
      let new := w.ch.handedOf fresh l.target
      match w.ch.ctl.handed with
      | some h =>
        if landingsDiffer env.cp.realignTolerance h new then handJoin env (l.why w.mode) l.target w
        else keepLanding env l fresh h.inPass new.inPass w
      | none => w
    else if l.item.isPass = false then w
    else
      let x := w.ch.items.find? fun x => x.isPass && x.same l.item
      match x.bind fun x => w.ch.standing l.item x w.ch.context l.item.start with
      | some y => match l.item.player, y.stop with
        | some p, some t =>
          if (w.player p).endF.any (fun f => decide (t < f)) then (cutPlayer env p t w).modLanding fun i => { i with stop := some t } else w
        | none, _ => w.modLanding fun i => { i with stop := y.stop }
        | _, _ => w
      | none => (cancelItem env l.item w).modSeq fun q => { q with landing := none }

/-- What a resolution reads of the channel (R33, R34, R55, R154). No item of an orphan is on air during a break-in, so nothing ends its
span there until the resume is begun (log entry 82). -/
def resCtx (env : Env) (c : Chan) : RCtx :=
  { now := env.now, anchor := none
    orphanItemEnd := match c.store.orphan, c.seq.onAir with
      | some e, some o => if o.item.ofEvent && decide (o.item.event = e.id) then o.item.stop else none
      | _, _ => none
    orphanFixed := match c.store.orphan, c.ctl.ctx, c.ctl.resume, c.store.anchor with
      | some e, some s, some _, some a => if s.event = e.id then some a.frame else none
      | _, _, _, _ => none }

/-- The outstanding query is abandoned (R119). -/
def abandonSweep (w : W) : W := w.modSeq fun q => { q with sweep := none }

/-- The sweep window (R118): it begins at the end of the cued item, else of the context's PASS item, else at now. -/
def Chan.sweepWindow (c : Chan) (now : Frame) (depth : Nat) : List Event :=
  let from_ : Frame := match c.seq.cued with
    | some i => i.stop.getD now
    | none => match c.context with
      | some i => if i.isPass then i.stop.getD now else now
      | none => now
  (c.store.current.filter fun e => (decide (e.action = .play) || decide (e.action = .substitute)) &&
    (match e.res with | some r => decide (from_ ≤ r.start) | none => false)).take depth

/-- The events the sweep reads: those of its window, and the one it has asked about. -/
def Chan.swept (c : Chan) (now : Frame) (depth : Nat) : List Nat :=
  (c.sweepWindow now depth).map (·.id) ++ c.seq.sweep.toList.map (·.event)

/-- The store resolves and retires; a retirement of an event that the sweep reads abandons its query (R36, R119). -/
def resolveStore (env : Env) (w : W) : W :=
  let ids := w.ch.swept env.now env.cp.sweepDepth
  let w := w.modStore fun t => resolveRetire (resCtx env w.ch) env.part.retireGrace (t.current.length + 1) t
  if ids.any fun id => (lookupId id w.ch.store.current).isNone then abandonSweep w else w

/-- One round: resolve and retire, then the items follow, then the lifecycles. -/
def settleOnce (env : Env) (w : W) : W :=
  let w := resolveStore env w
  syncLife (takePointer env (reactLanding env (reactCued env (reactOnAir env w))))

/-- Rounds until the store no longer changes (R32: each change makes the generation be resolved again). -/
def settleLoop (env : Env) : Nat → W → W
  | 0, w => w
  | n + 1, w =>
    let w' := settleOnce env w
    if w'.ch.store = w.ch.store then w' else settleLoop env n w'

/-- What the pending triggers depend on: the spans of the on-air item, the landing and the cued item (R159). -/
def Chan.spans (c : Chan) : List (Option Item × Option Resolved) :=
  [c.seq.onAir.map (·.item), c.seq.landing.map (·.item), c.seq.cued].map fun i =>
    (i, i.bind fun i => (c.store.event i.event).bind (·.res))

/-- The channel follows a change that can move a span (R32, R36, R115 to R117, R131, R159). -/
def settle (env : Env) (w : W) : W :=
  let w' := settleLoop env 6 w
  if w'.ch.spans = w.ch.spans then w' else rejudge env w'

/-- A join is handed, and the timeline follows what it ends (R32, R114). -/
def joinSettled (env : Env) (why : JoinFor) (target : Frame) (w : W) : W := settle env (handJoin env why target w)

/-! ## The readiness sweep (R118, R119) -/

/-- The handle the sweep asks about (R118). -/
def Event.sweepHandle (e : Event) : Nat :=
  match e.action with
  | .substitute => e.subst.getD 0
  | _ => e.clip

/-- A player can take a sweep query: not FAULT, with an empty queue and nothing in flight (R118). -/
def Player.quiet (pl : Player) : Bool := decide (pl.state ≠ .fault) && pl.queue.isEmpty && pl.flight.isNone

/-- The sweep asks about the first UNKNOWN event of its window (R118). -/
def sweepQuery (env : Env) (w : W) : W :=
  if w.ch.seq.sweep.isSome then w
  else match (w.ch.sweepWindow env.now env.cp.sweepDepth).find? fun e => decide (e.readiness = .unknown) with
    | none => w
    | some e => match [PlayerId.a, .b].find? fun p => (w.player p).quiet with
      | none => w
      | some p =>
        let tag := (w.player p).tags
        (submit env p (.query e.sweepHandle) w).modSeq fun q => { q with sweep := some { player := p, tag := tag, event := e.id } }

/-- What an on-air WAIT item stands for has been lost: the break-in clip, a landing whose target has come, or the
timeline's item at now is no item that a player will give. -/
def Chan.waitsInVain (c : Chan) (now : Frame) : Bool :=
  if c.ctl.mode = .breakIn then c.seq.breakClip.any fun i => decide (i.kind ≠ .brk)
  else match c.seq.landing with
    | some l => decide (l.target ≤ now) && !l.item.isPass
    | none => !(c.itemAt now).isPass

/-- The items lost in this period, and the fill that a WAIT item then gives way to (R112). The ITEM_LATE records stand before
that fill's (log entry 96). -/
def itemLost (env : Env) (w : W) : W :=
  let w := loseItems env (w.ch.items.length + 3) w
  match w.ch.seq.onAir with
  | some o => if o.item.kind = .fill .wait ∧ w.ch.waitsInVain env.now = true then nextOnAir env w else w
  | none => w

/-- Cues are issued in the period until the item that the pointer then names is cued or has to wait: an item that is given
up leaves its place to the next at once (R102, R105, R112). -/
def cueAll (env : Env) : Nat → W → W
  | 0, w => w
  | n + 1, w =>
    let w' := cueWindow env (lateCue env w)
    if w'.ch.nextToCue = none ∨ w'.ch.nextToCue = w.ch.nextToCue then w' else cueAll env n w'

/-- Items are lost, cued late, cued on time, and the sweep asks (R105, R112, R118). -/
def pump (env : Env) (w : W) : W :=
  let w := itemLost env w
  syncLife (sweepQuery env (cueAll env (2 * w.ch.items.length + 3) w))

/-- An operation, and what follows it when it has changed the channel. -/
def followed (after op : Env → W → W) (env : Env) (w : W) : W :=
  let w' := op env w
  if w'.ch = w.ch then w' else after env w'

/-- The timeline follows a change (R32). -/
def settled (env : Env) (w : W) : W := settle env (syncLife w)

/-! ## The HOT shadow (R120 to R122) -/

/-- The anchor names an event resolved in the CURRENT generation, or the orphan (R120). -/
def Chan.anchorResolved (c : Chan) : Bool :=
  match c.store.anchor with
  | some a => match c.store.event a.event with
    | some e => e.res.isSome
    | none => false
  | none => false

/-- The shadow starts (R120). -/
def shadowStart (env : Env) (w : W) : W :=
  if w.mode = .mirror ∧ env.cp.standby = .hot ∧ w.ch.seq.shadow = false ∧ w.ch.anchorResolved = true then
    joinSettled env .shadow (env.now + env.cp.lead) w
  else w

/-- The shadow's item and its offset at now (R121): the item on air, at its offset at its on-air start plus the frames into
it. Before the target of the shadow's start join the context's item is the landing, on air from the target (R114), so
its offset is reckoned back from there (log entry 57). -/
def Chan.shadowItem (c : Chan) (now : Frame) : Option (Item × Int) :=
  match c.seq.landing, c.landingWaits now with
  | some l, true => some (l.item, (match c.ctl.handed with | some (.pass _ _ _ j) => j | _ => 0) + (now - l.target))
  | _, _ => c.seq.onAir.map fun o => (o.item, o.offset0 + o.framesIn)

/-- The shadow and the timeline agree at now (R121). -/
def Chan.aligned (c : Chan) (now : Frame) (tol : Nat) : Bool :=
  let x := c.itemAt now
  match c.shadowItem now with
  | none => false
  | some (i, off) =>
    if i.isPass then x.isPass && x.same i && decide (|off - c.offsetAt x now| ≤ (tol : Int)) else !x.isPass

/-- A re-join of the shadow waits for its target (R121). -/
def Chan.rejoining (c : Chan) (now : Frame) : Bool :=
  match c.seq.landing with
  | some l => l.rejoin && decide (now < l.target)
  | none => false

/-- A period whose stamped MAIN frame set the anchor compares the shadow with the timeline, but for those from the issue of
a re-join to its target (R121). -/
def realignCompare (env : Env) (w : W) : W :=
  if w.mode = .mirror ∧ w.ch.seq.shadow = true ∧ w.ch.rejoining env.now = false then
    let ok := w.ch.aligned env.now env.cp.realignTolerance
    w.modSeq fun q => { q with realign := if ok then 0 else sat16 q.realign }
  else w

/-- The re-join asked for when the realign run reaches the realign persistence (R121). -/
def shadowRejoin (env : Env) (w : W) : W :=
  if w.mode = .mirror ∧ w.ch.seq.shadow = true ∧ env.cp.realignPersistence ≤ w.ch.seq.realign then
    joinSettled env .rejoin (env.now + env.cp.lead) (w.modSeq fun q => { q with realign := 0 })
  else w

/-- A player that holds a cue or an item is stopped at `frame`; a queued CUE is removed (R122, R125). -/
def stopHolder (env : Env) (frame : Frame) (p : PlayerId) (w : W) : W :=
  let pl := w.player p
  if pl.cueQueued then cancelCue env p w
  else if pl.state = .cueing ∨ pl.state = .cued ∨ pl.state = .playing then stopAtOnce env p frame w else w

/-- The Sequencer holds nothing and is idle. That the realign run stands at 0 after the end of a shadow is log entry 56. -/
def endContext (w : W) : W :=
  w.modSeq fun q => { q with onAir := none, landing := none, cued := none, preroll := none, breakClip := none,
                             spent := [], shadow := false, realign := 0 }

/-- The shadow ends: its players are stopped at now + 2 and its lifecycles released (R120, R122); the handed landing then
stands at none (log entry 55). -/
def shadowEnd (env : Env) (w : W) : W :=
  if w.mode = .mirror ∧ w.ch.seq.shadow = true then
    let w := stopHolder env (env.now + 2) .b (stopHolder env (env.now + 2) .a w)
    settle env (syncLife ((endContext w).modCtl fun c => { c with handed := none }))
  else w

end Sys2Proof.Machine
end

