-- ==== Sys2Proof/Machine/Control.lean ====
section
/-! DEFINITION. The Channel Controller (chapters 7 and 8): switches, joins, handbacks, break-ins and resumes, and the
channel reset's part in a channel (R198). -/

namespace Sys2Proof.Machine

open Sys2Proof

/-- The answer to a request that a channel's blocks have taken: status and body. -/
abbrev Answer := Status × ReplyBody

/-- A refusal changes nothing (R190). -/
def refuse (st : Status) (w : W) : W × Answer := (w, st, .none)

/-! ## Into JOINING (R132, R133, R137) -/

/-- JOINING starts for the pending switch, its target no earlier than `least` (R137). The shadow flag clears as
the mode leaves MIRROR, with the realign run at 0 (log entry 56). -/
def startJoining (env : Env) (sw : Switch) (least : Frame) (w : W) : W :=
  let sw := { sw with target := max sw.target least }
  let w := w.modCtl fun c => { c with switch := some sw, mode := .joining }
  let w := w.modSeq fun q => { q with shadow := false, realign := 0 }
  let w := joinSettled env .takeover sw.target w
  w.modeNotice env .mirror .joining (switchModeCause sw.cause) w.ch.ctl.handed

/-- A waiting TAKEOVER switch falls due (R137). -/
def joiningDue (env : Env) (c : Chan) : Option Switch :=
  match c.ctl.mode, c.ctl.switch with
  | .mirror, some s => if s.target - (env.cp.lead + env.cp.margin) ≤ env.now then some s else none
  | _, _ => none

/-- JOINING starts in the first period in which the waiting switch is due (R137). -/
def joiningStart (env : Env) (w : W) : W :=
  match joiningDue env w.ch with
  | some s => pump env (startJoining env s (env.now + env.cp.lead) w)
  | none => w

/-- An AUTO takeover: hot at now + 1 when the shadow runs under HOT, else cold at now + preroll lead (R132). -/
def autoTakeover (env : Env) (w : W) : W :=
  let target := if env.cp.standby = .hot ∧ w.ch.seq.shadow = true then env.now + 1 else env.now + env.cp.lead
  pump env (startJoining env { kind := .takeover, cause := .auto, target := target, force := true } target w)

/-- A change into FAILED during JOINING makes the join a failure join (R133). -/
def failureJoin (env : Env) (w : W) : W :=
  match w.ch.ctl.switch with
  | none => w
  | some s =>
    let target := min s.target (env.now + env.cp.lead)
    let moved := decide (target ≠ s.target)
    if s.force && !moved then w
    else
      let w := w.modCtl fun c => { c with switch := some { s with target := target, force := true, cause := .auto } }
      let w := if moved then joinSettled env .takeover target w else w
      pump env (w.modeNotice env .joining .joining .auto (if moved then w.ch.ctl.handed else none))

/-! ## Handing back (R140 to R144) -/

/-- The record of a cancelled handback (R135, R144); it concerns no event (log entry 38). -/
def cancelRecord (env : Env) (why : Detail) (w : W) : W :=
  w.record env .handbackCancelled 0 0 0 .main why none

/-- A player released from the handback: its STOP at the target is replaced by one at its end frame (R144). -/
def releasePlayer (env : Env) (target : Frame) (p : PlayerId) (w : W) : W :=
  let pl := w.player p
  match pl.endF with
  | some t => if pl.state = .playing ∧ pl.stopF = some target then issueStop env p t w else w
  | none => w

/-- A handback is cancelled: back to TAKEOVER, with the players released and the waiting items cued (R135, R144). -/
def cancelHandback (env : Env) (why : Detail) (w : W) : W :=
  match w.ch.ctl.switch with
  | none => w
  | some s =>
    let w := w.modCtl fun c => { c with switch := none, mode := .takeover }
    let w := (cancelRecord env why w).modeNotice env .returning .takeover .cancelled none
    pump env (releasePlayer env s.target .b (releasePlayer env s.target .a w))

/-- The pending break-in is withdrawn by an accepted handback (R149). -/
def withdrawBreak (env : Env) (target : Frame) (w : W) : W :=
  match w.ch.ctl.pendingBreak with
  | none => w
  | some b =>
    let w := match w.ch.seq.breakClip with
      | some i => cancelItem env i w
      | none => w
    let w := (w.modSeq fun q => { q with breakClip := none }).modCtl fun c => { c with pendingBreak := none }
    let back (p : PlayerId) (w : W) : W :=
      let pl := w.player p
      match pl.endF with
      | some t => if pl.state = .playing ∧ pl.stopF = some b.b ∧ t ≤ target then issueStop env p t w else w
      | none => w
    back .b (back .a w)

/-- A PLAYING player whose end frame lies after the target is stopped there (R142). -/
def stopAtTarget (env : Env) (target : Frame) (p : PlayerId) (w : W) : W :=
  let pl := w.player p
  if pl.state = .playing ∧ pl.endF.all (fun t => decide (target < t)) then issueStop env p target w else w

/-- An accepted handback: RETURNING until the target (R140, R142, R149). -/
def startReturning (env : Env) (s : Switch) (w : W) : W :=
  let w := w.modCtl fun c => { c with switch := some s, mode := .returning }
  let w := w.modeNotice env .takeover .returning (switchModeCause s.cause) none
  let w := withdrawBreak env s.target w
  let w := stopAtTarget env s.target .b (stopAtTarget env s.target .a w)
  pump env (takePointer env w)

/-- A target of a request: ASAP takes `least`; a day and a label are converted under R9 and clamped to `least`
(R134, R140). The label has been checked before. -/
def targetFrame (env : Env) (least : Frame) : Target → Frame × Status
  | .asap => (least, .ok)
  | .at day l =>
    let h : Frame := hfnOf env.rate day l
    if h < least then (least, .adjusted)
    else (h, if labelExists env.rate l then .ok else .adjusted)

/-- The target's label fails R4. -/
def targetBad (env : Env) : Target → Bool
  | .asap => false
  | .at _ l => !labelValid env.rate l

/-- The target is a day and a label while the time is UNSET. -/
def targetUnset (env : Env) : Target → Bool
  | .asap => false
  | .at _ _ => !env.timeSet

/-- HANDBACK and HANDBACK_ASK after the channel and permission checks (R140, R141). -/
def handbackOn (cause : SwitchCause) (target : Target) (force : Bool) (env : Env) (w : W) : W × Answer :=
  if targetBad env target then refuse .malformed w
  else if w.mode ≠ .takeover then refuse .wrongMode w
  else if w.ch.ctl.monitor ≠ .healthy ∧ force = false then refuse .notHealthy w
  else if targetUnset env target then refuse .timeUnset w
  else
    let t := targetFrame env (env.now + 2) target
    let mon := w.ch.ctl.monitor
    (startReturning env { kind := .handback, cause := cause, target := t.1, force := force } w,
      t.2, .handback (env.at t.1) force mon)

/-- HANDBACK_ASK (R141). -/
def handbackAskOn (target : Target) (env : Env) (w : W) : W × Answer :=
  if env.cp.permission = false then refuse .notPermitted w else handbackOn .planned target false env w

/-! ## Requested takeovers (R134 to R136) -/

/-- A switch is recorded in MIRROR, and JOINING starts within the request when it is due (R134, R136). -/
def recordSwitch (env : Env) (s : Switch) (w : W) : W :=
  joiningStart env (w.modCtl fun c => { c with switch := some s })

/-- TAKEOVER on a channel (R134, R135). -/
def takeoverOn (target : Target) (force : Bool) (env : Env) (w : W) : W × Answer :=
  if targetBad env target then refuse .malformed w
  else match w.mode with
    | .returning =>
      if targetUnset env target then refuse .timeUnset w
      else (cancelHandback env .byTakeover w, .ok, .cancelled .takeover)
    | .mirror =>
      if targetUnset env target then refuse .timeUnset w
      else
        let t := targetFrame env (env.now + env.cp.lead + env.cp.margin) target
        let w := recordSwitch env { kind := .takeover, cause := .manual, target := t.1, force := force } w
        (w, t.2, .takeover (env.at t.1) w.mode force)
    | _ => refuse .wrongMode w

/-- HANDOVER on a channel (R136). -/
def handoverOn (day : Nat) (l : Label) (env : Env) (w : W) : W × Answer :=
  if labelValid env.rate l = false then refuse .malformed w
  else if w.mode ≠ .mirror then refuse .wrongMode w
  else if env.timeSet = false then refuse .timeUnset w
  else
    let h : Frame := hfnOf env.rate day l
    if h < env.now + env.cp.lead + env.cp.margin then refuse .tooSoon w
    else (recordSwitch env { kind := .takeover, cause := .planned, target := h, force := false } w,
      if labelExists env.rate l then .ok else .adjusted, .none)

/-! ## Targets (R138, R143) -/

/-- The pass, offset and source a record carries of a landing item at its target (R138, R155): zeros for a fill. -/
def landingRecord (env : Env) (kind : AsRunKind) (detail : Detail) (w : W) : W :=
  match w.ch.seq.landing with
  | some l =>
    if l.item.isPass then w.record env kind l.item.event l.item.pass (w.ch.offsetAt l.item env.now) l.item.source detail none
    else w.record env kind 0 0 0 .fill detail none
  | none => w.record env kind 0 0 0 .fill detail none

/-- The landing goes on air at its target: from the player that already carries it, from the player that rolls
there, or as fill or a WAIT item (R103, R138, R155). -/
def landOnAir (env : Env) (w : W) : W :=
  match landPlaying env w with
  | some w' => w'
  | none =>
    let w := if w.ch.seq.landing.isSome then w.modSeq fun q => { q with onAir := none } else w
    nextOnAir env (playerRoll env .b (playerRoll env .a w))

/-- The target of a pending switch in a mode has come. -/
def targetDue (env : Env) (m : Mode) (c : Chan) : Option Switch :=
  match c.ctl.switch with
  | some s => if c.ctl.mode = m ∧ s.target ≤ env.now then some s else none
  | none => none

/-- At the JOINING target the channel goes on air from the standby site (R138). -/
def joiningTarget (env : Env) (w : W) : W :=
  match targetDue env .joining w.ch with
  | none => w
  | some s =>
    let w := othersLeave env (playersLeave env w)
    let w := w.modCtl fun c => { c with switch := none, mode := .takeover }
    let w := landingRecord env .takeover (.cause s.cause) w
    let w := landOnAir env w
    settle env (w.modeNotice env .joining .takeover (switchModeCause s.cause) none)

/-- A player still CUEING or CUED has its cue cancelled (R143, R155). -/
def dropCue (env : Env) (p : PlayerId) (w : W) : W :=
  let st := (w.player p).state
  if st = .cueing ∨ st = .cued then cancelCue env p w else w

/-- At the RETURNING target the standby site leaves the air (R143); the handed landing then stands at none (log entry 55).
The MODE notice has the switch's cause (log entry 68). -/
def handbackTarget (env : Env) (w : W) : W :=
  match targetDue env .returning w.ch with
  | none => w
  | some s =>
    let w := leaveAir env (othersLeave env (playersLeave env w))
    let w := dropCue env .b (dropCue env .a w)
    let w := w.record env .handback 0 0 0 .main (.handback s.cause s.force) none
    let w := w.modCtl fun c => { c with switch := none, mode := .mirror, handed := none }
    let w := w.modeNotice env .returning .mirror (switchModeCause s.cause) none
    settle env (syncLife ((endContext w).dropPending fun _ => true))

/-! ## Break-ins (R148 to R155) -/

/-- The break-in player (R148). Where no player carries the on-air item, a late landing is held by one player and a cued item by
the other, it is the cued item's player (log entry 76). -/
def Chan.breakPlayer (c : Chan) : PlayerId :=
  match c.carrier with
  | some p => PlayerId.other p
  | none =>
    match (c.seq.cued.bind (·.player)), (c.seq.landing.bind (·.item.player)) with
    | some p, _ => p
    | none, some p => p
    | none, none => .a

/-- The cue of a timeline item that the break-in player holds is cancelled (R148). -/
def clearForBreak (env : Env) (p : PlayerId) (w : W) : W :=
  let st := (w.player p).state
  let w := if st = .cueing ∨ st = .cued then cancelCue env p w else w
  w.modSeq fun q => { q with cued := q.cued.filter fun i => decide (i.player ≠ some p)
                             landing := q.landing.filter fun l => decide (l.item.player ≠ some p) }

/-- The break-in item (R150). -/
def breakItem (handle inPoint : Nat) (duration : Option Nat) (b : Frame) : Item :=
  { (Item.fresh .brk 0 0 b (duration.map fun d => b + (d : Frame)) inPoint) with handle := some handle }

/-- An accepted BREAK_IN (R148). Where no player carries the on-air item, the cue that a late landing holds on the player not taken is
left standing: neither cancelled nor stopped at b (log entry 76). -/
def acceptBreak (handle inPoint : Nat) (duration : Option Nat) (m : ResumeMode) (env : Env) (w : W) : W × Answer :=
  let b := env.now + env.cp.lead
  let p := w.ch.breakPlayer
  let carrier := w.ch.carrier
  let w := takePointer env (syncLife (clearForBreak env p w))
  let w := w.modCtl fun c => { c with pendingBreak := some { handle := handle, inPoint := inPoint, duration := duration,
                                                             mode := m, b := b, player := p } }
  let i := breakItem handle inPoint duration b
  let w := if (w.player p).state = .fault then w.modSeq fun q => { q with breakClip := some i }
    else
      let j := i.cuedOn p (handle, false)
      let w := w.modSeq fun q => { q with breakClip := some j }
      if hasRoom (w.player p) then loadCue env p j handle b w else itemReturned p (some p) j w
  let w := match carrier with
    | some q => issueStop env q b w
    | none => w
  (w, .ok, .breakIn (env.at b) p m)

/-- BREAK_IN on a channel (R148). -/
def breakInOn (handle inPoint : Nat) (duration : Option Nat) (mode : Option BreakMode) (env : Env) (w : W) : W × Answer :=
  if handle = 0 ∨ duration = some 0 ∨ 16777215 < inPoint then refuse .malformed w
  else match mode with
    | none => refuse .malformed w
    | some m =>
      let resolved : ResumeMode := match m with
        | .whereLeft => .whereLeft
        | .onTime => .onTime
        | .default => env.cp.resumeMode
      match w.mode with
      | .mirror => refuse .wrongMode w
      | .takeover =>
        if w.ch.ctl.pendingBreak.isSome then refuse .busy w
        else acceptBreak handle inPoint duration resolved env w
      | _ => refuse .busy w

/-- The event and offset the saved context records (R151). Where its second and fourth rows both hold, the second is taken (log
entry 69). -/
def savedPoint (env : Env) (c : Chan) : Nat × Int :=
  let byAnchor : Nat × Int := match c.store.anchor with
    | some a => match c.store.event a.event with
      | some _ => (a.event, env.now - (a.frame - a.offset))
      | none => (0, 0)
    | none => (0, 0)
  match c.seq.onAir with
  | none => byAnchor
  | some o =>
    if o.item.ofEvent then (o.item.event, c.offsetAt o.item env.now)
    else if o.item.kind = .fill .wait ∧ o.item.forEvent ≠ 0 then
      (o.item.forEvent, c.offsetAt { o.item with event := o.item.forEvent, pass := o.item.forPass } env.now)
    else byAnchor

/-- The pass that holds an offset: 0 where the event's record is gone and no duration says which (log entry 77). -/
def Chan.passAt (c : Chan) (event : Nat) (offset : Int) : Nat :=
  match c.store.event event with
  | some e => (offset / (e.duration : Int)).toNat
  | none => 0

/-- The saved context at b (R151). -/
def savedContext (env : Env) (mode : ResumeMode) (c : Chan) : Saved :=
  let x := savedPoint env c
  { event := x.1, offset := x.2, b := env.now, mode := mode
    remaining := match c.store.event x.1 with
      | some e => e.passes - (x.2 / (e.duration : Int)).toNat - 1
      | none => 0 }

/-- At b the on-air item leaves and the break-in item goes on air (R150). -/
def breakStart (env : Env) (w : W) : W :=
  match w.ch.ctl.pendingBreak with
  | none => w
  | some pb =>
    if w.mode ≠ .takeover ∨ env.now < pb.b then w
    else
      let ctx := savedContext env pb.mode w.ch
      let w := w.modTrig fun t => { pending := [], held := t.pending }
      let w := leaveAir env (othersLeave env (playersLeave env w))
      let w := w.modCtl fun c => { c with ctx := some ctx, expiry := pb.duration.map fun d => pb.b + (d : Frame) }
      let w := nextBreak env (playerRoll env pb.player (w.modSeq fun q => { q with landing := none }))
      let w := w.modCtl fun c => { c with pendingBreak := none, mode := .breakIn }
      let w := w.record env .breakStart ctx.event (w.ch.passAt ctx.event ctx.offset) ctx.offset (playerSource pb.player)
        (.mode pb.mode) none
      settle env (syncLife (w.modeNotice env .takeover .breakIn .brk none))

/-- A resume is begun: the anchor, the new timeline, the held triggers and the join for r (R154). -/
def beginResume (env : Env) (cause : ResumeCause) (mode : ResumeMode) (r : Frame) (w : W) : W :=
  match w.ch.ctl.ctx with
  | none => w
  | some s =>
    let w := w.modCtl fun c => { c with resume := some { cause := cause, mode := mode, r := r } }
    let w := if s.event = 0 then w else w.modStore fun t =>
      { t with anchor := some { event := s.event, offset := s.offset,
                                frame := match mode with | .whereLeft => r | .onTime => s.b } }
    pump env (joinSettled env .resume r (judgeHeld env r (settle env w)))

/-- RESUME on a channel (R153). -/
def resumeOn (mode : Option ResumeReq) (env : Env) (w : W) : W × Answer :=
  match mode with
  | none => refuse .malformed w
  | some m => match w.mode, w.ch.ctl.ctx, w.ch.ctl.resume with
    | .breakIn, some s, none =>
      let used : ResumeMode := match m with
        | .whereLeft => .whereLeft
        | .onTime => .onTime
        | .preset => s.mode
      let r := env.now + env.cp.lead
      let w := beginResume env .resume used r w
      (w, .ok, .resume (env.at r) used w.ch.ctl.handed)
    | _, _, _ => refuse .wrongMode w

/-- A break-in with a duration begins its resume at e − (preroll lead + cue margin) (R153). -/
def breakExpiry (env : Env) (w : W) : W :=
  match w.mode, w.ch.ctl.expiry, w.ch.ctl.resume, w.ch.ctl.ctx with
  | .breakIn, some e, none, some s =>
    if e - (env.cp.lead + env.cp.margin) ≤ env.now then beginResume env .expiry s.mode e w else w
  | _, _, _, _ => w

/-- A break-in clip that never went on air has its cue cancelled, where its STOP has not taken effect at this boundary (R108, R154). -/
def dropBreakClip (env : Env) (w : W) : W :=
  match w.ch.seq.breakClip with
  | some i =>
    let holds (p : PlayerId) : Bool :=
      decide ((w.player p).state = .cueing ∨ (w.player p).state = .cued) || (w.player p).cueQueued
    (if i.player.all holds then cancelItem env i w else w.dropOwner i).modSeq fun q => { q with breakClip := none }
  | none => w

/-- At r the break-in ends and the landing goes on air (R155). A break-in item whose player was sent no STOP leaves the air all
the same (log entry 95). -/
def breakEnd (env : Env) (w : W) : W :=
  match w.mode, w.ch.ctl.resume with
  | .breakIn, some x =>
    if env.now < x.r then w
    else
      let w := dropBreakClip env (leaveAir env (othersLeave env (playersLeave env w)))
      let w := w.modCtl fun c => { c with ctx := none, resume := none, expiry := none, mode := .takeover }
      let w := landingRecord env .breakEnd (.breakEnd x.cause x.mode) w
      let w := landOnAir env w
      settle env (syncLife (w.modeNotice env .breakIn .takeover .resume none))
  | _, _ => w

/-! ## Channel reset (R180, R198) -/

/-- The CHANNEL_RESET record's event, pass, offset and source (R180). The offset of the ABSENT fill of a break-in clip, which is of
no event, is counted from the fill's start (log entry 78). The item of a BLANK event has pass 0, however many passes its offset counts
across (log entry 83). -/
def resetPoint (env : Env) (c : Chan) : Nat × Nat × Int × AsRunSource :=
  if drMode c.ctl.mode then
    match c.seq.onAir with
    | none => (0, 0, 0, .fill)
    | some o =>
      if o.item.ofEvent then (o.item.event, o.item.pass, c.offsetAt o.item env.now, o.item.source)
      else if o.item.kind = .brk then (0, 0, 0, .brk)
      else if o.item.kind = .fill .wait ∧ o.item.forEvent ≠ 0 then
        (o.item.forEvent, o.item.forPass,
          c.offsetAt { o.item with event := o.item.forEvent, pass := o.item.forPass } env.now, .fill)
      else (0, 0, 0, .fill)
  else if c.ctl.mode = .joining ∧ (c.ctl.switch.any fun s => s.force) then (0, 0, 0, .fill)
  else (0, 0, 0, .main)

/-- Step 1: the players are stopped, their queued CUEs and QUERYs removed, and every item ended (R125). -/
def resetPlayers (env : Env) (w : W) : W :=
  let quiet (p : PlayerId) (w : W) : W := w.modPlayer p fun x =>
    { x with queue := x.queue.filter fun y => !y.2.isQuery, lateRun := 0 }
  let w := stopHolder env (env.now + 2) .b (stopHolder env (env.now + 2) .a w)
  (quiet .b (quiet .a (endContext w))).modSeq fun q => { q with sweep := none }

/-- Step 3: the Channel Controller (R147). -/
def resetControl (env : Env) (w : W) : W :=
  let before := w.mode
  let told := decide (before ≠ .mirror) || w.ch.ctl.switch.isSome
  let w := w.modCtl fun _ => Ctl.reset
  if told then w.modeNotice env before .mirror .reset none else w

/-- Step 4: the Schedule Store; a running digest scan is answered ABORTED (R40, R42). The DIGEST_CHECK's code is 3. -/
def resetStore (w : W) : W :=
  let w := match w.ch.store.scan with
    | some x => w.emit (.reply x.addr .main 3 x.tag x.channel .aborted .none)
    | none => w
  w.modStore fun _ => { current := [], refresh := none, orphan := none, anchor := none, scan := none }

/-- Step 5: the Mirror Engine (R62, R63, R64). -/
def resetMirror (env : Env) (w : W) : W :=
  let before := w.ch.mirror.state
  let w := w.modCh fun c => { c with mirror := { state := .empty, lastSeq := 0, timer := 0 } }
  let w := w.notice env .main (.refreshNeeded .reset .empty 0 (env.at env.now))
  if before = .empty then w else w.notice env .loc (.mirror before .empty .reset 0 none env.now)

/-- Step 6: the Feed Monitor (R94, R100). Its notice lists the runs that stood before the reset, and the counts after it (log
entry 51). -/
def resetMonitor (env : Env) (w : W) : W :=
  let before := w.ch.mon.state
  let runs := reachedRuns env.cp.attrs w.ch.mon.attrs
  let n : Notice := .monitor before .starting true runs 0 0 (env.at env.now)
  let w := w.modMon fun _ => Monitor.reset
  if before = .starting then w else w.notice env .loc n

/-- Steps 2 and 7: the trigger lists, the intake and the output (R82, R163, R178). -/
def resetRest (w : W) : W :=
  (w.modCh fun c => { c with intake := Intake.reset, trig := { pending := [], held := [] } }).modOut fun o =>
    { o with held := none, holdRun := 0, cues := [], window := { o.window with enabled := false, phase := 0 } }

/-- A channel reset, in the order of R198. -/
def resetChannelOn (env : Env) (w : W) : W :=
  let x := resetPoint env w.ch
  let mode := w.mode
  let w := resetMonitor env (resetMirror env (resetStore (resetControl env (resetPlayers env w))))
  (resetRest w).record env .channelReset x.1 x.2.1 x.2.2.1 x.2.2.2 (.chMode mode) none

end Sys2Proof.Machine
end

