-- ==== Sys2Proof/Machine/Monitor.lean ====
section
/-! DEFINITION. The Feed Monitor (chapter 5): the conditions of a period, the counts and advisories, the state tests,
and what the Channel Controller does with a change (R94). -/

namespace Sys2Proof.Machine

open Sys2Proof

/-! ## Conditions (R85, R86) -/

/-- A condition that a boolean decides. -/
def condOf (b : Bool) : Cond := if b then .holds else .lacks

/-- DIVERGENCE: the stamp names an event outside the CURRENT generation, or an offset at or beyond its effective
length (R86). -/
def divergence (l : List Event) (s : PosStamp) : Bool :=
  match lookupId s.event l with
  | some e => decide (effLen e ≤ s.offset)
  | none => true

/-- The luma mean of R78. -/
def lumaMean (s : Sums) : Nat := if s.lumaCount = 0 then 0 else s.lumaSum / s.lumaCount

/-- The condition of an attribute in a period; `bad` is the bad-frame report (R85). -/
def condition (env : Env) (c : Chan) (bad : Bool) (i : Nat) : Cond :=
  match c.intake.takeMain with
  | none => match i with
    | 0 => .holds
    | 1 => .held
    | 2 => .held
    | 3 => .held
    | 4 => .lacks
    | 5 => .held
    | 6 => condOf env.expired
    | _ => condOf bad
  | some f => match i with
    | 0 => .lacks
    | 1 => condOf (decide (lumaMean f.sums < env.part.blackLevel))
    | 2 => condOf (decide (c.mon.prevSig = some f.sums.signature))
    | 3 => condOf (decide (f.sums.peak < env.part.silenceLevel))
    | 4 => condOf f.hdr.stamp.isNone
    | 5 => match f.hdr.stamp with
      | some s => condOf (divergence c.store.current s)
      | none => .held
    | 6 => condOf env.expired
    | _ => condOf bad

/-! ## Counts and advisories (R87, R88) -/

/-- Every record's counts are brought up to date, then the previous signature and the last measurements follow the
frame taken (R86, R87, R98). -/
def countPeriod (env : Env) (bad : Bool) (w : W) : W :=
  let c := w.ch
  w.modMon fun m =>
    { m with
      attrs := Vector.ofFn fun i : Fin 8 => m.attrs[i].update (condition env c bad i.val)
      prevSig := match c.intake.takeMain with | some f => some f.sums.signature | none => m.prevSig
      last := match c.intake.takeMain with
        | some f => some { luma := lumaMean f.sums, signature := f.sums.signature, peak := f.sums.peak, stamp := f.hdr.stamp }
        | none => m.last }

/-- An ADVISORY notice for attribute `i` (R88). -/
def advisoryNotice (env : Env) (i : Fin 8) (raised : Bool) (w : W) : W :=
  let p := env.cp.attrs[i]
  let a := w.ch.mon.attrs[i]
  w.notice env .loc (.advisory i.val raised p.cls p.threshold a.run a.total a.worst (env.at env.now))

/-- Set an advisory flag. -/
def setFlag (i : Fin 8) (b : Bool) (w : W) : W :=
  w.modMon fun m => { m with attrs := m.attrs.set i { m.attrs[i] with flag := b } }

/-- The attribute is held in this period: it can be judged neither way (R85), so its flag neither rises nor falls (R88). -/
def heldNow (env : Env) (i : Fin 8) (w : W) : Bool := decide (condition env w.ch false i.val = .held)

/-- The flag of attribute `i` is raised when R88 says so. -/
def advisoryRaise (env : Env) (i : Fin 8) (w : W) : W :=
  if heldNow env i w = false ∧ Attr.raises env.cp.attrs[i] w.ch.mon.attrs[i] then advisoryNotice env i true (setFlag i true w) else w

/-- The flag of attribute `i` is cleared when R88 says so. -/
def advisoryClear (env : Env) (i : Fin 8) (w : W) : W :=
  if heldNow env i w = false ∧ Attr.clears env.cp.attrs[i] w.ch.mon.attrs[i] then advisoryNotice env i false (setFlag i false w) else w

/-! ## The state tests (R90 to R94) -/

/-- The Channel Controller takes a monitor change (R94): a change out of HEALTHY may cancel a handback (R144), a
change into FAILED may take the channel over (R132) or turn its join into a failure join (R133). -/
def monitorChanged (env : Env) (before after : MonState) (w : W) : W :=
  let w := w.modCtl fun c => { c with monitor := after }
  match w.mode with
  | .returning =>
    if before = .healthy ∧ after ≠ .healthy ∧ (w.ch.ctl.switch.any fun s => !s.force) then cancelHandback env .byMonitor w
    else w
  | .mirror => if after = .failed ∧ env.cp.policy = .auto then autoTakeover env w else w
  | .joining => if after = .failed then failureJoin env w else w
  | _ => w

/-- A change of the monitor state: its notice, then the Channel Controller (R94). -/
def changeMon (env : Env) (after : MonState) (w : W) : W :=
  let before := w.ch.mon.state
  let w := w.modMon fun m => { m with state := after }
  let n : Notice := .monitor before after false (reachedRuns env.cp.attrs w.ch.mon.attrs) w.ch.mon.holdoff
    w.ch.mon.healthy (env.at env.now)
  monitorChanged env before after (w.notice env .loc n)

/-- Some DECISIVE run has reached its threshold. -/
def W.reached (env : Env) (w : W) : Bool := anyReached env.cp.attrs w.ch.mon.attrs

/-- The period shows a decisive condition. -/
def W.shows (env : Env) (w : W) : Bool := anyShows env.cp.attrs w.ch.mon.attrs

/-- Into FAILED: from SUSPECT when the holdoff count has reached the holdoff, from RECOVERING when a DECISIVE run
has reached its threshold (R91, R92). -/
def monitorFailed (env : Env) (w : W) : W :=
  if w.reached env ∧ (w.ch.mon.state = .recovering ∨ (w.ch.mon.state = .suspect ∧ env.cp.holdoff ≤ w.ch.mon.holdoff))
  then changeMon env .failed w else w

/-- Into SUSPECT, and on to FAILED when the holdoff is 0 (R91). -/
def monitorSuspect (env : Env) (w : W) : W :=
  if w.ch.mon.state = .healthy ∧ w.reached env then
    let w := changeMon env .suspect (w.modMon fun m => { m with holdoff := 0 })
    monitorFailed env w
  else w

/-- Into HEALTHY from RECOVERING, when the healthy count has reached the healthy run (R92). -/
def monitorHealthy (env : Env) (w : W) : W :=
  if w.ch.mon.state = .recovering ∧ w.reached env = false ∧ w.shows env = false ∧ env.cp.healthyRun ≤ w.ch.mon.healthy
  then changeMon env .healthy w else w

/-- The tests of one evaluation (R90 to R92). -/
def stateTests (env : Env) (w : W) : W :=
  match w.ch.mon.state with
  | .starting => if w.ch.intake.takeMain.isSome then monitorSuspect env (changeMon env .healthy w) else w
  | .healthy => monitorSuspect env w
  | .suspect =>
    if w.reached env = false then changeMon env .healthy w
    else monitorFailed env (w.modMon fun m => { m with holdoff := min 1000 (m.holdoff + 1) })
  | .failed =>
    if w.shows env then w
    else monitorHealthy env (changeMon env .recovering (w.modMon fun m => { m with healthy := 1 }))
  | .recovering =>
    if w.reached env then monitorFailed env w
    else if w.shows env then w.modMon fun m => { m with healthy := 0 }
    else monitorHealthy env (w.modMon fun m => { m with healthy := sat16 m.healthy })

/-- The evaluation of a period (R84); the ADVISORY notices stand in the order of the attribute numbers (log entry 52). -/
def evaluate (env : Env) (bad : Bool) (w : W) : W :=
  let w := countPeriod env bad w
  let w := (List.finRange 8).foldl (fun w i => advisoryClear env i (advisoryRaise env i w)) w
  stateTests env w

end Sys2Proof.Machine
end

