-- ==== Sys2Proof/Machine/Intake.lean ====
section
/-! DEFINITION. Link ports, classification and Frame Intake (chapter 4): the checks of R65 and R66, assemblies
(R72 to R75), the takes (R76, R77), and what removes a source's frames (R68, R71). -/

namespace Sys2Proof.Machine

open Sys2Proof

/-! ## Sources -/

/-- The three sources of a channel. -/
inductive SrcId
  | main
  | a
  | b
deriving DecidableEq, Repr

/-- A source of a channel. -/
def Intake.source (i : Intake) : SrcId → Source
  | .main => i.main
  | .a => i.a
  | .b => i.b

/-- Change a source. -/
def Intake.modSource (i : Intake) (k : SrcId) (f : Source → Source) : Intake :=
  match k with
  | .main => { i with main := f i.main }
  | .a => { i with a := f i.a }
  | .b => { i with b := f i.b }

/-- Change a source of a channel. -/
def State.modSource (s : State) (c : Ch) (k : SrcId) (f : Source → Source) : State :=
  s.setCh c { s.chans[c] with intake := s.chans[c].intake.modSource k f }

/-- The source a role feeds (R66). -/
def roleSource : Role → Option SrcId
  | .mainReturn => some .main
  | .playerA => some .a
  | .playerB => some .b
  | _ => none

/-- An open assembly is discarded and counted incomplete (R73). -/
def Source.discard (x : Source) : Source :=
  match x.asm with
  | some _ => { x with asm := none, incomplete := sat32 x.incomplete }
  | none => x

/-- A source loses its assembly, counted, and its FIFO (R71). -/
def Source.clearFeed (x : Source) : Source := { x.discard with fifo := [] }

/-- A packet is counted stray (R73). -/
def Source.countStray (x : Source) : Source := { x with stray := sat32 x.stray }

/-- A complete frame joins the FIFO; the oldest is pushed out of a full one (R75). -/
def Source.push (f : EssFrame) (x : Source) : Source :=
  if x.fifo.length < Config.fifoSize then { x with fifo := x.fifo ++ [f] }
  else { x with fifo := x.fifo.drop 1 ++ [f], pushedOut := sat32 x.pushedOut }

/-- Sums of a frame with no samples. -/
def Sums.zero : Sums := { lumaSum := 0, lumaCount := 0, signature := 0, peak := 0 }

/-- A FRAME_HEADER opens an assembly; with a packet count of 0, or too short to be read, it is counted stray and
opens none (R72; log entry 11). -/
def Source.header (h : Option FrameHdr) (x : Source) : Source :=
  match h with
  | some hdr =>
    if hdr.count = 0 then x.discard.countStray
    else { x.discard with asm := some { hdr := hdr, units := [], picture := Picture.black, audio := [], sums := Sums.zero } }
  | none => x.discard.countStray

/-- The sound of an assembly: its AUDIO packets' samples in unit-index order (R74). -/
def Assembly.sound (a : Assembly) : List (BitVec 24) := a.audio.flatMap fun u => u.2

/-- The assembly with a unit received is complete when all n units have arrived (R73). -/
def Source.received (a : Assembly) (x : Source) : Source :=
  if a.units.length = a.hdr.count then
    ({ x with asm := none, completed := sat32 x.completed }).push
      { hdr := a.hdr, picture := a.picture, sound := a.sound, sums := a.sums }
  else { x with asm := some a }

/-- A unit is new to an assembly (R73). -/
def Assembly.takes (a : Assembly) (index : Nat) : Bool := decide (index < a.hdr.count) && !a.units.contains index

/-- One sample at a place of the picture: stored and measured when it lies inside (R74, R78). -/
def Assembly.sample (line pos : Nat) (v : BitVec 10) (a : Assembly) : Assembly :=
  if line < 1080 ∧ pos < 3840 then
    { a with
      picture := a.picture.write (picKey line pos) v
      sums := { a.sums with
                signature := (a.sums.signature + v.toNat) % two32
                lumaSum := if pos % 2 = 1 then a.sums.lumaSum + v.toNat else a.sums.lumaSum
                lumaCount := if pos % 2 = 1 then a.sums.lumaCount + 1 else a.sums.lumaCount } }
  else a

/-- A run of samples of a line (R74). -/
def Assembly.samples (line : Nat) : Nat → List (BitVec 10) → Assembly → Assembly
  | _, [], a => a
  | pos, v :: vs, a => samples line (pos + 1) vs (a.sample line pos v)

/-- A VIDEO packet joins the open assembly, or is counted stray (R73, R74). -/
def Source.video (p : Option VideoPkt) (x : Source) : Source :=
  match p, x.asm with
  | some v, some a =>
    if a.takes v.index then x.received { (a.samples v.line v.first v.samples) with units := v.index :: a.units }
    else x.countStray
  | _, _ => x.countStray

/-- The absolute value of a signed 24-bit sample (R78). -/
def absSample (v : BitVec 24) : Nat := v.toInt.natAbs

/-- An AUDIO packet joins the open assembly, or is counted stray (R73, R74). -/
def Source.audio (p : Option AudioPkt) (x : Source) : Source :=
  match p, x.asm with
  | some v, some a =>
    if a.takes v.index then
      x.received { a with
        units := v.index :: a.units
        audio := cellSet v.index v.samples a.audio
        sums := { a.sums with peak := v.samples.foldl (fun m y => max m (absSample y)) a.sums.peak } }
    else x.countStray
  | _, _ => x.countStray

/-! ## Takes (R76, R77) -/

/-- A count moved on by `n`, stopping at its maximum. -/
def satAdd (c n : Nat) : Nat := min (two32 - 1) (c + n)

/-- The MAIN take: the FIFO is trimmed to alignment depth + 1 frames and its oldest is taken (R76). -/
def mainTake (depth : Nat) (i : Intake) : Intake :=
  let excess := i.main.fifo.length - (depth + 1)
  let kept := i.main.fifo.drop excess
  let src := { i.main with dropped := satAdd i.main.dropped excess, fifo := kept.drop 1 }
  match kept with
  | f :: _ => { i with main := src, takeMain := some f, lastTaken := some (f.hdr.label, f.hdr.day) }
  | [] => { i with main := src, takeMain := none }

/-- The player take of period `n`: late frames are discarded, the oldest frame stamped n is taken, frames stamped
later stay (R77). -/
def playerTake (n : Nat) (x : Source) : Source × Option EssFrame :=
  let due := x.fifo.filter fun f => decide (f.hdr.hfn = some n)
  let later := x.fifo.filter fun f => match f.hdr.hfn with | some h => decide (n < h) | none => false
  let gone := x.fifo.length - later.length - (if due.isEmpty then 0 else 1)
  ({ x with fifo := later, dropped := satAdd x.dropped gone }, due.head?)

/-- The late-frame run of a player after its take (R77). -/
def lateRunAfter (pl : Player) (taken : Bool) : Player :=
  { pl with lateRun := if pl.state = .playing then (if taken then 0 else sat16 pl.lateRun) else 0 }

/-- The takes of a boundary (R76, R77), the anchor from a stamped MAIN frame in MIRROR or JOINING (R30), and the
late-frame runs. -/
def takes (env : Env) (w : W) : W :=
  let n := env.now.toNat
  let i := mainTake env.cp.alignDepth w.ch.intake
  let a := playerTake n i.a
  let b := playerTake n i.b
  let w := w.modCh fun c => { c with intake := { i with a := a.1, takeA := a.2, b := b.1, takeB := b.2 } }
  (w.modPlayer .a fun x => lateRunAfter x a.2.isSome).modPlayer .b fun x => lateRunAfter x b.2.isSome

/-- The stamp that sets the anchor this period (R30, R79). -/
def stampTaken (c : Chan) : Option PosStamp :=
  if c.ctl.mode = .mirror ∨ c.ctl.mode = .joining then c.intake.takeMain.bind (·.hdr.stamp) else none

/-- The stamp of the MAIN frame taken sets the anchor, and the timeline and the shadow follow (R30, R32, R121). -/
def anchorFromStamp (env : Env) (w : W) : W :=
  match stampTaken w.ch with
  | some s =>
    let w := w.modStore fun t => { t with anchor := some { event := s.event, offset := s.offset, frame := env.now } }
    realignCompare env (settle env w)
  | none => settle env w

/-! ## Ports (R65, R66, R68) -/

/-- A control packet's kind, or the essence types, as R66 routes them. -/
inductive PktKind
  | essence
  | request
  | reply
  | notice
deriving DecidableEq, Repr

/-- What a packet type and, for CONTROL, a kind name (R65, R200); none for another type. A CONTROL packet of
another kind is routed nowhere, as a NOTICE is. -/
def packetKind (type_ kind : Nat) : Option PktKind :=
  match type_ with
  | 0 => some .essence
  | 1 => some .essence
  | 2 => some .essence
  | 3 => match kind with
    | 0 => some .request
    | 1 => some .reply
    | _ => some .notice
  | _ => none

/-- What an arriving packet's type and kind bytes name (R65, R200). -/
def kindOf (e : Eth) : Option PktKind := packetKind (packetType e) (controlKind e)

/-- The port's unknown-tag count goes up (R65, R66). -/
def PortState.countUnknown (x : PortState) : PortState := { x with unknownTag := sat32 x.unknownTag }

/-- What the checks of R65 make of a frame. -/
inductive Checked
  | ignored
  | bad
  | oversize
  | unknown
  | entry (e : FlowEntry)
deriving DecidableEq, Repr

/-- The roles that take a packet kind (R66). -/
def routed : Role → PktKind → Bool
  | .mainReturn, .essence => true
  | .playerA, .essence => true
  | .playerB, .essence => true
  | .playerA, .reply => true
  | .playerB, .reply => true
  | .mainCtl, .request => true
  | .localCtl, .request => true
  | _, _ => false

/-- The checks of R65 in their order, then the lookup of R66. -/
def check (s : State) (e : Eth) : Checked :=
  if s.ports[e.port].up = false then .ignored
  else if e.fcsOk = false then .bad
  else if 9216 < e.length then .oversize
  else if e.etherType ≠ s.params.part.etherType then .ignored
  else match kindOf e with
    | none => .unknown
    | some k => match entryByTag s.flows (flowTag e) with
      | some x => if x.port = e.port ∧ routed x.role k then .entry x else .unknown
      | none => .unknown

/-- What a dropped frame counts (R65, R66). -/
def dropped (s : State) (e : Eth) : Checked → State
  | .ignored => s
  | .bad => s.modPort e.port fun x => { x with badFrame := sat32 x.badFrame, mark := true }
  | .oversize => s.modPort e.port fun x => { x with oversize := sat32 x.oversize }
  | .unknown => s.modPort e.port PortState.countUnknown
  | .entry _ => s

/-- A packet that passes goes to its source. -/
def toSource (s : State) (x : FlowEntry) (f : Source → Source) : State :=
  match x.channel, roleSource x.role with
  | some c, some k => s.modSource c k f
  | _, _ => s

/-- A frame arrives (R65, R66): it is dropped and counted, or handed on under its entry. A frame that passes with bytes
that spell another command than the one that brings it (`spelt` false; no packet can do so) changes nothing. -/
def arrives (s : State) (e : Eth) (spelt : Bool) (f : FlowEntry → State → State) : State :=
  match check s e with
  | .entry x => if spelt then f x s else s
  | other => dropped s e other

/-- An essence packet of type `t` arrives (R66, R200). -/
def essence (s : State) (e : Eth) (t : Nat) (f : Source → Source) : State :=
  arrives s e (decide (packetType e = t)) fun x s => toSource s x f

/-- The entries that feed sources through a port. -/
def fedBy (s : State) (p : Port) : List (Ch × SrcId) :=
  s.flows.filterMap fun x => if x.port = p then
    match x.channel, roleSource x.role with
    | some c, some k => some (c, k)
    | _, _ => none
  else none

/-- The report of R67 for a channel: the mark of the port of its MAIN_RETURN entry. -/
def badReport (s : State) (c : Ch) : Bool :=
  match entryByRole s.flows .mainReturn (some c) with
  | some e => s.ports[e.port].mark
  | none => false

end Sys2Proof.Machine
end

