-- ==== Sys2Proof/Machine/MirrorEngine.lean ====
section
/-! DEFINITION. The Mirror Engine (chapter 3): batches and their operations, refreshes and the commit, digest checks
and their scans, and the notices of R62 and R63. -/

namespace Sys2Proof.Machine

open Sys2Proof

/-! ## Notices (R62, R63) -/

/-- Change the mirror record. -/
def W.modMirror (f : Mirror → Mirror) (w : W) : W := w.modCh fun c => { c with mirror := f c.mirror }

/-- A REFRESH_NEEDED notice with the state after the change (R62). -/
def refreshNeeded (env : Env) (cause : NeedCause) (w : W) : W :=
  w.notice env .main (.refreshNeeded cause w.ch.mirror.state w.ch.mirror.lastSeq (env.at env.now))

/-- The opening sequence of the refresh record, when present. -/
def Store.opening (t : Store) : Option Nat := t.refresh.map (·.opening)

/-- A change of mirror state with its MIRROR notice (R63); a state that does not change sends one only for OPEN. -/
def setMirror (env : Env) (after : MirrorState) (cause : MirrorCause) (w : W) : W :=
  let before := w.ch.mirror.state
  let w := w.modMirror fun m => { m with state := after }
  if before = after ∧ cause ≠ .opened then w
  else w.notice env .loc (.mirror before after cause w.ch.mirror.lastSeq w.ch.store.opening env.now)

/-- The REFRESH generation is freed, the refresh record becomes absent and the timer stops, at 0 (R44, R49, R50, R57; log
entry 49). -/
def freeRefresh (w : W) : W :=
  (w.modStore fun t => { t with refresh := none }).modMirror fun m => { m with timer := 0 }

/-- A refresh or a copy is given up: a state and both notices (R44, R49, R50, R57, R58). -/
def giveUp (env : Env) (after : MirrorState) (cause : MirrorCause) (need : NeedCause) (w : W) : W :=
  refreshNeeded env need (setMirror env after cause (freeRefresh w))

/-! ## Free records -/

/-- The free event records of the pool, as a channel sees them (R19). -/
def freeRecords (env : Env) (c : Chan) : Nat := Config.poolSize - (env.others + c.store.held)

/-! ## Operations aimed at CURRENT (R46, R60, R61, R119) -/

/-- The pass of an ON_AIR event that is on air, or that a saved context interrupted: the one that holds the saved offset
at the duration that now applies (R60, R151, R154). -/
def Chan.airPass (c : Chan) (id duration : Nat) : Option Nat :=
  match c.ctl.ctx with
  | some s => if s.event = id then some (s.offset / (duration : Int)).toNat else none
  | none => match c.seq.onAir with
    | some o => if o.item.ofEvent ∧ o.item.event = id then some o.item.pass else none
    | none => none

/-- An item is of a later pass than the one on air; a continuation is not. -/
def Chan.laterPass (c : Chan) (duration : Nat) (i : Item) : Bool :=
  !i.contin && (c.airPass i.event duration).any fun p => decide (p < i.pass)

/-- An item's resolved start lies less than preroll lead ahead: its cue is too close to be redone (R60). -/
def Item.tooClose (env : Env) (i : Item) : Bool := decide (i.start - env.now < env.cp.lead)

/-- The items that players hold cued: the cued item, and the landing. -/
def Chan.cuedItems (c : Chan) : List Item :=
  (c.seq.cued.toList ++ (c.seq.landing.map (·.item)).toList).filter fun i => i.isPass && i.player.isSome

/-- The cued later pass of an event that is too close to be redone (R60). -/
def Chan.closePass (c : Chan) (env : Env) (id duration : Nat) : Option Item :=
  c.cuedItems.find? fun i => decide (i.event = id) && c.laterPass duration i && i.tooClose env

/-- The first pass that takes the held values: the pass after the one on air, or after a later pass already cued
too close to be redone (R60; log entry 35). -/
def heldFrom (env : Env) (c : Chan) (id duration : Nat) : Nat :=
  match c.closePass env id duration with
  | some i => i.pass + 1
  | none => match c.airPass id duration with
    | some p => p + 1
    | none => 0

/-- A later pass of the event cued too close to be redone stands, whatever values then hold (R60). -/
def pinClose (env : Env) (id duration : Nat) (w : W) : W :=
  let pin (i : Item) : Item :=
    if decide (i.event = id) && w.ch.laterPass duration i && i.tooClose env then { i with pinned := true } else i
  (w.modSeq fun q => { q with cued := q.cued.map pin }).modLanding pin

/-- The cued item's cue is cancelled where a test asks for it. -/
def cancelCued (env : Env) (test : Item → Bool) (w : W) : W :=
  match w.ch.seq.cued with
  | some i => if test i then (cancelItem env i w).modSeq fun q => { q with cued := none } else w
  | none => w

/-- An item as a changed timeline gives it: no cue of it was tried (R113). -/
def Item.anew (i : Item) : Item :=
  { i with attempts := 0, subTried := false, subShort := false, subNext := false, avoid := none }

/-- The items that wait uncued, at the preroll pointer or as the landing, are new items where a PUT or a commit replaced their
event (R113; log entry 81). -/
def forgetTries (test : Item → Bool) (w : W) : W :=
  let f (i : Item) : Item := if i.player.isNone && test i then i.anew else i
  (w.modSeq fun q => { q with preroll := q.preroll.map f }).modLanding f

/-- The landing's cue is cancelled where a test asks for it; the landing is cued again at once, as R114 cues it (log
entry 22). -/
def cancelLanding (env : Env) (test : Item → Bool) (w : W) : W :=
  match w.ch.seq.landing with
  | some l =>
    if l.item.isPass && l.item.player.isSome && test l.item then
      (cancelItem env l.item w).uncueLanding fun i => (i.released none).anew
    else w
  | none => w

/-- A cue of an event that a PUT or REMOVE touches is cancelled (R61); for the ON_AIR event the cue of a later pass,
when held values reach it in time (R60), and one that they do not reach in time stands. -/
def cancelTouched (env : Env) (id : Nat) (onAir held : Bool) (w : W) : W :=
  let duration := match w.ch.store.event id with | some e => e.duration | none => 0
  let w := if onAir then pinClose env id duration w else w
  let test (i : Item) : Bool := decide (i.event = id) &&
    (!onAir || (held && w.ch.laterPass duration i && !i.tooClose env))
  let w := cancelCued env test (cancelLanding env test w)
  w.modSeq fun q => { q with spent := q.spent.filter fun x => decide (x.event ≠ id) || onAir }

/-- The sweep's query is abandoned when an event inside its window changes (R119). -/
def sweepChange (env : Env) (before : Chan) (id : Nat) (changed : Bool) (w : W) : W :=
  let inside (c : Chan) : Bool := (c.sweepWindow env.now env.cp.sweepDepth).any fun e => decide (e.id = id)
  if changed ∧ (inside before ∨ inside w.ch) then abandonSweep w else w

/-- A change to the CURRENT generation reaches the timeline, the scan, the cues and the sweep (R46, R60, R61). A changed
trigger list of the item on air or cued is judged at once (log entry 70). -/
def currentChanged (env : Env) (before : Chan) (id : Nat) (onAir held changed : Bool) (w : W) : W :=
  let w := forgetTries (fun i => decide (i.event = id)) (w.modStore Store.scanChanged)
  let live := before.store.current.any fun e => decide (e.id = id) && decide (e.lifecycle ≠ .pending)
  let w := if live then cancelTouched env id onAir held w
    else w.modSeq fun q => { q with spent := q.spent.filter fun x => decide (x.event ≠ id) }
  let w := settle env w
  sweepChange env before id changed (if live then rejudge env w else w)

/-- A PUT aimed at the CURRENT generation (R24 to R28, R60, R61). -/
def putCurrent (env : Env) (p : Put) (w : W) : W × Status :=
  let c := w.ch
  let t := c.store
  match putOn env.rate env.timeSet env.cp.eventLimit (freeRecords env c) t.orphan (heldFrom env c p.id p.duration) p t.current with
  | .refused st => (w, st)
  | .applied st l old new =>
    let t' := { t with current := l }
    match new with
    | none => (w, st)
    | some e =>
      if tooLate { resCtx env c with anchor := none } env.cp.lead t t' old e then (w, .tooLate)
      else
        let onAir := match old with | some o => decide (o.lifecycle = .onAir) | none => false
        let changed := match old with | some o => !readinessKept o e || decide (e.readiness ≠ o.readiness) | none => true
        let w := w.modStore fun _ => t'
        (currentChanged env c p.id onAir e.held.isSome changed w, st)

/-- A REMOVE aimed at the CURRENT generation (R29, R61). -/
def removeCurrent (env : Env) (id : Nat) (w : W) : W × Status :=
  let c := w.ch
  let t := c.store
  match removeOn env.now env.cp.lead t.orphan true id t.current with
  | .refused st => (w, st)
  | .applied st l _ _ => (currentChanged env c id false false true (w.modStore fun _ => { t with current := l }), st)

/-- One operation aimed at CURRENT (R43, R46). -/
def opCurrent (env : Env) (op : BatchOp) (w : W) : W × Status :=
  match op with
  | .put p => putCurrent env p w
  | .remove id => removeCurrent env id w

/-! ## Operations aimed at REFRESH (R43, R46, R51) -/

/-- The digest pair after an operation replaced `old` by `new` (R38). -/
def Refresh.account (old new : Option Event) (r : Refresh) : Refresh :=
  { r with
    count := r.count + (if new.isSome then 1 else 0) - (if old.isSome then 1 else 0)
    sum := (r.sum + (match new with | some e => digestTerm e | none => 0) +
      (match old with | some e => two32 - digestTerm e | none => 0)) % two32 }

/-- One operation aimed at the REFRESH generation. -/
def opRefresh (env : Env) (op : BatchOp) (w : W) : W × Status :=
  match w.ch.store.refresh with
  | none => (w, .aborted)
  | some r =>
    let res := match op with
      | .put p => putOn env.rate env.timeSet env.cp.eventLimit (freeRecords env w.ch) w.ch.store.orphan 0 p r.events
      | .remove id => removeOn env.now env.cp.lead w.ch.store.orphan false id r.events
    match res with
    | .refused st => (w, st)
    | .applied st l old new =>
      (w.modStore fun t => { t with refresh := some ({ r with events := l }.account old new) }, st)

/-- A refusal that aborts the refresh (R50). -/
def poolRefusal (st : Status) : Bool := decide (st = .poolFull) || decide (st = .limitReached)

/-- The operations of a batch aimed at REFRESH, up to the one that aborts it; the rest are ABORTED (R50). The last
component says whether the refresh goes on. -/
def runRefreshOps (env : Env) : List BatchOp → W → W × List Status × Bool
  | [], w => (w, [], true)
  | op :: ops, w =>
    let r := opRefresh env op w
    if poolRefusal r.2 then (r.1, r.2 :: ops.map fun _ => Status.aborted, false)
    else
      let rest := runRefreshOps env ops r.1
      (rest.1, r.2 :: rest.2.1, rest.2.2)

/-- The operations of a batch aimed at CURRENT, each checked against what the ones before it left (R46). -/
def runCurrentOps (env : Env) : List BatchOp → W → W × List Status
  | [], w => (w, [])
  | op :: ops, w =>
    let r := opCurrent env op w
    let rest := runCurrentOps env ops r.1
    (rest.1, r.2 :: rest.2)

/-! ## MIRROR_BATCH (R44 to R47, R50) -/

/-- The body of a batch's reply (R45). -/
def batchReply (env : Env) (seq : Nat) (sts : List Status) (w : W) : ReplyBody :=
  .batch seq w.ch.mirror.state w.ch.mirror.lastSeq sts (freeRecords env w.ch)

/-- An accepted batch (R46, R50); where it resolves the event that the anchor names, the shadow starts in this period
(R120). -/
def acceptBatch (env : Env) (seq : Nat) (ops : List BatchOp) (w : W) : W × Answer :=
  let w := w.modMirror fun m => { m with lastSeq := seq }
  if w.ch.mirror.state = .syncing then
    let r := runRefreshOps env ops (w.modMirror fun m => { m with timer := 0 })
    if r.2.2 then (r.1, .ok, batchReply env seq r.2.1 r.1)
    else
      let w := giveUp env .gap .pool .pool r.1
      (w, .aborted, batchReply env seq r.2.1 w)
  else
    let r := runCurrentOps env ops w
    let w := pump env (shadowStart env r.1)
    (w, .ok, batchReply env seq r.2 w)

/-- A MIRROR_BATCH on a channel: the checks of R45, then the sequence test of R44 or the refusal of R47. -/
def mirrorBatchOn (seq : Nat) (bytes : List Byte) (env : Env) (w : W) : W × Answer :=
  match readOps bytes with
  | none => refuse .malformed w
  | some ops =>
    if ops.length = 0 ∨ 32 < ops.length then refuse .malformed w
    else match w.ch.mirror.state with
      | .empty => (refreshNeeded env .repeated w, .outOfSequence, batchReply env seq [] w)
      | .gap => (refreshNeeded env .repeated w, .outOfSequence, batchReply env seq [] w)
      | .diverged => (refreshNeeded env .repeated w, .outOfSequence, batchReply env seq [] w)
      | _ =>
        let n := w.ch.mirror.lastSeq
        if seq = (n + 1) % two16 then acceptBatch env seq ops w
        else if seq = n then
          let w := w.modMirror fun m => { m with timer := 0 }
          (w, .duplicate, batchReply env seq [] w)
        else
          let w := giveUp env .gap .sequence .sequence w
          (w, .outOfSequence, batchReply env seq [] w)

/-! ## Refreshes (R48, R49, R52 to R57) -/

/-- The body of a refresh request's reply (R48, R52, R53). -/
def refreshReply (env : Env) (pair : Option (Nat × Nat)) (w : W) : ReplyBody :=
  .refresh w.ch.mirror.state w.ch.mirror.lastSeq pair (freeRecords env w.ch)

/-- REFRESH_OPEN on a channel (R48). -/
def refreshOpenOn (seq : Nat) (env : Env) (w : W) : W × Answer :=
  let w := w.modStore fun t => { t with refresh := some { opening := seq, events := [], count := 0, sum := 0 } }
  let w := w.modMirror fun m => { m with lastSeq := seq, timer := 0 }
  let w := setMirror env .syncing .opened w
  (w, .ok, refreshReply env none w)

/-- A new record of the commit takes the old one's readiness where R37 lets it, its fields compared as they were sent (log entry 28
for an ON_AIR event), and its judged marks where their
trigger lists are equal (R158). -/
def inherit (old new : Event) : Event :=
  { new with
    readiness := if old.clip = new.clip ∧ old.subst = new.subst ∧ old.inPoint = new.inPoint ∧ old.duration = new.duration
                 then old.readiness else .unknown
    triggers := if sameTriggers old.triggers new.triggers then old.triggers else new.triggers }

/-- The record that takes over from an ON_AIR record: its four fields stay, the new ones are held (R54). Its readiness is inherited
as R37 states for a commit, by the fields as sent and not by the held back ones that R54 leaves as its own (log entry 28). -/
def takeOver (fromPass : Nat) (old new : Event) : Event :=
  { (replaceEvent fromPass old { new with readiness := .unknown }) with
    readiness := (inherit old new).readiness, res := old.res }

/-- One new record of the commit, from the old one with its id (R53, R54, R56). -/
def committed (env : Env) (c : Chan) (new : Event) : Event :=
  match lookupId new.id c.store.current with
  | none => new
  | some old =>
    if old.lifecycle = .onAir then takeOver (heldFrom env c new.id new.duration) old new
    else { inherit old new with lifecycle := old.lifecycle, res := old.res }

/-- The old ON_AIR record that the new generation leaves out becomes the orphan (R55). -/
def newOrphan (old : List Event) (new : List Event) (kept : Option Event) : Option Event :=
  match old.find? fun e => decide (e.lifecycle = .onAir) && (lookupId e.id new).isNone with
  | some e => some { e with lifecycle := .orphan }
  | none => kept

/-- The cue of an old record stands only when the new one agrees in the five fields of R56; the cue of a later pass
of a new orphan does not (R55). -/
def cueAgrees (c : Chan) (new : List Event) (i : Item) : Bool :=
  match lookupId i.event c.store.current, lookupId i.event new with
  | some o, some n =>
    decide (o.lifecycle = .onAir) || (decide (o.clip = n.clip) && decide (o.subst = n.subst) &&
      decide (o.inPoint = n.inPoint) && decide (o.action = n.action) && decide (o.duration = n.duration))
  | _, _ => false

/-- Every cued later pass of an ON_AIR event that is too close to be redone stands (R54, R60). -/
def pinCued (env : Env) (w : W) : W :=
  w.ch.cuedItems.foldl (fun w i => match lookupId i.event w.ch.store.current with
    | some n => if n.lifecycle = .onAir then pinClose env i.event n.duration w else w
    | none => w) w

/-- The cued item and the landing at a commit (R55, R56, R60); what a player airs already goes on. The cue of a re-join's landing in
the pass that an orphan airs is cancelled as any other cue of the orphan (log entry 97). -/
def commitCues (env : Env) (before : Chan) (new : List Event) (w : W) : W :=
  let redone (i : Item) : Bool := match lookupId i.event before.store.current, lookupId i.event w.ch.store.current with
    | some o, some n => decide (o.lifecycle = .onAir) && n.held.isSome && before.laterPass n.duration i && !i.tooClose env
    | _, _ => false
  let test (i : Item) : Bool := !cueAgrees before new i || redone i
  pinCued env (cancelCued env test (cancelLanding env (fun i => decide (w.ch.carrier ≠ i.player) && test i) w))

/-- The commit (R53 to R56). Its MIRROR notice has cause COMMIT also where it enters STALE (log entry 48), and the refresh
timer stands at 0 afterwards (log entry 49). A trigger list that it changed is judged at once, as after a PUT (log entry
70). -/
def commit (env : Env) (r : Refresh) (w : W) : W :=
  let c := w.ch
  let l := r.events.map (committed env c)
  let w := w.modStore fun t => { t with current := l, refresh := none, orphan := newOrphan t.current l t.orphan }
  let w := (w.modStore Store.scanChanged).modMirror fun m => { m with timer := 0 }
  let w := commitCues env c r.events (forgetTries (fun _ => true) (w.modSeq fun q => { q with spent := [] }))
  let w := setMirror env (if env.expired then .stale else .current) .commit w
  abandonSweep (rejudge env (settle env (syncLife w)))

/-- REFRESH_CLOSE on a channel (R52, R53, R57); where the commit resolves the event that the anchor names, the shadow starts
in this period (R120). -/
def refreshCloseOn (seq count sum : Nat) (env : Env) (w : W) : W × Answer :=
  let n := w.ch.mirror.lastSeq
  match w.ch.mirror.state with
  | .syncing =>
    match w.ch.store.refresh with
    | none => (w, .outOfSequence, refreshReply env none w)
    | some r =>
      if seq = (n + 1) % two16 then
        let w := w.modMirror fun m => { m with lastSeq := seq }
        if count = r.count ∧ sum = r.sum then
          let w := pump env (shadowStart env (commit env r w))
          (w, .ok, refreshReply env (some (r.count, r.sum)) w)
        else
          let w := giveUp env .diverged .closeMismatch .closeMismatch w
          (w, .mismatch, refreshReply env (some (r.count, r.sum)) w)
      else if seq = n then
        let w := w.modMirror fun m => { m with timer := 0 }
        (w, .duplicate, refreshReply env none w)
      else
        let w := giveUp env .gap .sequence .sequence w
        (w, .outOfSequence, refreshReply env none w)
  | .current =>
    if seq = n then (w, .duplicate, refreshReply env none w)
    else
      let w := giveUp env .gap .sequence .sequence w
      (w, .outOfSequence, refreshReply env none w)
  | .stale =>
    if seq = n then (w, .duplicate, refreshReply env none w)
    else
      let w := giveUp env .gap .sequence .sequence w
      (w, .outOfSequence, refreshReply env none w)
  | _ =>
    let w := refreshNeeded env .repeated w
    (w, .outOfSequence, refreshReply env none w)

/-- An open refresh whose timer has reached the mirror timeout is aborted (R49). -/
def refreshTimeout (env : Env) (w : W) : W :=
  if w.ch.store.refresh.isSome ∧ env.part.mirrorTimeout ≤ w.ch.mirror.timer then giveUp env .gap .timeout .timeout w
  else w

/-- The refresh timer of a boundary (R49). -/
def refreshTick (w : W) : W :=
  if w.ch.store.refresh.isSome then w.modMirror fun m => { m with timer := min (two16 - 1) (m.timer + 1) } else w

/-- A CURRENT mirror becomes STALE at site silence (R59). -/
def goStale (env : Env) (w : W) : W :=
  if w.ch.mirror.state = .current then setMirror env .stale .siteSilence w else w

/-- A STALE mirror becomes CURRENT at a site beat (R59). -/
def goCurrent (env : Env) (w : W) : W :=
  if w.ch.mirror.state = .stale then setMirror env .current .siteBeat w else w

/-! ## Digest checks (R39, R40, R58) -/

/-- The code of DIGEST_CHECK in the catalogue of R192. -/
def digestCheckCode : Nat := 3

/-- A scan with nothing left to visit ends: its reply, and the Mirror Engine's act on a mismatch (R39, R58). -/
def digestScanEnd (env : Env) (w : W) : W :=
  match w.ch.store.scan with
  | none => w
  | some x =>
    if (x.left w.ch.store.current).isEmpty = false then w
    else
      let same := decide (x.count = x.runCount ∧ x.sum = x.runSum)
      let w := w.modStore fun t => { t with scan := none }
      let w := w.emit (.reply x.addr .main digestCheckCode x.tag x.channel (if same then .ok else .mismatch)
        (.digest x.runCount x.runSum))
      if same then w
      else match w.ch.mirror.state with
        | .current => refreshNeeded env .digestMismatch (setMirror env .diverged .digestMismatch w)
        | .stale => refreshNeeded env .digestMismatch (setMirror env .diverged .digestMismatch w)
        | .syncing => w
        | _ => refreshNeeded env .digestMismatch w

/-- The visits of a period, and the end when nothing is left (R39). -/
def scanVisit (env : Env) (w : W) : W :=
  digestScanEnd env (w.modStore fun t => { t with scan := t.scan.map fun x => x.visit t.current })

/-- A boundary gives a scan its 64 visits (R39). -/
def scanTick (env : Env) (w : W) : W :=
  scanVisit env (w.modStore fun t => { t with scan := t.scan.map fun x => { x with budget := Config.scanPace } })

/-- DIGEST_CHECK on a channel: an older check is SUPERSEDED and the scan starts in this period (R39, R40). -/
def digestCheckOn (addr : Option (Port × Nat)) (tag channel key count sum : Nat) (env : Env) (w : W) : W :=
  let budget := match w.ch.store.scan with
    | some x => x.budget
    | none => Config.scanPace
  let w := match w.ch.store.scan with
    | some x => w.emit (.reply x.addr .main digestCheckCode x.tag x.channel .superseded .none)
    | none => w
  let x : Scan := { tag := tag, channel := channel, addr := addr, key := key, count := count, sum := sum, next := key,
                    runCount := 0, runSum := 0, budget := budget }
  scanVisit env (w.modStore fun t => { t with scan := some x })

end Sys2Proof.Machine
end

