-- ==== Sys2Proof/Machine/Output.lean ====
section
/-! DEFINITION. The Output Assembler (chapter 9): the source of a frame, holds and fill, the ident, the header, and
the graphic slots' pictures. -/

namespace Sys2Proof.Machine

open Sys2Proof

/-! ## Graphics over pictures (R167, R172) -/

/-- The video position and line of sample number `i` of a graphic whose top-left pixel stands at column `x`, line
`y`; none when it falls outside the picture (R172). -/
def graphicPlace (width x y i : Nat) : Option (Nat × Nat) :=
  let line := y + i / (2 * width)
  let pos := 2 * x + i % (2 * width)
  if line < 1080 ∧ pos < 3840 then some (line, pos) else none

/-- A graphic drawn over a picture: `mix g v` is the new sample from the graphic's and the video's. -/
def drawGraphic (g : Graphic) (x y : Nat) (mix : Nat → Nat → Nat) (p : Picture) : Picture :=
  (List.range (2 * g.width * g.height)).foldl (fun p i =>
    match graphicPlace g.width x y i with
    | some (line, pos) =>
      let k := picKey line pos
      p.write k (BitVec.ofNat 10 (mix (graphicSample g i) (p.read k).toNat))
    | none => p) p

/-- The blend of R172. -/
def blend (alpha g v : Nat) : Nat := (g * alpha + v * (16 - alpha) + 8) / 16

/-- The column and line of a slate (R167). -/
def slateAt (g : Graphic) : Nat × Nat :=
  let x := (1920 - g.width) / 2
  (x - x % 2, (1080 - g.height) / 2)

/-- The fill setting now gives a slate (R167). -/
def fillSlate (gs : Vector Graphic 16) (f : FillSetting) : Option Graphic :=
  match f with
  | .black => none
  | .slate s => if gs[s].state = .ready then some gs[s] else none

/-- The picture of the channel's fill (R167). -/
def fillPicture (gs : Vector Graphic 16) (f : FillSetting) : Picture :=
  match fillSlate gs f with
  | some g => drawGraphic g (slateAt g).1 (slateAt g).2 (fun s _ => s) Picture.black
  | none => Picture.black

/-! ## The source (R164, R165) -/

/-- The source of a frame before holds are met. -/
inductive Base
  | main (f : EssFrame)
  | player (p : PlayerId) (f : EssFrame)
  | hold
  | fill
deriving DecidableEq, Repr

/-- A player's take of the period. -/
def Intake.take (i : Intake) : PlayerId → Option EssFrame
  | .a => i.takeA
  | .b => i.takeB

/-- The MAIN frame, or HOLD when the period is MISSING (R164). -/
def mainBase (c : Chan) : Base :=
  match c.intake.takeMain with
  | some f => .main f
  | none => .hold

/-- The on-air item's source (R165). -/
def airBase (c : Chan) : Base :=
  match c.seq.onAir with
  | none => .fill
  | some o => match o.item.kind with
    | .fill _ => .fill
    | _ =>
      if o.fillMark then .fill
      else match o.item.player with
        | some p => match c.intake.take p with
          | some f => .player p f
          | none => .hold
        | none => .hold

/-- The pending switch has its force flag set. -/
def Chan.forced (c : Chan) : Bool := c.ctl.switch.any fun s => s.force

/-- The source that the channel mode selects (R164). -/
def baseOf (c : Chan) : Base :=
  match c.ctl.mode with
  | .mirror => mainBase c
  | .joining => if c.forced then .hold else mainBase c
  | _ => airBase c

/-! ## Holds and fill (R166, R167) -/

/-- A frame as it stands before the ident: source code, picture, sound, and whether the picture comes from the main
return. -/
structure Made where
  source : OutSource
  picture : Picture
  sound : List (BitVec 24)
  ofMain : Bool
deriving DecidableEq, Repr

/-- `n` samples of silence. -/
def silence (n : Nat) : List (BitVec 24) := List.replicate n 0#24

/-- The sound sample count of the held frame, or 0 (R167). -/
def heldSamples (o : Out) : Nat := match o.held with | some h => h.samples | none => 0

/-- A fill frame (R167). -/
def fillMade (gs : Vector Graphic 16) (f : FillSetting) (o : Out) : Made :=
  { source := .fill, picture := fillPicture gs f, sound := silence (heldSamples o), ofMain := false }

/-- The output source code of a player. -/
def playerOut : PlayerId → OutSource
  | .a => .a
  | .b => .b

/-- A frame that becomes the held frame, with the hold run at 0 (R166). -/
def keep (m : Made) (o : Out) : Made × Out :=
  (m, { o with holdRun := 0, held := some { picture := m.picture, samples := m.sound.length,
                                            origin := if m.ofMain then .main else .standby } })

/-- A period whose source is HOLD (R166). -/
def holdMade (gs : Vector Graphic 16) (f : FillSetting) (limit : Nat) (o : Out) : Made × Out :=
  match o.held with
  | none => (fillMade gs f o, { o with holdRun := sat16 o.holdRun })
  | some h =>
    if o.holdRun < limit then
      ({ source := .hold, picture := h.picture, sound := silence h.samples, ofMain := decide (h.origin = .main) },
        { o with holdRun := sat16 o.holdRun })
    else (fillMade gs f o, o)

/-- The frame of the period before the ident, and the held frame and hold run after it (R165 to R167). -/
def makeFrame (gs : Vector Graphic 16) (f : FillSetting) (limit : Nat) (b : Base) (o : Out) : Made × Out :=
  match b with
  | .main x => keep { source := .main, picture := x.picture, sound := x.sound, ofMain := true } o
  | .player p x => keep { source := playerOut p, picture := x.picture, sound := x.sound, ofMain := false } o
  | .fill => keep (fillMade gs f o) o
  | .hold => holdMade gs f limit o

/-! ## The ident (R171 to R173) -/

/-- The blink shows the window in the frame of this phase (R173). -/
def Window.shown (x : Window) : Bool := decide (x.blink = 0) || decide (x.phase < x.blink)

/-- The phase of the frame after (R173). -/
def Window.advance (x : Window) : Window :=
  { x with phase := if x.enabled = false ∨ x.blink = 0 then 0 else (x.phase + 1) % (2 * x.blink) }

/-- The slot of the window, when it names one. -/
def slotOf (gs : Vector Graphic 16) (n : Nat) : Option Graphic := if h : n < 16 then some gs[n] else none

/-- The graphic drawn over a frame, when the three conditions of R172 hold and the picture is not the main return's. -/
def identFor (gs : Vector Graphic 16) (x : Window) (ofMain : Bool) : Option Graphic :=
  match slotOf gs x.slot with
  | some g => if x.enabled ∧ g.state = .ready ∧ x.shown ∧ ofMain = false then some g else none
  | none => none

/-! ## The header (R168, R169) -/

/-- The stamp of an item of an event: its id, the offset on the timeline, and its pass (R169). -/
def eventStamp (c : Chan) (now : Frame) (event : Nat) (pass : Option Nat) (i : Item) : Option PosStamp :=
  if event = 0 then none
  else
    let off := c.offsetAt { i with event := event } now
    some { event := event, offset := off.toNat, pass := pass.getD (c.passAt event off) }

/-- The position stamp of a frame (R169); absent where nothing is on air (log entry 54). -/
def stampOf (c : Chan) (now : Frame) (b : Base) : Option PosStamp :=
  match c.ctl.mode with
  | .mirror => match b with | .main f => f.hdr.stamp | _ => none
  | .joining => match b with | .main f => f.hdr.stamp | _ => none
  | _ => match c.seq.onAir with
    | none => none
    | some o => match o.item.kind with
      | .pass => eventStamp c now o.item.event (some o.item.pass) o.item
      | .fill .wait => eventStamp c now o.item.forEvent none { o.item with pass := o.item.forPass }
      | .fill _ => if o.item.carriesFill then eventStamp c now o.item.event none o.item else none
      | .brk => none

/-- The standby flag (R168). -/
def standbyFlag (c : Chan) : Bool := drMode c.ctl.mode || (decide (c.ctl.mode = .joining) && c.forced)

/-- The packets that follow the header: 1,080 of VIDEO and one of AUDIO for each 1,920 samples or part (R80). -/
def packetCount (samples : Nat) : Nat := 1080 + (samples + 1919) / 1920

/-! ## Building (R164) -/

/-- The output frame of the period and the Output Assembler after it (R164 to R173). -/
def buildOut (gs : Vector Graphic 16) (env : Env) (c : Chan) : OutFrame × Out :=
  let base := baseOf c
  let made := makeFrame gs env.cp.fill env.cp.freezeLimit base c.out
  let m := made.1
  let o := made.2
  let ident := identFor gs o.window m.ofMain
  let picture := match ident with
    | some g => drawGraphic g o.window.x o.window.y (blend o.window.alpha) m.picture
    | none => m.picture
  let now := env.at env.now
  ({ count := packetCount m.sound.length, label := now.label, day := now.day, hfn := env.now.toNat,
     counter := o.counter, source := m.source, standby := standbyFlag c, stamp := stampOf c env.now base,
     cues := o.cues, picture := picture, sound := m.sound },
   { o with counter := (o.counter + 1) % two32, last := m.source, cues := [], window := o.window.advance,
            lastIdent := ident.isSome, lastCues := o.cues.length })

/-- A channel's output frame is built, and sent on its OUTPUT entry (R80, R164). -/
def buildFrame (c : Ch) (s : State) : State :=
  let r := buildOut s.graphics (envOf s c) s.chans[c]
  (s.setCh c { s.chans[c] with out := r.2 }).transmit
    ((entryByRole s.flows .output (some c)).map fun e => (e.port, e.tag)) (.frame c r.1)

end Sys2Proof.Machine
end

