-- ==== Sys2Proof/Machine/Params.lean ====
section
/-! DEFINITION. The parameter table (chapter 11): every parameter's place, range, value in force and setting, and
the checks of a retained image (R196). A value is a number: the value itself, or its place in the list of the table
(log entry 10). -/

namespace Sys2Proof.Machine

open Sys2Proof

/-! ## Values that are names -/

/-- The entry of a list at a number. -/
def pick {α : Type} (l : List α) (d : α) (n : Nat) : α := (l[n]?).getD d

/-- The rate codes in the order of the table. -/
def rateCodes : List RateCode := [.f25, .f2997, .f50, .f5994]

/-- The place of a rate code. -/
def rateNum : RateCode → Nat
  | .f25 => 0
  | .f2997 => 1
  | .f50 => 2
  | .f5994 => 3

/-- The place of an attribute class. -/
def classNum : AttrClass → Nat
  | .off => 0
  | .advisory => 1
  | .decisive => 2

/-- BLACK 0; SLATE with slot s is 1 + s (log entry 10). -/
def fillNum : FillSetting → Nat
  | .black => 0
  | .slate s => 1 + s.val

/-- The fill setting of a number. -/
def fillOf (n : Nat) : FillSetting := if n = 0 then .black else .slate (Fin.ofNat 16 (n - 1))

/-! ## Part-wide parameters -/

/-- The value in force. -/
def PartParams.get (x : PartParams) : PartParam → Nat
  | .rateCode => rateNum x.rate
  | .etherType => x.etherType
  | .siteBeatTimeout => x.siteBeatTimeout
  | .mirrorTimeout => x.mirrorTimeout
  | .blackLevel => x.blackLevel
  | .silenceLevel => x.silenceLevel
  | .replyTimeout => x.replyTimeout
  | .probeInterval => x.probeInterval
  | .batchSize => x.batchSize
  | .flushInterval => x.flushInterval
  | .retireGrace => x.retireGrace

/-- The parameter set to a value. -/
def PartParams.put (x : PartParams) (v : Nat) : PartParam → PartParams
  | .rateCode => { x with rate := pick rateCodes .f25 v }
  | .etherType => { x with etherType := v }
  | .siteBeatTimeout => { x with siteBeatTimeout := v }
  | .mirrorTimeout => { x with mirrorTimeout := v }
  | .blackLevel => { x with blackLevel := v }
  | .silenceLevel => { x with silenceLevel := v }
  | .replyTimeout => { x with replyTimeout := v }
  | .probeInterval => { x with probeInterval := v }
  | .batchSize => { x with batchSize := v }
  | .flushInterval => { x with flushInterval := v }
  | .retireGrace => { x with retireGrace := v }

/-- A value lies in a range of the table. -/
def within (lo hi v : Nat) : Bool := decide (lo ≤ v) && decide (v ≤ hi)

/-- The ranges of the table. -/
def PartParam.admits : PartParam → Nat → Bool
  | .rateCode => within 0 3
  | .etherType => within 0x0600 0xFFFF
  | .siteBeatTimeout => within 1 65535
  | .mirrorTimeout => within 1 65535
  | .blackLevel => within 64 255
  | .silenceLevel => within 0 8388608
  | .replyTimeout => within 1 255
  | .probeInterval => within 1 255
  | .batchSize => fun v => [0, 1, 2, 4, 8, 16].contains v
  | .flushInterval => within 1 1000
  | .retireGrace => within 0 65535

/-- Every part-wide parameter. -/
def PartParam.all : List PartParam :=
  [.rateCode, .etherType, .siteBeatTimeout, .mirrorTimeout, .blackLevel, .silenceLevel, .replyTimeout, .probeInterval,
   .batchSize, .flushInterval, .retireGrace]

/-! ## Per-channel parameters -/

/-- An attribute's parameters, by number. -/
def attrAt (as : Vector AttrParam 8) (n : Nat) : AttrParam := if h : n < 8 then as[n] else { cls := .off, threshold := 1 }

/-- The attribute parameters with one attribute changed. -/
def attrPut (as : Vector AttrParam 8) (n : Nat) (f : AttrParam → AttrParam) : Vector AttrParam 8 :=
  if h : n < 8 then as.set n (f as[n]) else as

/-- The value in force. -/
def ChanParams.get (x : ChanParams) : ChanParam → Nat
  | .policy => if x.policy = .auto then 0 else 1
  | .standby => if x.standby = .cold then 0 else 1
  | .permission => if x.permission then 1 else 0
  | .prerollLead => x.lead
  | .cueMargin => x.margin
  | .holdoff => x.holdoff
  | .healthyRun => x.healthyRun
  | .freezeLimit => x.freezeLimit
  | .fill => fillNum x.fill
  | .eventLimit => x.eventLimit
  | .sweepDepth => x.sweepDepth
  | .alignDepth => x.alignDepth
  | .realignTolerance => x.realignTolerance
  | .realignPersistence => x.realignPersistence
  | .stallLimit => x.stallLimit
  | .resumeMode => if x.resumeMode = .whereLeft then 0 else 1
  | .attrClass n => classNum (attrAt x.attrs n).cls
  | .attrThreshold n => (attrAt x.attrs n).threshold

/-- The parameter set to a value. -/
def ChanParams.put (x : ChanParams) (v : Nat) : ChanParam → ChanParams
  | .policy => { x with policy := pick [.auto, .manual] .auto v }
  | .standby => { x with standby := pick [.cold, .hot] .cold v }
  | .permission => { x with permission := decide (v = 1) }
  | .prerollLead => { x with lead := v }
  | .cueMargin => { x with margin := v }
  | .holdoff => { x with holdoff := v }
  | .healthyRun => { x with healthyRun := v }
  | .freezeLimit => { x with freezeLimit := v }
  | .fill => { x with fill := fillOf v }
  | .eventLimit => { x with eventLimit := v }
  | .sweepDepth => { x with sweepDepth := v }
  | .alignDepth => { x with alignDepth := v }
  | .realignTolerance => { x with realignTolerance := v }
  | .realignPersistence => { x with realignPersistence := v }
  | .stallLimit => { x with stallLimit := v }
  | .resumeMode => { x with resumeMode := pick [.whereLeft, .onTime] .onTime v }
  | .attrClass n => { x with attrs := attrPut x.attrs n fun a => { a with cls := pick [.off, .advisory, .decisive] .off v } }
  | .attrThreshold n => { x with attrs := attrPut x.attrs n fun a => { a with threshold := v } }

/-- The ranges of the table. -/
def ChanParam.admits : ChanParam → Nat → Bool
  | .policy => within 0 1
  | .standby => within 0 1
  | .permission => within 0 1
  | .prerollLead => within 3 250
  | .cueMargin => within 0 250
  | .holdoff => within 0 1000
  | .healthyRun => within 1 65535
  | .freezeLimit => within 0 65535
  | .fill => within 0 16
  | .eventLimit => within 16 4096
  | .sweepDepth => within 0 256
  | .alignDepth => within 1 3
  | .realignTolerance => within 0 25
  | .realignPersistence => within 1 255
  | .stallLimit => within 1 255
  | .resumeMode => within 0 1
  | .attrClass _ => within 0 2
  | .attrThreshold _ => within 1 65535

/-- Every per-channel parameter, attribute by attribute. -/
def ChanParam.all : List ChanParam :=
  [.policy, .standby, .permission, .prerollLead, .cueMargin, .holdoff, .healthyRun, .freezeLimit, .fill, .eventLimit,
   .sweepDepth, .alignDepth, .realignTolerance, .realignPersistence, .stallLimit, .resumeMode] ++
  (List.range 8).map ChanParam.attrClass ++ (List.range 8).map ChanParam.attrThreshold

/-- An attribute number above 7 (check 1 of R193). -/
def ChanParam.badAttr : ChanParam → Bool
  | .attrClass n => decide (7 < n)
  | .attrThreshold n => decide (7 < n)
  | _ => false

/-! ## The retained image (R195, R196) -/

/-- Every value of a parameter set lies in its range. -/
def Params.inRange (p : Params) : Bool :=
  (PartParam.all.all fun x => PartParam.admits x (p.part.get x)) &&
    p.chans.toList.all fun c => ChanParam.all.all fun x => ChanParam.admits x (c.get x)

/-- The uniqueness of R69: tags, and each role with its channel. -/
def flowsUnique (l : List FlowEntry) : Bool :=
  decide (l.map (·.tag)).Nodup && decide (l.map fun e => (e.role, e.channel)).Nodup

/-- Every entry is of the form of R69. -/
def flowFormed (e : FlowEntry) : Bool :=
  decide (0 < e.tag) && decide (e.tag < two16) && (roleHasChannel e.role == e.channel.isSome)

/-- A loadable entry of the trigger table holds a code 6 to 255 and an action of R156 within its ranges. -/
def loadable (x : Nat × TrigAction) : Bool :=
  within 6 255 x.1 && (match x.2 with
    | .outputCue p adv => within 1 16 p.length && decide (adv ≤ 250)
    | .ident slot _ => decide (slot ≤ 15)
    | .notify => true
    | _ => false)

/-- The contents of an image are valid (R196). -/
def Config.valid (c : Config) : Bool :=
  c.params.inRange && flowsUnique c.flows && c.flows.all flowFormed && decide (c.flows.length ≤ Config.flowEntries) &&
    c.flows.any (fun e => decide (e.role = .localCtl)) && c.table.all loadable && cellsRise c.table

/-! ### The image's words (R195)

The spec gives the image a format mark, words of 32 bits and a checksum word, and no layout; the one below is the model's
(log entry 13). -/

/-- The words of a parameter set: each part-wide parameter, then each channel's, in the table's order. -/
def paramWords (p : Params) : List Nat :=
  PartParam.all.map p.part.get ++ p.chans.toList.flatMap fun c => ChanParam.all.map c.get

/-- The place of a role in the list of R69. -/
def roleCode : Role → Nat
  | .mainReturn => 0
  | .playerA => 1
  | .playerB => 2
  | .output => 3
  | .mainCtl => 4
  | .localCtl => 5

/-- The words of a flow entry: its tag, port, role, and channel, 15 for none. -/
def flowWords (e : FlowEntry) : List Nat :=
  [e.tag, e.port.val, roleCode e.role, match e.channel with | some c => c.val | none => 15]

/-- The words of a loadable action. -/
def actionWords : TrigAction → List Nat
  | .outputCue p adv => [1, adv, p.length] ++ p.map (·.toNat)
  | .ident slot on => [2, slot, if on then 1 else 0]
  | .notify => [3]
  | _ => [0]

/-- The image's words before its checksum: a format mark, the parameters, the flow entries and the trigger entries, each
list with its length. -/
def imageWords (c : Config) : List Nat :=
  [0x4B323038] ++ paramWords c.params ++ [c.flows.length] ++ c.flows.flatMap flowWords ++ [c.table.length] ++
    c.table.flatMap fun x => x.1 :: actionWords x.2

/-- The checksum of R195: the sum, mod 2^32, of the image's 32-bit words before it. -/
def imageSum (c : Config) : Nat := ((imageWords c).map (· % two32)).sum % two32

/-- The image reads back with a good checksum (R195, R196). -/
def Image.readsBack : Image → Bool
  | .blank => false
  | .bad => false
  | .stored c sum => decide (sum = imageSum c)

/-- The configuration that an image gives, with its source (R196). -/
def Image.load : Image → Config × CfgSource
  | .blank => (Config.default, .defaulted .blank)
  | .bad => (Config.default, .defaulted .checksum)
  | .stored c sum =>
    if (Image.stored c sum).readsBack = false then (Config.default, .defaulted .checksum)
    else if c.valid then (c, .image) else (Config.default, .defaulted .content)

end Sys2Proof.Machine
end

