-- ==== Sys2Proof/Machine/Requests.lean ====
section
/-! DEFINITION. Taking a request (R190 to R192): its turn in its flow's queue, the checks before its own, and the
reply on the tag and port its flow had when it was taken (R80). -/

namespace Sys2Proof.Machine

open Sys2Proof

/-- The request codes: places in the catalogue of R192 (R200). -/
def reqCode : ReqBody → Nat
  | .mirrorBatch _ _ => 0
  | .refreshOpen _ => 1
  | .refreshClose _ _ _ => 2
  | .digestCheck _ _ _ => 3
  | .siteBeat _ _ => 4
  | .handover _ _ => 5
  | .handbackAsk _ => 6
  | .setParam _ _ => 7
  | .getParam _ => 8
  | .flowLoad _ _ _ _ => 9
  | .flowClear _ => 10
  | .triggerLoad _ _ => 11
  | .triggerClear _ => 12
  | .graphicBegin _ _ _ => 13
  | .graphicSegment _ _ _ => 14
  | .graphicEnd _ => 15
  | .windowSet _ _ _ _ _ _ => 16
  | .takeover _ _ => 17
  | .handback _ _ => 18
  | .breakIn _ _ _ _ => 19
  | .resume _ => 20
  | .queryChannel => 21
  | .queryEvents _ _ => 22
  | .queryMonitor => 23
  | .clearCounters => 24
  | .logRead _ _ => 25
  | .logFlush => 26
  | .saveConfig => 27
  | .timeSet _ _ => 28
  | .resetPart => 29
  | .resetChannel _ => 29
  | .partStatus => 30
  | .unknown code => code

/-- The code names a request of the catalogue (R190). -/
def ReqBody.known : ReqBody → Bool
  | .unknown _ => false
  | _ => true

/-- The flow that may make a request: MAIN_CTL for the first seven of the catalogue, LOCAL_CTL for the others (R192). -/
def reqFlow (b : ReqBody) : CtlFlow := if reqCode b ≤ 6 then .main else .loc

/-- The first of the checks of R190 that fails, before the request's own. -/
def headCheck (f : CtlFlow) (h : Head) (b : ReqBody) : Option Status :=
  if h.present < h.bodyLen ∨ ReqBody.known b = false then some .malformed
  else if reqFlow b ≠ f then some .notPermitted
  else none

/-- An inbound queue (R191). -/
def State.inbound (s : State) : CtlFlow → List Request
  | .main => s.inMain
  | .loc => s.inLocal

/-- Set an inbound queue. -/
def State.setInbound (s : State) (q : List Request) : CtlFlow → State
  | .main => { s with inMain := q }
  | .loc => { s with inLocal := q }

/-- A request leaves its queue as it is taken; with another request in front it is not its turn. With nothing
waiting the request is taken as it arrives (R191; log entry 8). -/
def State.popRequest (s : State) (f : CtlFlow) (r : Request) : Option State :=
  match s.inbound f with
  | [] => some s
  | x :: rest => if x = r then some (s.setInbound rest f) else none

/-- The reply carries the request's code, tag and channel field (R190). -/
def State.reply (s : State) (addr : Option (Port × Nat)) (f : CtlFlow) (h : Head) (b : ReqBody) (a : Answer) : State :=
  s.transmit addr (.reply f (reqCode b) h.tag h.channel a.1 a.2)

/-- A request is taken: the checks of R190, then `act` with the address its reply goes to. -/
def takeRequest (f : CtlFlow) (h : Head) (b : ReqBody) (act : Option (Port × Nat) → State → State) (s : State) : State :=
  if s.powered = false then s
  else match s.popRequest f { head := h, body := b } with
    | none => s
    | some s =>
      let addr := s.ctlAddr f
      match headCheck f h b with
      | some st => s.reply addr f h b (st, .none)
      | none => act addr s

/-- An act that ends with its reply. -/
def answered (f : CtlFlow) (h : Head) (b : ReqBody) (op : State → State × Answer) (addr : Option (Port × Nat))
    (s : State) : State :=
  let r := op s
  r.1.reply addr f h b r.2

/-- A request's operation on one channel, with its answer. -/
def askCh (c : Ch) (op : Env → W → W × Answer) (s : State) : State × Answer :=
  let r := op (envOf s c) { ch := s.chans[c], fx := [] }
  (r.1.fx.foldl (applyEffect c) (s.setCh c r.1.ch), r.2)

/-- A request on the channel its header names; another value is refused BAD_CHANNEL. -/
def onChannel (h : Head) (op : Env → W → W × Answer) (s : State) : State × Answer :=
  match chanOf h.channel with
  | none => (s, .badChannel, .none)
  | some c => askCh c op s

/-- A refusal of a request that is no channel's. -/
def deny (st : Status) (s : State) : State × Answer := (s, st, .none)

end Sys2Proof.Machine
end

