-- ==== Sys2Proof/Machine/ControlUnit.lean ====
section
/-! DEFINITION. The Control Unit (chapter 11) and the requests it answers itself: parameters, the flow and trigger
tables, graphics and windows, the time, the log, the image and the resets. -/

namespace Sys2Proof.Machine

open Sys2Proof

/-- An operation of one channel as a step of the part. -/
def State.withCh (s : State) (c : Ch) (f : Chan → Chan) : State := s.setCh c (f s.chans[c])

/-- Every channel changed. -/
def State.mapChans (s : State) (f : Chan → Chan) : State := { s with chans := s.chans.map f }

/-- Every channel is in MIRROR. -/
def State.allMirror (s : State) : Bool := s.chans.toList.all fun c => decide (c.ctl.mode = .mirror)

/-! ## Notices that wait (R64, R196) -/

/-- A REFRESH_NEEDED notice with cause RESET (R64). -/
def resetNotice (env : Env) (w : W) : W := refreshNeeded env .reset w

/-- The eight reset notices are made at the first moment at which they can be sent (R64). -/
def releaseReset (s : State) : State :=
  if s.resetNotices ∧ s.mainUp then runAll resetNotice { s with resetNotices := false } else s

/-- The CONFIG DEFAULTED notice (R196). Beside the outcome and the reason it carries the present HFN (log entry 85). -/
def defaultedNotice (s : State) : State :=
  match s.source with
  | .defaulted why => s.notice .loc 15 (.config (.defaulted why) none (some s.time.hfn))
  | .image => s

/-- The CONFIG DEFAULTED notice is made once the LOCAL_CTL port is UP (R196). -/
def releaseDefaulted (s : State) : State :=
  if s.defaultedNotice ∧ s.localUp then defaultedNotice { s with defaultedNotice := false } else s

/-! ## SET_PARAM (R193, R185, R89, R122) -/

/-- The channels a per-channel request names: one, or all eight with 15 (R193). -/
def chanTargets (n : Nat) : Option (List Ch) :=
  if n = 15 then some (List.finRange 8) else (chanOf n).map fun c => [c]

/-- Change a channel's parameters. -/
def State.modParams (s : State) (c : Ch) (f : ChanParams → ChanParams) : State :=
  { s with params := { s.params with chans := s.params.chans.set c (f s.params.chans[c]) } }

/-- A part-wide parameter is set; the batch size and the flush interval are followed by the test of R183 (R185). -/
def putPart (p : PartParam) (v : Nat) (s : State) : State :=
  let s := { s with params := { s.params with part := s.params.part.put v p } }
  if p = .batchSize ∨ p = .flushInterval then s.testAsRun else s

/-- A class changed from ADVISORY clears a raised flag, with its notice (R89). -/
def classChanged (n : Nat) (before : AttrClass) (env : Env) (w : W) : W :=
  if h : n < 8 then
    if before = .advisory ∧ (env.cp.attrs[n]).cls ≠ .advisory ∧ (w.ch.mon.attrs[n]).flag then
      advisoryNotice env ⟨n, h⟩ false (setFlag ⟨n, h⟩ false w)
    else w
  else w

/-- A changed preroll lead or cue margin reaches a waiting switch, an expiry and the cues not yet sent (R137, R153, R193). -/
def leadChanged (env : Env) (w : W) : W := pump env (breakExpiry env (joiningStart env w))

/-- A change of standby in MIRROR applies at once (R122, R145). -/
def standbyChanged (env : Env) (w : W) : W :=
  if env.cp.standby = .hot then pump env (shadowStart env w) else shadowEnd env w

/-- What a changed per-channel parameter does at once (R193). -/
def paramChanged (p : ChanParam) (before : ChanParams) (env : Env) (w : W) : W :=
  match p with
  | .prerollLead => leadChanged env w
  | .cueMargin => leadChanged env w
  | .standby => standbyChanged env w
  | .sweepDepth => pump env w
  | .attrClass n => classChanged n (attrAt before.attrs n).cls env w
  | _ => w

/-- A per-channel parameter is set on one channel. -/
def putChan (p : ChanParam) (v : Nat) (s : State) (c : Ch) : State :=
  let before := s.params.chans[c]
  runCh c (paramChanged p before) (s.modParams c fun x => x.put v p)

/-- The event limit is checked against both generations (R21). -/
def limitFits (v : Nat) (t : Store) : Bool :=
  decide (t.current.length ≤ v) && (t.refresh.all fun r => decide (r.events.length ≤ v))

/-- Check 4 of R193. -/
def ownCheck (p : ChanParam) (v : Nat) (s : State) (cs : List Ch) : Bool :=
  match p with
  | .eventLimit => cs.all fun c => limitFits v s.chans[c].store
  | _ => true

/-- The values in force of a per-channel parameter. A standby that R122 and R145 hold until the channel next enters MIRROR is reported at
once (log entry 84). -/
def chanValues (p : ChanParam) (s : State) (cs : List Ch) : List Nat := cs.map fun c => (s.params.chans[c]).get p

/-- SET_PARAM (R193). -/
def setParamOn (h : Head) (id : ParamId) (v : Nat) (s : State) : State × Answer :=
  match id with
  | .unknown => deny .malformed s
  | .trigger _ => deny .malformed s
  | .part p =>
    if h.channel ≠ 15 then deny .badChannel s
    else if PartParam.admits p v = false then
      deny .badValue (if p = .batchSize then { s with params := { s.params with part := s.params.part.put 0 .batchSize } } else s)
    else
      let s := putPart p v s
      (s, .ok, .values [s.params.part.get p])
  | .chan p =>
    if ChanParam.badAttr p then deny .malformed s
    else match chanTargets h.channel with
      | none => deny .badChannel s
      | some cs =>
        if ChanParam.admits p v = false ∨ ownCheck p v s cs = false then deny .badValue s
        else
          let s := cs.foldl (putChan p v) s
          (s, .ok, .values (chanValues p s cs))

/-- GET_PARAM (R194). -/
def getParamOn (h : Head) (id : ParamId) (s : State) : State × Answer :=
  match id with
  | .unknown => deny .malformed s
  | .trigger code => if 255 < code then deny .malformed s else (s, .ok, .trigger (trigAction s.table code))
  | .part p => if h.channel ≠ 15 then deny .badChannel s else (s, .ok, .values [s.params.part.get p])
  | .chan p =>
    if ChanParam.badAttr p then deny .malformed s
    else match chanTargets h.channel with
      | none => deny .badChannel s
      | some cs => (s, .ok, .values (chanValues p s cs))

/-! ## The flow table (R70, R71) -/

/-- A source loses its assembly and its FIFO (R71). -/
def clearFeedOf (s : State) (x : Ch × SrcId) : State := s.modSource x.1 x.2 Source.clearFeed

/-- The source an entry feeds. -/
def FlowEntry.feeds (e : FlowEntry) : Option (Ch × SrcId) :=
  match e.channel, roleSource e.role with
  | some c, some k => some (c, k)
  | _, _ => none

/-- The sources that lose what they hold when an entry is rewritten (R71). -/
def lostFeeds (old new : FlowEntry) : List (Ch × SrcId) :=
  if old.feeds = new.feeds ∧ old.port = new.port ∧ old.tag = new.tag then []
  else if old.feeds = new.feeds then old.feeds.toList
  else old.feeds.toList ++ new.feeds.toList

/-- The table with the entry of a tag rewritten. -/
def rewrite (tag : Nat) (e : FlowEntry) (l : List FlowEntry) : List FlowEntry :=
  l.map fun x => if x.tag = tag then e else x

/-- Another entry than that of `tag` holds a role and channel. -/
def roleTaken (fl : List FlowEntry) (tag : Option Nat) (r : Role) (c : Option Ch) : Bool :=
  fl.any fun e => decide (some e.tag ≠ tag) && decide (e.role = r) && decide (e.channel = c)

/-- An accepted FLOW_LOAD releases what waited for the entry (R64, R183). -/
def flowLoaded (r : Role) (s : State) : State :=
  match r with
  | .localCtl => s.testAsRun
  | .mainCtl => releaseReset s
  | _ => s

/-- The bootstrap entry moves (R70). -/
def loadBootstrap (tag : Nat) (p : Port) (s : State) : State × Answer :=
  if s.flows.any fun e => decide (e.tag = tag) && decide (e.role ≠ .localCtl) then deny .conflict s
  else
    let fl := s.flows.map fun e => if e.role = .localCtl then { e with tag := tag, port := p } else e
    (flowLoaded .localCtl { s with flows := fl }, .ok, .none)

/-- Checks 4 and 5 of R70 and the entry written. -/
def loadEntry (e : FlowEntry) (s : State) : State × Answer :=
  match entryByTag s.flows e.tag with
  | some old =>
    if old.role = .localCtl then deny .notPermitted s
    else if roleTaken s.flows (some e.tag) e.role e.channel then deny .conflict s
    else (flowLoaded e.role ((lostFeeds old e).foldl clearFeedOf { s with flows := rewrite e.tag e s.flows }), .ok, .none)
  | none =>
    if roleTaken s.flows none e.role e.channel then deny .conflict s
    else if Config.flowEntries ≤ s.flows.length then deny .limitReached s
    else (flowLoaded e.role { s with flows := s.flows ++ [e] }, .ok, .none)

/-- FLOW_LOAD (R70). -/
def flowLoadOn (tag port : Nat) (role : Option Role) (channel : Nat) (s : State) : State × Answer :=
  match portOf port, role with
  | some p, some r =>
    if tag = 0 ∨ two16 ≤ tag then deny .malformed s
    else if roleHasChannel r then
      match chanOf channel with
      | none => deny .badChannel s
      | some c => loadEntry { tag := tag, port := p, role := r, channel := some c } s
    else if r = .localCtl then loadBootstrap tag p s
    else loadEntry { tag := tag, port := p, role := r, channel := none } s
  | _, _ => deny .malformed s

/-- FLOW_CLEAR (R71). -/
def flowClearOn (tag : Nat) (s : State) : State × Answer :=
  match entryByTag s.flows tag with
  | none => deny .notFound s
  | some e =>
    if e.role = .localCtl then deny .notPermitted s
    else
      let s := { s with flows := s.flows.filter fun x => decide (x.tag ≠ tag) }
      (e.feeds.toList.foldl clearFeedOf s, .ok, .none)

/-! ## The trigger table (R157) -/

/-- Check 2 of R157; a code above 255 has no place in the table. -/
def actionBad (code : Nat) : LoadAction → Bool
  | .outputCue p _ => decide (p.length = 0) || decide (16 < p.length) || decide (255 < code)
  | .ident _ on => on.isNone || decide (255 < code)
  | .notify => decide (255 < code)
  | .other => true

/-- Check 3 of R157. -/
def actionRange : LoadAction → Bool
  | .outputCue _ adv => decide (adv ≤ 250)
  | .ident slot _ => decide (slot ≤ 15)
  | .notify => true
  | .other => false

/-- TRIGGER_LOAD (R157). -/
def triggerLoadOn (code : Nat) (a : LoadAction) (s : State) : State × Answer :=
  if code ≤ 5 then deny .notPermitted s
  else if actionBad code a then deny .malformed s
  else if actionRange a = false then deny .badValue s
  else match loadedAction a with
    | none => deny .malformed s
    | some x => ({ s with table := cellSet code x s.table }, .ok, .none)

/-- TRIGGER_CLEAR (R157). -/
def triggerClearOn (code : Nat) (s : State) : State × Answer :=
  if code ≤ 5 then deny .notPermitted s
  else match cellAt code s.table with
    | none => deny .notFound s
    | some _ => ({ s with table := cellDrop code s.table }, .ok, .none)

/-! ## Graphics (R174 to R176) and windows (R171) -/

/-- A graphic slot's number. -/
def gslot (n : Nat) : Option (Fin 16) := if h : n < 16 then some ⟨n, h⟩ else none

/-- An enabled window or a fill setting of a channel names the slot (R174). -/
def slotBusy (s : State) (n : Nat) : Bool :=
  (List.finRange 8).any fun c =>
    let x := (s.chans[c]).out.window
    (x.enabled && decide (x.slot = n)) ||
      (match (s.params.chans[c]).fill with | .slate k => decide (k.val = n) | .black => false)

/-- Check 1 of R174 on the size. -/
def sizeOk (w h : Nat) : Bool := decide (w % 2 = 0) && within 2 1920 w && within 1 1080 h

/-- GRAPHIC_BEGIN (R174). -/
def graphicBeginOn (slot w h : Nat) (s : State) : State × Answer :=
  match gslot slot with
  | none => deny .badValue s
  | some k =>
    if sizeOk w h = false then deny .badValue s
    else if slotBusy s slot then deny .slotBusy s
    else
      let g : Graphic := { state := .loading, width := w, height := h, expected := w * h * 4, bytes := [] }
      ({ s with graphics := s.graphics.set k g }, .ok, .none)

/-- GRAPHIC_SEGMENT (R175). -/
def graphicSegmentOn (slot offset : Nat) (data : List Byte) (s : State) : State × Answer :=
  match gslot slot with
  | none => deny .badValue s
  | some k =>
    let g := s.graphics[k]
    if data.length = 0 ∨ 8192 < data.length then deny .malformed s
    else if g.state ≠ .loading then deny .wrongMode s
    else if g.expected < offset + data.length then deny .badValue s
    else
      let b := storeBytes offset data g.bytes
      ({ s with graphics := s.graphics.set k { g with bytes := b } }, .ok, .received b.length)

/-- GRAPHIC_END (R175, R176). -/
def graphicEndOn (slot : Nat) (s : State) : State × Answer :=
  match gslot slot with
  | none => deny .badValue s
  | some k =>
    let g := s.graphics[k]
    if g.state ≠ .loading then deny .wrongMode s
    else
      let g : Graphic := if g.bytes.length = g.expected then { g with state := .ready, bytes := clampSamples g.bytes }
                         else { g with state := .incomplete }
      ({ s with graphics := s.graphics.set k g }, .ok, .graphicEnd g.state g.expected g.bytes.length)

/-- Check 2 of R171. -/
def windowOk (slot x y : Nat) : Bool := decide (slot ≤ 15) && decide (x % 2 = 0) && decide (x ≤ 1918) && decide (y ≤ 1079)

/-- WINDOW_SET on a channel (R171). -/
def windowSetOn (enabled : Bool) (slot x y alpha blink : Nat) (_env : Env) (w : W) : W × Answer :=
  if windowOk slot x y = false then refuse .badValue w
  else
    (w.modWindow fun _ => { enabled := enabled, slot := slot, x := x, y := y, alpha := min 16 alpha, blink := blink, phase := 0 },
      if 16 < alpha then .adjusted else .ok, .none)

/-! ## Queries (R41, R81, R98, R124, R146, R162, R177, R199) -/

/-- A source as QUERY_CHANNEL reports it (R81). -/
def Source.report (x : Source) : SourceReport :=
  { frames := x.fifo.length, openAsm := x.asm.isSome, completed := x.completed, incomplete := x.incomplete,
    pushedOut := x.pushedOut, dropped := x.dropped, stray := x.stray }

/-- The on-air context as it is reported (R114, R124, R130): the landing until its target, with no frame of it aired, and
else the item on air; with the frames into it and its remaining passes (R103). -/
def Chan.airReport (c : Chan) (now : Frame) : Option Item × Nat × Nat :=
  match c.seq.landing, c.landingWaits now, c.seq.onAir with
  | some l, true, _ => (some l.item, 0, remainingPasses c l.item)
  | _, _, some o => (some o.item, o.framesIn, o.remaining)
  | _, _, none => (none, 0, 0)

/-- The cued item as it is reported (R124): a landing whose target has come while its player is CUEING or CUED, or else the
cued item. Both may stand (log entry 92). -/
def Chan.cuedReport (c : Chan) (now : Frame) : Option Item :=
  let late (l : Landing) : Bool := decide (l.target ≤ now) && l.item.player.any fun p =>
    decide ((c.seq.player p).state = .cueing ∨ (c.seq.player p).state = .cued)
  match c.seq.landing.filter late with
  | some l => some l.item
  | none => c.seq.cued

/-- The reply of QUERY_CHANNEL (R192). Its standby is the value last set, also while R145 holds the change (log entry 84). -/
def channelReport (gs : Vector Graphic 16) (env : Env) (c : Chan) : ChannelReport :=
  { mirror := c.mirror.state, lastSeq := c.mirror.lastSeq, refresh := c.store.opening, refreshTimer := c.mirror.timer,
    refreshPair := c.store.refresh.map fun r => (r.count, r.sum),
    main := c.intake.main.report, srcA := c.intake.a.report, srcB := c.intake.b.report, lastTaken := c.intake.lastTaken,
    active := c.active, shadow := c.seq.shadow, context := (c.airReport env.now).1, framesIn := (c.airReport env.now).2.1,
    remaining := (c.airReport env.now).2.2,
    preroll := c.seq.preroll, cued := c.cuedReport env.now, playerA := c.seq.a, playerB := c.seq.b,
    sweepWindow := (c.sweepWindow env.now env.cp.sweepDepth).length, sweep := c.seq.sweep, realign := c.seq.realign,
    mode := c.ctl.mode, switch := c.ctl.switch.map env.switchReport, handed := c.ctl.handed, stacked := c.ctl.ctx.isSome,
    policy := env.cp.policy, standby := env.cp.standby, permission := env.cp.permission, monitor := c.ctl.monitor,
    pendingBreak := c.ctl.pendingBreak, saved := c.ctl.ctx, resume := c.ctl.resume, triggers := c.trig.pending,
    heldTriggers := c.trig.held.length,
    fillMark := match c.seq.onAir with | some o => o.fillMark | none => false,
    outCounter := c.out.counter, lastSource := c.out.last, holdRun := c.out.holdRun, freezeLimit := env.cp.freezeLimit,
    heldOrigin := c.out.held.map (·.origin), fill := env.cp.fill, fillIsSlate := (fillSlate gs env.cp.fill).isSome,
    window := c.out.window, lastIdent := c.out.lastIdent, lastCues := c.out.lastCues }

/-- QUERY_CHANNEL. -/
def queryChannelOn (h : Head) (s : State) : State × Answer :=
  match chanOf h.channel with
  | none => deny .badChannel s
  | some c => (s, .ok, .channel (channelReport s.graphics (envOf s c) s.chans[c]))

/-- An event as QUERY_EVENTS returns it (R41). -/
def eventReport (rc : RateCode) (e : Event) : EventReport :=
  { event := e, start := e.fixed.map fun f => whenOf rc f,
    resolved := e.res.map fun r => (whenOf rc r.origin, whenOf rc r.start, whenOf rc r.stop) }

/-- The events of a QUERY_EVENTS reply: up to `count` of CURRENT from `key` on, with the orphan at its place when its
key lies in the range returned (R41). Where no CURRENT event follows those returned, the range has no upper end (log
entry 47). -/
def eventsFrom (key count : Nat) (t : Store) : List Event :=
  let after := t.current.filter fun e => decide (key ≤ e.key)
  let l := after.take count
  match t.orphan with
  | none => l
  | some o =>
    let upTo := if after.length ≤ count then true else (l.getLast?).any fun e => decide (o.key ≤ e.key)
    if key ≤ o.key ∧ upTo then insertByKey o l else l

/-- The reply of QUERY_EVENTS (R41). -/
def eventsReport (key count free : Nat) (rc : RateCode) (t : Store) : EventsReport :=
  { currentCount := t.current.length, refreshCount := t.refresh.map fun r => r.events.length,
    orphan := t.orphan.map (·.id), anchor := t.anchor.map fun a => (a.event, a.offset, whenOf rc a.frame),
    free := free, scanning := t.scan.isSome, events := (eventsFrom key count t).map (eventReport rc) }

/-- QUERY_EVENTS (R41). -/
def queryEventsOn (h : Head) (key count : Nat) (s : State) : State × Answer :=
  match chanOf h.channel with
  | none => deny .badChannel s
  | some c =>
    if within 1 16 count = false then deny .badValue s
    else (s, .ok, .events (eventsReport key count s.free s.time.rate s.chans[c].store))

/-- The reply of QUERY_MONITOR for one channel (R98). -/
def monitorReport (s : State) (c : Ch) : MonitorReport :=
  let m := s.chans[c].mon
  let p := s.params.chans[c]
  { state := m.state, holdoff := m.holdoff, healthy := m.healthy, holdoffParam := p.holdoff,
    healthyRunParam := p.healthyRun, params := p.attrs, attrs := m.attrs, last := m.last,
    blackLevel := s.params.part.blackLevel, silenceLevel := s.params.part.silenceLevel, beat := s.beat, expired := s.expired }

/-- QUERY_MONITOR (R98). -/
def queryMonitorOn (h : Head) (s : State) : State × Answer :=
  if h.channel = 15 then
    (s, .ok, .monitors (s.chans.toList.map fun c => (c.mon.state, c.mon.attrs.toList.map (·.flag))) s.beat s.expired)
  else match chanOf h.channel with
    | none => deny .badChannel s
    | some c => (s, .ok, .monitor (monitorReport s c))

/-- The reply of PART_STATUS (R199). With an empty ring there is no newest record number (log entry 79). -/
def partReport (s : State) : PartReport :=
  { now := s.now, timeState := s.time.timeState, refState := s.time.refState, slips := s.time.slips,
    slipRun := s.time.slipRun, rate := s.time.rate, configuredRate := s.params.part.rate, ports := s.ports,
    graphics := s.graphics.toList.map fun g => (g.state, g.width, g.height, g.expected, g.bytes.length),
    source := s.source, writing := s.save.map (·.tag), lastSave := s.lastSave, waitingMain := s.inMain.length,
    waitingLocal := s.inLocal.length, nextMain := s.nextMain, nextLocal := s.nextLocal, free := s.free,
    channels := s.chans.toList.map fun c => (c.ctl.mode, c.mon.state, c.mirror.state),
    newest := s.log.ring.getLast?.map (·.number), cursor := s.log.cursor, unreported := s.log.unreported,
    overrun := s.log.overrun }

/-- PART_STATUS (R199). -/
def partStatusOn (s : State) : State × Answer := (s, .ok, .part (partReport s))

/-! ## CLEAR_COUNTERS (R12, R81, R99) -/

/-- A source's five counts at 0 (R81). -/
def Source.clearCounts (x : Source) : Source :=
  { x with completed := 0, incomplete := 0, pushedOut := 0, dropped := 0, stray := 0 }

/-- A channel's counts (R81, R99). -/
def Chan.clearCounts (c : Chan) : Chan :=
  { c with
    intake := { c.intake with main := c.intake.main.clearCounts, a := c.intake.a.clearCounts, b := c.intake.b.clearCounts }
    mon := { c.mon with attrs := c.mon.attrs.map fun a => { a with total := 0, worst := 0 } } }

/-- A port's counts (R81); the mark is no counter. -/
def PortState.clearCounts (p : PortState) : PortState := { p with unknownTag := 0, badFrame := 0, oversize := 0, overflow := 0 }

/-- CLEAR_COUNTERS. -/
def clearCountersOn (h : Head) (s : State) : State × Answer :=
  if h.channel = 15 then
    let s := s.mapChans Chan.clearCounts
    ({ s with ports := s.ports.map PortState.clearCounts, time := { s.time with slips := 0 } }, .ok, .none)
  else match chanOf h.channel with
    | none => deny .badChannel s
    | some c => (s.withCh c Chan.clearCounts, .ok, .none)

/-! ## The As-Run Log (R186, R187) -/

/-- LOG_READ (R186). -/
def logReadOn (number count : Nat) (s : State) : State × Answer :=
  if within 1 16 count = false then deny .badValue s
  else
    let l := s.log
    match l.ring.dropWhile fun r => decide (r.number ≠ number), l.ring.head?, l.ring.getLast? with
    | r :: rs, some o, some n =>
      (s, .ok, .log ((r :: rs).take count) o.number n.number l.cursor l.unreported l.overrun)
    | _, _, _ => deny .notFound s

/-- Notices of `n` records until none is unreported. -/
def flushAll (n : Nat) : Nat → State → State
  | 0, s => s
  | fuel + 1, s => if s.log.unreported = 0 then s else flushAll n fuel (emitAsRun (min n s.log.unreported) s)

/-- LOG_FLUSH (R187). -/
def logFlushOn (s : State) : State × Answer :=
  if s.localUp then
    let size := if s.params.part.batchSize = 0 then 16 else s.params.part.batchSize
    let before := s.log.unreported
    let s := flushAll size before s
    (s, .ok, .flushed (before - s.log.unreported) s.log.unreported)
  else (s, .ok, .flushed 0 s.log.unreported)

/-! ## The time (R15, R16, R96, R97) -/

/-- What a step of HFN does to a channel, against the new now (R2): a running shadow ends, the timeline follows, and a
waiting switch or a shadow start that is now due starts at once (R120, R137; log entry 41). -/
def stepChan (env : Env) (w : W) : W := pump env (shadowStart env (joiningStart env (settle env (shadowEnd env w))))

/-- HFN steps (R2), also where the value set is the one that stood (log entry 60). Requests are taken during the wait of R14 too, and step it there (log entry 46). -/
def stepHfn (n : Nat) (s : State) : State :=
  runAll stepChan
    { s with time := { s.time with hfn := n, timeState := .set } }

/-- TIME_SET (R16). -/
def timeSetOn (day : Nat) (l : Label) (s : State) : State × Answer :=
  let rc := s.time.rate
  if labelValid rc l = false then deny .malformed s
  else if s.allMirror = false then deny .wrongMode s
  else (stepHfn (hfnOf rc day l) s, if labelExists rc l then .ok else .adjusted, .none)

/-- The distance of two frames. -/
def apart (a b : Nat) : Nat := (a - b) + (b - a)

/-- The day whose frame lies nearest to the main site's (R15). -/
def nearestDay (rc : RateCode) (day target now : Nat) : Nat :=
  let F := RateCode.perDay rc
  let f := now % F
  let days := [day] ++ (if 0 < day then [day - 1] else []) ++ (if day < 65535 then [day + 1] else [])
  days.foldl (fun best d => if apart (d * F + f) target < apart (best * F + f) target then d else best) day

/-- A SITE_BEAT sets the day while the time is UNSET and every channel is in MIRROR (R15). The second component
says whether it did. -/
def setDay (day : Nat) (l : Label) (s : State) : State × Bool :=
  if s.time.timeState = .unset ∧ s.allMirror then
    let rc := s.time.rate
    let d := nearestDay rc day (hfnOf rc day l) s.time.hfn
    (stepHfn (d * RateCode.perDay rc + s.time.hfn % RateCode.perDay rc) s, true)
  else (s, false)

/-- A channel's part of the reply (R97). -/
def beatChannel (now : Frame) (depth : Nat) (c : Chan) : BeatChannel :=
  { mode := c.ctl.mode, monitor := c.mon.state, mirror := c.mirror.state,
    missing := ((c.sweepWindow now depth).filter fun e => decide (e.readiness = .absent) || decide (e.readiness = .short)).length }

/-- SITE_BEAT (R96, R97). -/
def siteBeatOn (day : Nat) (l : Label) (s : State) : State × Answer :=
  let rc := s.time.rate
  if labelValid rc l = false then deny .malformed s
  else
    let x := setDay day l s
    let s := runAll goCurrent { x.1 with beat := 0, expired := false }
    (s, if labelExists rc l then .ok else .adjusted,
      .beat s.now s.time.timeState x.2 s.params.part.siteBeatTimeout
        ((List.finRange 8).map fun c => beatChannel s.time.hfn (s.params.chans[c]).sweepDepth s.chans[c]))

/-! ## The retained image (R195) -/

/-- The configuration in use. -/
def State.config (s : State) : Config := { params := s.params, flows := s.flows, table := s.table }

/-- SAVE_CONFIG (R195). -/
def saveConfigOn (h : Head) (s : State) : State × Answer :=
  match s.save with
  | some _ => deny .busy s
  | none => ({ s with save := some { tag := h.tag, copy := s.config } }, .ok, .none)

/-- What the flash holds after a write: the copy with its checksum, or, where the write went wrong, something that reads
back bad (R195). -/
def written (good : Bool) (c : Config) : Image := if good then .stored c (imageSum c) else .bad

/-- The write ends: the image is read back and checked (R195). -/
def saveComplete (good : Bool) (s : State) : State :=
  match s.save with
  | none => s
  | some j =>
    let image := written good j.copy
    let saved := image.readsBack
    let s := { s with save := none, flash := image, lastSave := if saved then .saved else .failed }
    s.notice .loc 15 (.config (if saved then .saved else .failed) (some j.tag) (some s.time.hfn))

/-- A write in progress is abandoned: the image is left erased or part-written (R195; which of the two is free, log
entry 12). -/
def abandonSave (s : State) : State :=
  match s.save with
  | none => s
  | some _ => { s with save := none, flash := if Config.abandonedErased s.draws then .blank else .bad, draws := s.draws + 1 }

/-! ## Resets (R197) -/

/-- A part reset: the configuration is loaded and every block takes its part-reset values; `up` gives each link's
state (R197). -/
def partReset (up : Port → Bool) (s : State) : State :=
  let s := abandonSave s
  let c := s.flash.load
  { State.reset with
    powered := s.powered, time := TimeBase.reset c.1.params.part.rate,
    ports := Vector.ofFn fun p => PortState.reset (up p), flows := c.1.flows, params := c.1.params, table := c.1.table,
    source := c.2, flash := s.flash, sent := s.sent, draws := s.draws, pending := s.pending,
    resetNotices := true, defaultedNotice := decide (c.2 ≠ .image) }

/-- Power-on and the reset pin start every link DOWN (R197). -/
def hardReset (s : State) : State := partReset (fun _ => false) s

/-- RESET(PART) keeps the links, and makes its notices once the load is done (R64, R196, R197). -/
def softReset (s : State) : State :=
  let s := partReset (fun p => s.ports[p].up) s
  releaseReset (if s.defaultedNotice then defaultedNotice { s with defaultedNotice := false } else s)

/-- RESET(CHANNEL n) (R198). -/
def resetChannelReq (n : Nat) (s : State) : State × Answer :=
  match chanOf n with
  | none => deny .badChannel s
  | some c => (runCh c resetChannelOn (s.appendTriggers fun r => decide (r.channel = c.val)), .ok, .none)

end Sys2Proof.Machine
end

