-- ==== Sys2Proof/Machine/Replies.lean ====
section
/-! DEFINITION. The replies of the players (R106 to R109, R111, R119) and the arrival of control packets (R66, R191). -/

namespace Sys2Proof.Machine

open Sys2Proof

/-- A reply whose tag is the tag in flight ends the flight and is acted on; the next request is then sent. A reply
with any other tag is ignored (R106). -/
def replied (p : PlayerId) (tag : Nat) (act : Flight → Env → W → W) (env : Env) (w : W) : W :=
  match (w.player p).flight with
  | some f =>
    if f.tag = tag then
      let w := act f env (w.modPlayer p fun x => { x with flight := none })
      pump env (takePointer env (sendNext env p w))
    else w
  | none => w

/-- CUED (R107): the record becomes CUED before its roll frame; a late CUED is stopped at once and its item cued
again. A reply to a cancelled cue, also where a new CUE waits behind it, or to another request, only ends the flight (log entry 19). -/
def onCued (p : PlayerId) (f : Flight) (env : Env) (w : W) : W :=
  let pl := w.player p
  match f.req, pl.state, pl.loaded with
  | .cue _ _ _ _, .cueing, some i =>
    if pl.cueQueued then w
    else if pl.roll.any (fun r => decide (env.now < r)) then w.modPlayer p fun x => { x with state := .cued }
    else itemReturned p (w.ch.triedLast p false i) i (stopAtOnce env p env.now w)
  | _, _, _ => w

/-- The readiness a reason gives (R109). -/
def reasonReadiness : CueReason → Option Readiness
  | .notFound => some .absent
  | .short => some .short
  | .unable => none

/-- Set an event's readiness. -/
def W.setReadiness (id : Nat) (r : Readiness) (w : W) : W :=
  w.modStore fun t => t.modEvent id fun e => { e with readiness := r }

/-- The failed cue named the handle that the sweep would ask about (R109). -/
def Chan.sweepsHandle (c : Chan) (i : Item) : Bool :=
  match c.store.event i.event with
  | some e => decide (i.handle = some e.sweepHandle)
  | none => false

/-- A substitute exists for a PLAY event and has not been tried, with an attempt left (R109). -/
def Chan.canSubstitute (c : Chan) (i : Item) : Bool :=
  i.isPass && !i.subTried && decide (i.attempts < 2) &&
    (match c.store.event i.event with
     | some e => let f := e.fieldsFor i.pass i.contin
                 decide (f.2.2.2 = .play) && f.2.2.1.isSome
     | none => false)

/-- CUE_FAILED (R109, R152); of a cancelled cue it only ends the flight, as for CUED. -/
def onCueFailed (p : PlayerId) (reason : CueReason) (f : Flight) (_env : Env) (w : W) : W :=
  let pl := w.player p
  match f.req, pl.state, pl.loaded with
  | .cue _ _ _ _, .cueing, some i =>
    if pl.cueQueued then w
    else
      let w := clearCue p .idle w
      match reasonReadiness reason with
      | none => itemReturned p (some p) i w
      | some r =>
        let w := if i.isPass && w.ch.sweepsHandle i then w.setReadiness i.event r else w
        if w.ch.canSubstitute i then
          itemAgain true p none { i with subTried := true, subNext := true, subShort := decide (reason = .short) } w
        else itemAgain false p none i w
  | _, _, _ => w

/-- STOPPED (R108). A record made STOPPING at once with a later stop frame is IDLE as its STOPPED comes (log entry 53). -/
def onStopped (p : PlayerId) (f : Flight) (env : Env) (w : W) : W :=
  let pl := w.player p
  match f.req with
  | .stop x =>
    if pl.state = .stopping then clearCue p .idle w
    else if pl.stopF = some x ∧ env.now < x then w.modPlayer p fun y => { y with stopConfirmed := true }
    else w
  | _ => w

/-- The readiness an ANSWER gives (R119). -/
def answerReadiness (e : Event) (found : Bool) (length : Nat) : Readiness :=
  if found = false then .absent else if e.inPoint + e.duration ≤ length then .present else .short

/-- ANSWER: to a probe it ends the FAULT, with the probe timer at 0 (R111; log entry 71), to the outstanding query it sets the readiness (R119). -/
def onAnswer (p : PlayerId) (found : Bool) (length : Nat) (f : Flight) (env : Env) (w : W) : W :=
  if f.req.isQuery = false then w
  else if f.probe then
    let w := w.modPlayer p fun x => { x with state := .idle, queue := [], probeTimer := 0 }
    w.notice env .loc (.player p .fault .idle .answer none env.now)
  else match w.ch.seq.sweep with
    | some q =>
      if q.player = p ∧ q.tag = f.tag then
        let w := abandonSweep w
        match lookupId q.event w.ch.store.current with
        | some e => w.setReadiness q.event (answerReadiness e found length)
        | none => w
      else w
    | none => w

/-- The player of a role. -/
def rolePlayer : Role → Option PlayerId
  | .playerA => some .a
  | .playerB => some .b
  | _ => none

/-- A REPLY packet arrives: it is routed to the player of its entry, with the tag of its control header (R65, R66, R106,
R190). R200 gives the players' replies no codes, so the command says which reply it is (log entry 10). -/
def playerReply (e : Eth) (act : PlayerId → Flight → Env → W → W) (s : State) : State :=
  arrives s e (decide (kindOf e = some .reply)) fun x s =>
    match x.channel, rolePlayer x.role with
    | some c, some p => runCh c (replied p (requestTag e) (act p)) s
    | _, _ => s

/-- The request that a code byte names (R190, R200): the one of that place in the catalogue, whose body the packet
carries; a code that names another request than the body is of, or none, names no request. -/
def requestOf (code : Nat) (b : ReqBody) : ReqBody := if reqCode b = code then b else .unknown code

/-- A request as its packet carries it (R190, R200). -/
def carried (e : Eth) (present : Nat) (b : ReqBody) : Request :=
  { head := requestHead e present, body := requestOf (controlCode e) b }

/-- A REQUEST packet arrives: it joins its flow's queue, or is dropped and counted when 8 wait there (R66, R191). -/
def requestArrives (e : Eth) (present : Nat) (b : ReqBody) (s : State) : State :=
  arrives s e (decide (kindOf e = some .request)) fun x s =>
    let f : CtlFlow := if x.role = .mainCtl then .main else .loc
    if (s.inbound f).length < Config.queueSize then s.setInbound (s.inbound f ++ [carried e present b]) f
    else s.modPort e.port fun y => { y with overflow := sat32 y.overflow }

end Sys2Proof.Machine
end

