-- ==== Sys2Proof/Machine/Boundary.lean ====
section
/-! DEFINITION. The output period boundary: numbering and the reference (R1, R2, R10 to R14), and the per-period work
of every block in one of the orders the spec allows (log entry 3). -/

namespace Sys2Proof.Machine

open Sys2Proof

/-- Without power a command has no effect (POWER_LOSS, R195; log entry 14). -/
def live (f : State → State) (s : State) : State := if s.powered then f s else s

/-! ## The reference (R10 to R14) -/

/-- Change the Time Base. -/
def State.modTime (s : State) (f : TimeBase → TimeBase) : State := { s with time := f s.time }

/-- A REFERENCE notice (R13). -/
def refNotice (why : RefReason) (carried : Option RefLabel) (own : Option Label) (s : State) : State :=
  s.notice .loc 15 (.reference why s.time.hfn s.time.refState s.time.slips carried own)

/-- The label a pulse carries is valid, exists and gives a frame of day (R12, R14). -/
def pulseFrame (rc : RateCode) (l : RefLabel) : Option Nat :=
  match l with
  | some x => if labelValid rc x && labelExists rc x then some (frameOfDay rc x) else none
  | none => none

/-- The comparison of R12. -/
def compareLabel (l : RefLabel) (s : State) : State :=
  let rc := s.time.rate
  if pulseFrame rc l = some (s.time.hfn % RateCode.perDay rc) then s.modTime fun t => { t with slipRun := false }
  else
    let opens := !s.time.slipRun
    let s := s.modTime fun t => { t with slips := sat32 t.slips, slipRun := true }
    if opens then refNotice .slip (some l) (some s.now.label) s else s

/-- The next period's number: HFN + 1 (R1, R2). What follows 2^48 − 1 is free (log entry 7). -/
def nextHfn (s : State) : State :=
  if s.time.hfn + 1 < two48 then s.modTime fun t => { t with hfn := t.hfn + 1 }
  else { s.modTime fun t => { t with hfn := (Config.hfnPastTop s.draws).toNat } with draws := s.draws + 1 }

/-- A boundary at a time: the period before it is closed. -/
def boundaryAt (at_ : Nat) (s : State) : State := (nextHfn s.closePeriod).modTime fun t => { t with lastBoundary := at_, built := false }

/-! ## Per-period work -/

/-- The log tick advances and the test of R183 is made (R182, R183). -/
def tickLog (s : State) : State := State.testAsRun { s with log := { s.log with tick := (s.log.tick + 1) % two32 } }

/-- The site beat timer expires when it stands at the timeout with its mark clear (R95, R59). -/
def siteBeatExpiry (s : State) : State :=
  if s.expired = false ∧ s.params.part.siteBeatTimeout ≤ s.beat then
    runAll goStale { s with expired := true, beat := s.params.part.siteBeatTimeout }
  else s

/-- The site beat timer advances while its mark is clear (R95). -/
def tickBeat (s : State) : State :=
  siteBeatExpiry (if s.expired then s else { s with beat := s.beat + 1 })

/-- The counts of a channel that advance at a boundary (R49, R103, R110, R111). -/
def chanTick (env : Env) (w : W) : W :=
  let w := refreshTimeout env (refreshTick w)
  w.modSeq fun q =>
    { q with a := q.a.tick env.now, b := q.b.tick env.now,
             onAir := q.onAir.map fun o => { o with framesIn := o.framesIn + 1 } }

/-- Items leave and go on the air, and the targets that have come are reached (R103, R107, R108, R138, R143, R150,
R155). -/
def chanAir (env : Env) (w : W) : W :=
  let w := othersLeave env (playersLeave env (breakStart env w))
  let w := droppedRecords env w
  let w := breakEnd env (handbackTarget env (joiningTarget env w))
  let w := playerRoll env .b (playerRoll env .a w)
  spentRecords env (nextOnAir env w)

/-- The takes and what hangs on them: the anchor, the evaluation, stalls, timeouts and probes (R30, R76, R77, R84,
R110, R111). -/
def chanFeed (bad : Bool) (env : Env) (w : W) : W :=
  let w := anchorFromStamp env (syncLife (takes env w))
  let w := evaluate env bad w
  let w := stall env .b (stall env .a w)
  let w := replyTimeout env .b (replyTimeout env .a w)
  probe env .b (probe env .a w)

/-- What falls due in the period: joins, resumes, cues, scans and triggers (R39, R105, R112, R118, R120, R121, R137,
R153, R160). -/
def chanDue (env : Env) (w : W) : W :=
  let w := breakExpiry env (joiningStart env w)
  let w := shadowRejoin env (shadowStart env w)
  triggerAct env (scanTick env (pump env (takePointer env w)))

/-- A channel's work in a period, but for its output frame. -/
def chanPeriod (bad : Bool) (env : Env) (w : W) : W := chanDue env (chanFeed bad env (chanAir env (chanTick env w)))

/-- Every port's bad-frame mark is cleared (R67). -/
def clearMarks (s : State) : State := { s with ports := s.ports.map fun p => { p with mark := false } }

/-- Every channel's output frame of the period is built (R164). -/
def buildFrames (s : State) : State := (List.finRange 8).foldl (fun s c => buildFrame c s) s

/-- The output frames of the period have been built (R158). -/
def buildAll (s : State) : State := (buildFrames s).modTime fun t => { t with built := true }

/-- Every channel's work in the period. -/
def periodChans (s : State) : State := (List.finRange 8).foldl (fun s c => runCh c (chanPeriod (badReport s c)) s) s

/-- The per-period work of the part. -/
def periodWork (s : State) : State := buildAll (clearMarks (periodChans (tickBeat (tickLog s))))

/-! ## Boundaries (R1, R10, R11, R14) -/

/-- The wait is over: the time is UNSET, the slip run closed and the label-slip count 0, whatever requests taken in the
wait have made of them (R14; log entry 46); the first period's frames are not yet built. -/
def TimeBase.begin (t : TimeBase) : TimeBase :=
  { t with waiting := false, timeState := .unset, slipRun := false, slips := 0, built := false }

/-- The first period begins at the first pulse, or at the end of the wait (R14). -/
def timeBaseStart (now : Nat) (pulse : Option RefLabel) (s : State) : State :=
  if s.time.waiting = false then s
  else match pulse with
    | some l =>
      if now < Config.oneAndHalf then
        periodWork (s.closePeriod.modTime fun t =>
          { t.begin with hfn := (pulseFrame t.rate l).getD 0, refState := .locked, lastBoundary := now })
      else s
    | none =>
      if Config.oneAndHalf ≤ now then
        periodWork (refNotice .lost none none (s.closePeriod.modTime fun t =>
          { t.begin with hfn := 0, refState := .freeRun, relock := 0, lastBoundary := Config.oneAndHalf, lastPulse := none }))
      else s

/-- A period boundary: a pulse while LOCKED, the nominal period while FREE_RUN (R1, R10). -/
def periodBoundary (now : Nat) (pulse : Option RefLabel) (s : State) : State :=
  let t := s.time
  if t.waiting then s
  else match t.refState, pulse with
    | .locked, some l =>
      if t.lastBoundary + Config.half ≤ now ∧ now < t.lastBoundary + Config.oneAndHalf then
        periodWork (compareLabel l (boundaryAt now s))
      else s
    | .locked, none => s
    | .freeRun, _ =>
      if t.relock < 8 ∧ t.lastBoundary + Config.nominal ≤ now then periodWork (boundaryAt (t.lastBoundary + Config.nominal) s)
      else s

/-- One and a half periods without a pulse that counts (R10). The first pulse that then comes is spaced against none before
the loss (R11; log entry 59). -/
def referenceLoss (now : Nat) (s : State) : State :=
  let t := s.time
  if t.waiting = false ∧ t.refState = .locked ∧ t.lastBoundary + Config.oneAndHalf ≤ now then
    let s := boundaryAt (t.lastBoundary + Config.nominal) s
    let s := s.modTime fun t => { t with refState := .freeRun, slipRun := false, relock := 0, lastPulse := none }
    periodWork (refNotice .lost none none s)
  else s

/-- A pulse arrives spaced as R11 requires after the one before. -/
def wellSpaced (t : TimeBase) (now : Nat) : Bool :=
  t.lastPulse.any fun p => decide (p + Config.spacingLow ≤ now) && decide (now ≤ p + Config.spacingHigh)

/-- A pulse watched in FREE_RUN moves the relock count (R11). The pulse that makes the relocking boundary is
`referenceRelock`'s. -/
def relockPulse (now : Nat) (s : State) : State :=
  let t := s.time
  if t.waiting ∨ t.refState = .locked ∨ (t.relock = 8 ∧ t.lastBoundary + Config.half ≤ now) then s
  else s.modTime fun t =>
    { t with relock := if wellSpaced t now then min 8 (t.relock + 1) else 0, lastPulse := some now }

/-- The relocking boundary (R11). Once the count stands at 8 its pulse need not be spaced as the eight were (log entry 86). -/
def referenceRelock (now : Nat) (l : RefLabel) (s : State) : State :=
  let t := s.time
  if t.waiting = false ∧ t.refState = .freeRun ∧ t.relock = 8 ∧ t.lastBoundary + Config.half ≤ now ∧
      now < t.lastBoundary + Config.oneAndHalf then
    let s := (boundaryAt now s).modTime fun t => { t with refState := .locked, relock := 0, lastPulse := none }
    periodWork (compareLabel l (refNotice .locked none none s))
  else s

/-- No relocking pulse came in time (R11). -/
def relockTimeout (now : Nat) (s : State) : State :=
  let t := s.time
  if t.waiting = false ∧ t.refState = .freeRun ∧ t.relock = 8 ∧ t.lastBoundary + Config.oneAndHalf ≤ now then
    periodWork ((boundaryAt (t.lastBoundary + Config.nominal) s).modTime fun t => { t with relock := 0 })
  else s

/-! ## Links (R68) -/

/-- A port's link comes UP, and what waited for it is released (R64, R68, R183, R196); a port that is UP stays as it is (log
entry 58). -/
def linkUp (p : Port) (s : State) : State :=
  if s.ports[p].up then s
  else
    let s := releaseReset (s.modPort p fun x => { x with up := true })
    let isLocal := (s.ctlAddr .loc).any fun a => decide (a.1 = p)
    if isLocal then State.testAsRun (releaseDefaulted s) else s

/-- A port's link goes DOWN: the open assemblies of its sources are discarded and counted (R68); a port that is DOWN stays as
it is (log entry 58). -/
def linkDown (p : Port) (s : State) : State :=
  if s.ports[p].up then
    (fedBy s p).foldl (fun s x => s.modSource x.1 x.2 Source.discard) (s.modPort p fun x => { x with up := false })
  else s

end Sys2Proof.Machine
end

