-- ==== Sys2Proof/Machine/Arrivals.lean ====
section
/-! DEFINITION. What arrives on the ports: essence packets, requests joining their queue, and the players' replies. -/

namespace Sys2Proof.Machine

open Sys2Proof

/-- FRAME_DROP: a frame that a check or the lookup drops is counted; one that passes changes nothing here. What stands
behind the control header is read by no check (R65, R66). -/
def execFrameDrop (e : Eth) (control _rest : List Byte) (s : State) : Host.Outcome State Fault Refusal :=
  .next (live (fun s => dropped s e (check s (e.carrying control))) s)

/-- FRAME_HEADER: opens an assembly (R72). -/
def execFrameHeader (e : Eth) (bytes : List Byte) (s : State) : Host.Outcome State Fault Refusal :=
  .next (live (fun s => essence s e 0 (Source.header (readFrameHeader bytes))) s)

/-- VIDEO: joins the open assembly, or is counted stray (R73, R74). -/
def execVideo (e : Eth) (bytes : List Byte) (s : State) : Host.Outcome State Fault Refusal :=
  .next (live (fun s => essence s e 1 (Source.video (readVideo bytes))) s)

/-- AUDIO: joins the open assembly, or is counted stray (R73, R74). -/
def execAudio (e : Eth) (bytes : List Byte) (s : State) : Host.Outcome State Fault Refusal :=
  .next (live (fun s => essence s e 2 (Source.audio (readAudio bytes))) s)

/-- CONTROL_REQUEST_PACKET: joins its flow's inbound queue, or is dropped and counted (R66, R191). -/
def execControlRequestPacket (e : Eth) (r : RequestPacket) (s : State) : Host.Outcome State Fault Refusal :=
  .next (live (requestArrives (e.carrying r.control) r.present r.body) s)

/-- CUED: a player has cued (R107). -/
def execCued (e : Eth) (control : List Byte) (s : State) : Host.Outcome State Fault Refusal :=
  .next (live (playerReply (e.carrying control) onCued) s)

/-- CUE_FAILED: a cue has failed (R109). -/
def execCueFailed (e : Eth) (control : List Byte) (reason : CueReason) (s : State) : Host.Outcome State Fault Refusal :=
  .next (live (playerReply (e.carrying control) fun p => onCueFailed p reason) s)

/-- STOPPED: a player has stopped (R108). -/
def execStopped (e : Eth) (control : List Byte) (s : State) : Host.Outcome State Fault Refusal :=
  .next (live (playerReply (e.carrying control) onStopped) s)

/-- ANSWER: a query or a probe is answered; the tag tells which, so the handle it names is disregarded (R111, R119). -/
def execAnswer (e : Eth) (control : List Byte) (_handle : Nat) (found : Bool) (length : Nat) (s : State) : Host.Outcome State Fault Refusal :=
  .next (live (playerReply (e.carrying control) fun p => onAnswer p found length) s)

end Sys2Proof.Machine
end

