-- ==== Sys2Proof/Machine/Events.lean ====
section
/-! DEFINITION. The events that fall due inside a channel or the part. A command whose event is not due changes nothing (log entry 2). -/

namespace Sys2Proof.Machine

open Sys2Proof

/-- ADVISORY_RAISED: an ADVISORY run stands at its threshold (R88). -/
def execAdvisoryRaised (c : Ch) (attr : Fin 8) (s : State) : Host.Outcome State Fault Refusal :=
  .next (live (runCh c fun env w => advisoryRaise env attr w) s)

/-- MONITOR_SUSPECT: a DECISIVE run has reached its threshold in HEALTHY (R91). -/
def execMonitorSuspect (c : Ch) (s : State) : Host.Outcome State Fault Refusal :=
  .next (live (runCh c monitorSuspect) s)

/-- MONITOR_FAILED: the holdoff, or a run in RECOVERING, has been reached (R91, R92). -/
def execMonitorFailed (c : Ch) (s : State) : Host.Outcome State Fault Refusal :=
  .next (live (runCh c monitorFailed) s)

/-- MONITOR_HEALTHY: the healthy run has been reached (R92). -/
def execMonitorHealthy (c : Ch) (s : State) : Host.Outcome State Fault Refusal :=
  .next (live (runCh c monitorHealthy) s)

/-- SITE_BEAT_EXPIRY: the site beat timer reaches the timeout (R95). -/
def execSiteBeatExpiry (s : State) : Host.Outcome State Fault Refusal :=
  .next (live siteBeatExpiry s)

/-- REFRESH_TIMEOUT: the refresh inactivity timer reaches the mirror timeout (R49). -/
def execRefreshTimeout (c : Ch) (s : State) : Host.Outcome State Fault Refusal :=
  .next (live (runCh c refreshTimeout) s)

/-- DIGEST_SCAN_END: a digest scan has nothing left to visit (R39). -/
def execDigestScanEnd (c : Ch) (s : State) : Host.Outcome State Fault Refusal :=
  .next (live (runCh c digestScanEnd) s)

/-- JOINING_START: a waiting switch falls due (R137). -/
def execJoiningStart (c : Ch) (s : State) : Host.Outcome State Fault Refusal :=
  .next (live (runCh c joiningStart) s)

/-- JOINING_TARGET: the JOINING target has come (R138). -/
def execJoiningTarget (c : Ch) (s : State) : Host.Outcome State Fault Refusal :=
  .next (live (runCh c joiningTarget) s)

/-- HANDBACK_TARGET: the RETURNING target has come (R143). -/
def execHandbackTarget (c : Ch) (s : State) : Host.Outcome State Fault Refusal :=
  .next (live (runCh c handbackTarget) s)

/-- BREAK_START: the break-in starts (R150). -/
def execBreakStart (c : Ch) (s : State) : Host.Outcome State Fault Refusal :=
  .next (live (runCh c breakStart) s)

/-- BREAK_EXPIRY: a break-in with a duration begins its resume (R153). -/
def execBreakExpiry (c : Ch) (s : State) : Host.Outcome State Fault Refusal :=
  .next (live (runCh c breakExpiry) s)

/-- BREAK_END: the resume target has come (R155). -/
def execBreakEnd (c : Ch) (s : State) : Host.Outcome State Fault Refusal :=
  .next (live (runCh c breakEnd) s)

/-- CUE_WINDOW: the item at the preroll pointer is cued in its window (R105). -/
def execCueWindow (c : Ch) (s : State) : Host.Outcome State Fault Refusal :=
  .next (live (runCh c (followed (fun _ => syncLife) cueWindow)) s)

/-- LATE_CUE: a late item is cued (R112). -/
def execLateCue (c : Ch) (s : State) : Host.Outcome State Fault Refusal :=
  .next (live (runCh c (followed (fun _ => syncLife) lateCue)) s)

/-- ITEM_LOST: an item is lost whole (R112). -/
def execItemLost (c : Ch) (s : State) : Host.Outcome State Fault Refusal :=
  .next (live (runCh c (followed (fun _ => syncLife) itemLost)) s)

/-- PLAYER_ROLL: a CUED player rolls (R107). -/
def execPlayerRoll (c : Ch) (p : PlayerId) (s : State) : Host.Outcome State Fault Refusal :=
  .next (live (runCh c (followed settled fun env => playerRoll env p)) s)

/-- PLAYER_END: a PLAYING player reaches its end frame (R107). -/
def execPlayerEnd (c : Ch) (p : PlayerId) (s : State) : Host.Outcome State Fault Refusal :=
  .next (live (runCh c (followed settled fun env => playerEnd env p)) s)

/-- STOP_FRAME: a player reaches its stop frame (R108). -/
def execStopFrame (c : Ch) (p : PlayerId) (s : State) : Host.Outcome State Fault Refusal :=
  .next (live (runCh c (followed settled fun env => stopFrame env p)) s)

/-- REPLY_TIMEOUT: a request has gone unanswered (R110). -/
def execReplyTimeout (c : Ch) (p : PlayerId) (s : State) : Host.Outcome State Fault Refusal :=
  .next (live (runCh c (followed pump fun env => replyTimeout env p)) s)

/-- STALL: a PLAYING player delivers no frames (R111). -/
def execStall (c : Ch) (p : PlayerId) (s : State) : Host.Outcome State Fault Refusal :=
  .next (live (runCh c (followed pump fun env => stall env p)) s)

/-- PROBE: a FAULT player is probed (R111). -/
def execProbe (c : Ch) (p : PlayerId) (s : State) : Host.Outcome State Fault Refusal :=
  .next (live (runCh c (fun env => probe env p)) s)

/-- SWEEP_QUERY: the readiness sweep asks (R118). -/
def execSweepQuery (c : Ch) (s : State) : Host.Outcome State Fault Refusal :=
  .next (live (runCh c sweepQuery) s)

/-- SHADOW_START: the HOT shadow starts (R120). -/
def execShadowStart (c : Ch) (s : State) : Host.Outcome State Fault Refusal :=
  .next (live (runCh c (followed pump shadowStart)) s)

/-- SHADOW_REJOIN: the shadow is joined again (R121). -/
def execShadowRejoin (c : Ch) (s : State) : Host.Outcome State Fault Refusal :=
  .next (live (runCh c (followed pump shadowRejoin)) s)

/-- TRIGGER_ACT: the due triggers are dealt with (R160). -/
def execTriggerAct (c : Ch) (s : State) : Host.Outcome State Fault Refusal :=
  .next (live (runCh c triggerAct) s)

/-- AS_RUN: the test of R183. -/
def execAsRun (s : State) : Host.Outcome State Fault Refusal :=
  .next (live State.testAsRun s)

end Sys2Proof.Machine
end

