-- ==== Sys2Proof/Machine/LocalRequests.lean ====
section
/-! DEFINITION. The requests of LOCAL_CTL, as they are taken (R192). -/

namespace Sys2Proof.Machine

open Sys2Proof

/-- RESET(PART): the reply, then the reset (R197). -/
def resetPartAct (f : CtlFlow) (h : Head) (addr : Option (Port × Nat)) (s : State) : State :=
  softReset (s.reply addr f h .resetPart (.ok, .none))

/-- SET_PARAM: sets a parameter (R193). -/
def execSetParam (f : CtlFlow) (h : Head) (id : ParamId) (value : Nat) (s : State) : Host.Outcome State Fault Refusal :=
  .next (takeRequest f h (.setParam id value) (answered f h (.setParam id value) (setParamOn h id value)) s)

/-- GET_PARAM: returns a parameter or a trigger entry (R194). -/
def execGetParam (f : CtlFlow) (h : Head) (id : ParamId) (s : State) : Host.Outcome State Fault Refusal :=
  .next (takeRequest f h (.getParam id) (answered f h (.getParam id) (getParamOn h id)) s)

/-- FLOW_LOAD: writes a flow table entry (R70). -/
def execFlowLoad (f : CtlFlow) (h : Head) (tag port : Nat) (role : Option Role) (channel : Nat) (s : State) : Host.Outcome State Fault Refusal :=
  .next (takeRequest f h (.flowLoad tag port role channel) (answered f h (.flowLoad tag port role channel) (flowLoadOn tag port role channel)) s)

/-- FLOW_CLEAR: clears a flow table entry (R71). -/
def execFlowClear (f : CtlFlow) (h : Head) (tag : Nat) (s : State) : Host.Outcome State Fault Refusal :=
  .next (takeRequest f h (.flowClear tag) (answered f h (.flowClear tag) (flowClearOn tag)) s)

/-- TRIGGER_LOAD: writes a trigger entry (R157). -/
def execTriggerLoad (f : CtlFlow) (h : Head) (code : Nat) (action : LoadAction) (s : State) : Host.Outcome State Fault Refusal :=
  .next (takeRequest f h (.triggerLoad code action) (answered f h (.triggerLoad code action) (triggerLoadOn code action)) s)

/-- TRIGGER_CLEAR: empties a trigger entry (R157). -/
def execTriggerClear (f : CtlFlow) (h : Head) (code : Nat) (s : State) : Host.Outcome State Fault Refusal :=
  .next (takeRequest f h (.triggerClear code) (answered f h (.triggerClear code) (triggerClearOn code)) s)

/-- GRAPHIC_BEGIN: opens a graphic load (R174). -/
def execGraphicBegin (f : CtlFlow) (h : Head) (slot width height : Nat) (s : State) : Host.Outcome State Fault Refusal :=
  .next (takeRequest f h (.graphicBegin slot width height) (answered f h (.graphicBegin slot width height) (graphicBeginOn slot width height)) s)

/-- GRAPHIC_SEGMENT: stores bytes of a graphic, those within the stated body length (R175, R190). -/
def execGraphicSegment (f : CtlFlow) (h : Head) (slot offset : Nat) (data : List Byte) (s : State) : Host.Outcome State Fault Refusal :=
  .next (takeRequest f h (.graphicSegment slot offset data)
    (answered f h (.graphicSegment slot offset data) (graphicSegmentOn slot offset (statedPart h data))) s)

/-- GRAPHIC_END: closes a graphic load (R176). -/
def execGraphicEnd (f : CtlFlow) (h : Head) (slot : Nat) (s : State) : Host.Outcome State Fault Refusal :=
  .next (takeRequest f h (.graphicEnd slot) (answered f h (.graphicEnd slot) (graphicEndOn slot)) s)

/-- WINDOW_SET: writes the ident window (R171). -/
def execWindowSet (f : CtlFlow) (h : Head) (enabled : Bool) (slot x y alpha blink : Nat) (s : State) : Host.Outcome State Fault Refusal :=
  .next (takeRequest f h (.windowSet enabled slot x y alpha blink) (answered f h (.windowSet enabled slot x y alpha blink) (onChannel h (windowSetOn enabled slot x y alpha blink))) s)

/-- TAKEOVER: asks for a takeover (R134). -/
def execTakeover (f : CtlFlow) (h : Head) (target : Target) (force : Bool) (s : State) : Host.Outcome State Fault Refusal :=
  .next (takeRequest f h (.takeover target force) (answered f h (.takeover target force) (onChannel h (takeoverOn target force))) s)

/-- HANDBACK: asks for a handback (R140). -/
def execHandback (f : CtlFlow) (h : Head) (target : Target) (force : Bool) (s : State) : Host.Outcome State Fault Refusal :=
  .next (takeRequest f h (.handback target force) (answered f h (.handback target force) (onChannel h (handbackOn .manual target force))) s)

/-- BREAK_IN: asks for a break-in (R148). -/
def execBreakIn (f : CtlFlow) (h : Head) (handle inPoint : Nat) (duration : Option Nat) (mode : Option BreakMode) (s : State) : Host.Outcome State Fault Refusal :=
  .next (takeRequest f h (.breakIn handle inPoint duration mode) (answered f h (.breakIn handle inPoint duration mode) (onChannel h (breakInOn handle inPoint duration mode))) s)

/-- RESUME: ends a break-in (R153). -/
def execResume (f : CtlFlow) (h : Head) (mode : Option ResumeReq) (s : State) : Host.Outcome State Fault Refusal :=
  .next (takeRequest f h (.resume mode) (answered f h (.resume mode) (onChannel h (resumeOn mode))) s)

/-- QUERY_CHANNEL: reports a channel (R192). -/
def execQueryChannel (f : CtlFlow) (h : Head) (s : State) : Host.Outcome State Fault Refusal :=
  .next (takeRequest f h .queryChannel (answered f h .queryChannel (queryChannelOn h)) s)

/-- QUERY_EVENTS: reports events (R41). -/
def execQueryEvents (f : CtlFlow) (h : Head) (key count : Nat) (s : State) : Host.Outcome State Fault Refusal :=
  .next (takeRequest f h (.queryEvents key count) (answered f h (.queryEvents key count) (queryEventsOn h key count)) s)

/-- QUERY_MONITOR: reports the Feed Monitor (R98). -/
def execQueryMonitor (f : CtlFlow) (h : Head) (s : State) : Host.Outcome State Fault Refusal :=
  .next (takeRequest f h .queryMonitor (answered f h .queryMonitor (queryMonitorOn h)) s)

/-- CLEAR_COUNTERS: clears counts (R81, R99). -/
def execClearCounters (f : CtlFlow) (h : Head) (s : State) : Host.Outcome State Fault Refusal :=
  .next (takeRequest f h .clearCounters (answered f h .clearCounters (clearCountersOn h)) s)

/-- LOG_READ: reads the ring back (R186). -/
def execLogRead (f : CtlFlow) (h : Head) (number count : Nat) (s : State) : Host.Outcome State Fault Refusal :=
  .next (takeRequest f h (.logRead number count) (answered f h (.logRead number count) (logReadOn number count)) s)

/-- LOG_FLUSH: emits the unreported records (R187). -/
def execLogFlush (f : CtlFlow) (h : Head) (s : State) : Host.Outcome State Fault Refusal :=
  .next (takeRequest f h .logFlush (answered f h .logFlush (logFlushOn)) s)

/-- SAVE_CONFIG: begins a write of the retained image (R195). -/
def execSaveConfig (f : CtlFlow) (h : Head) (s : State) : Host.Outcome State Fault Refusal :=
  .next (takeRequest f h .saveConfig (answered f h .saveConfig (saveConfigOn h)) s)

/-- TIME_SET: sets HFN (R16). -/
def execTimeSet (f : CtlFlow) (h : Head) (day : Nat) (label : Label) (s : State) : Host.Outcome State Fault Refusal :=
  .next (takeRequest f h (.timeSet day label) (answered f h (.timeSet day label) (timeSetOn day label)) s)

/-- RESET_PART: is answered, and the whole part is reset (R197). -/
def execResetPart (f : CtlFlow) (h : Head) (s : State) : Host.Outcome State Fault Refusal :=
  .next (takeRequest f h .resetPart (resetPartAct f h) s)

/-- RESET_CHANNEL: resets a channel (R198). -/
def execResetChannel (f : CtlFlow) (h : Head) (n : Nat) (s : State) : Host.Outcome State Fault Refusal :=
  .next (takeRequest f h (.resetChannel n) (answered f h (.resetChannel n) (resetChannelReq n)) s)

/-- PART_STATUS: reports the part (R199). -/
def execPartStatus (f : CtlFlow) (h : Head) (s : State) : Host.Outcome State Fault Refusal :=
  .next (takeRequest f h .partStatus (answered f h .partStatus (partStatusOn)) s)

/-- UNKNOWN_REQUEST_CODE: a code that names no request is refused MALFORMED before it reaches an owner (R190). -/
def execUnknownRequestCode (f : CtlFlow) (h : Head) (code : Nat) (s : State) : Host.Outcome State Fault Refusal :=
  .next (takeRequest f h (.unknown code) (answered f h (.unknown code) (deny .malformed)) s)

end Sys2Proof.Machine
end

