-- ==== Sys2Proof/Machine/MainRequests.lean ====
section
/-! DEFINITION. The requests of MAIN_CTL, as they are taken (R192). -/

namespace Sys2Proof.Machine

open Sys2Proof

/-- DIGEST_CHECK on its channel: no reply now (R39). -/
def digestCheckAct (f : CtlFlow) (h : Head) (key count sum : Nat) (addr : Option (Port × Nat)) (s : State) : State :=
  match chanOf h.channel with
  | none => s.reply addr f h (.digestCheck key count sum) (.badChannel, .none)
  | some c => runCh c (digestCheckOn addr h.tag h.channel key count sum) s

/-- MIRROR_BATCH: a batch of running-order changes, its operations read to the stated body length (R44 to R47, R190). -/
def execMirrorBatch (f : CtlFlow) (h : Head) (seq : Nat) (ops : List Byte) (s : State) : Host.Outcome State Fault Refusal :=
  .next (takeRequest f h (.mirrorBatch seq ops) (answered f h (.mirrorBatch seq ops) (onChannel h (mirrorBatchOn seq (statedPart h ops)))) s)

/-- REFRESH_OPEN: opens a refresh (R48). -/
def execRefreshOpen (f : CtlFlow) (h : Head) (seq : Nat) (s : State) : Host.Outcome State Fault Refusal :=
  .next (takeRequest f h (.refreshOpen seq) (answered f h (.refreshOpen seq) (onChannel h (refreshOpenOn seq))) s)

/-- REFRESH_CLOSE: closes a refresh (R52). -/
def execRefreshClose (f : CtlFlow) (h : Head) (seq count sum : Nat) (s : State) : Host.Outcome State Fault Refusal :=
  .next (takeRequest f h (.refreshClose seq count sum) (answered f h (.refreshClose seq count sum) (onChannel h (refreshCloseOn seq count sum))) s)

/-- DIGEST_CHECK: starts a digest scan; its reply is deferred (R39, R40). -/
def execDigestCheck (f : CtlFlow) (h : Head) (key count sum : Nat) (s : State) : Host.Outcome State Fault Refusal :=
  .next (takeRequest f h (.digestCheck key count sum) (digestCheckAct f h key count sum) s)

/-- SITE_BEAT: the main site is alive (R96). -/
def execSiteBeat (f : CtlFlow) (h : Head) (day : Nat) (label : Label) (s : State) : Host.Outcome State Fault Refusal :=
  .next (takeRequest f h (.siteBeat day label) (answered f h (.siteBeat day label) (siteBeatOn day label)) s)

/-- HANDOVER: a planned switch (R136). -/
def execHandover (f : CtlFlow) (h : Head) (day : Nat) (label : Label) (s : State) : Host.Outcome State Fault Refusal :=
  .next (takeRequest f h (.handover day label) (answered f h (.handover day label) (onChannel h (handoverOn day label))) s)

/-- HANDBACK_ASK: a handback on the main site's behalf (R141). -/
def execHandbackAsk (f : CtlFlow) (h : Head) (target : Target) (s : State) : Host.Outcome State Fault Refusal :=
  .next (takeRequest f h (.handbackAsk target) (answered f h (.handbackAsk target) (onChannel h (handbackAskOn target))) s)

end Sys2Proof.Machine
end

