-- ==== Sys2Proof/Machine/Resets.lean ====
section
/-! DEFINITION. The resets, the supply, the reference and the links: POWER_ON, RESET_PIN, POWER_LOSS, the Time Base's events, the
releases of waiting notices, LINK_UP, LINK_DOWN and SAVE_COMPLETE. -/

namespace Sys2Proof.Machine

open Sys2Proof

/-- POWER_ON: the whole part is reset with every link DOWN (R197). -/
def execPowerOn (s : State) : Host.Outcome State Fault Refusal :=
  .next (hardReset { s with powered := true })

/-- RESET_PIN: as power-on (R197). -/
def execResetPin (s : State) : Host.Outcome State Fault Refusal :=
  .next (live hardReset s)

/-- POWER_LOSS: the part is without power; a write in progress is abandoned (R195). -/
def execPowerLoss (s : State) : Host.Outcome State Fault Refusal :=
  .next (live (fun s => { abandonSave s with powered := false }) s)

/-- TIME_BASE_START: the first period begins (R14). -/
def execTimeBaseStart (now : Nat) (pulse : Option RefLabel) (s : State) : Host.Outcome State Fault Refusal :=
  .next (live (timeBaseStart now pulse) s)

/-- PERIOD_BOUNDARY: a new output frame period begins (R1, R10). -/
def execPeriodBoundary (now : Nat) (pulse : Option RefLabel) (s : State) : Host.Outcome State Fault Refusal :=
  .next (live (periodBoundary now pulse) s)

/-- REFERENCE_LOSS: the reference is lost (R10). -/
def execReferenceLoss (now : Nat) (s : State) : Host.Outcome State Fault Refusal :=
  .next (live (referenceLoss now) s)

/-- RELOCK_PULSE: a pulse is watched in FREE_RUN (R11). -/
def execRelockPulse (now : Nat) (s : State) : Host.Outcome State Fault Refusal :=
  .next (live (relockPulse now) s)

/-- REFERENCE_RELOCK: the relocking boundary (R11). -/
def execReferenceRelock (now : Nat) (label : RefLabel) (s : State) : Host.Outcome State Fault Refusal :=
  .next (live (referenceRelock now label) s)

/-- RELOCK_TIMEOUT: no relocking pulse came (R11). -/
def execRelockTimeout (now : Nat) (s : State) : Host.Outcome State Fault Refusal :=
  .next (live (relockTimeout now) s)

/-- REFRESH_NEEDED_RESET_RELEASE: the eight reset notices, once they can be sent (R64). -/
def execRefreshNeededResetRelease (s : State) : Host.Outcome State Fault Refusal :=
  .next (live releaseReset s)

/-- CONFIG_DEFAULTED_NOTICE: the CONFIG DEFAULTED notice that waits for the link (R196). -/
def execConfigDefaultedNotice (s : State) : Host.Outcome State Fault Refusal :=
  .next (live releaseDefaulted s)

/-- LINK_UP: a link is established (R68). -/
def execLinkUp (p : Port) (s : State) : Host.Outcome State Fault Refusal :=
  .next (live (linkUp p) s)

/-- LINK_DOWN: a link is lost (R68). -/
def execLinkDown (p : Port) (s : State) : Host.Outcome State Fault Refusal :=
  .next (live (linkDown p) s)

/-- SAVE_COMPLETE: the write of the retained image ends (R195). -/
def execSaveComplete (good : Bool) (s : State) : Host.Outcome State Fault Refusal :=
  .next (live (saveComplete good) s)

end Sys2Proof.Machine
end

