-- ==== Sys2Proof/Machine/Dispatch.lean ====
section
/-! DEFINITION. The meaning of each command: one arm for each row of spec/opcode_table.json. -/

namespace Sys2Proof.Machine

/-- What a command does to everything but the queue. -/
def exec (i : Instr) (s : State) : Host.Outcome State Fault Refusal :=
  match i with
  | .powerOn => Sys2Proof.Machine.execPowerOn s
  | .resetPin => Sys2Proof.Machine.execResetPin s
  | .timeBaseStart now pulse => Sys2Proof.Machine.execTimeBaseStart now pulse s
  | .refreshNeededResetRelease => Sys2Proof.Machine.execRefreshNeededResetRelease s
  | .configDefaultedNotice => Sys2Proof.Machine.execConfigDefaultedNotice s
  | .linkUp p => Sys2Proof.Machine.execLinkUp p s
  | .linkDown p => Sys2Proof.Machine.execLinkDown p s
  | .frameDrop e control rest => Sys2Proof.Machine.execFrameDrop e control rest s
  | .frameHeader e bytes => Sys2Proof.Machine.execFrameHeader e bytes s
  | .video e bytes => Sys2Proof.Machine.execVideo e bytes s
  | .audio e bytes => Sys2Proof.Machine.execAudio e bytes s
  | .controlRequestPacket e r => Sys2Proof.Machine.execControlRequestPacket e r s
  | .periodBoundary now pulse => Sys2Proof.Machine.execPeriodBoundary now pulse s
  | .advisoryRaised c attr => Sys2Proof.Machine.execAdvisoryRaised c attr s
  | .monitorSuspect c => Sys2Proof.Machine.execMonitorSuspect c s
  | .monitorFailed c => Sys2Proof.Machine.execMonitorFailed c s
  | .monitorHealthy c => Sys2Proof.Machine.execMonitorHealthy c s
  | .siteBeatExpiry => Sys2Proof.Machine.execSiteBeatExpiry s
  | .refreshTimeout c => Sys2Proof.Machine.execRefreshTimeout c s
  | .referenceLoss now => Sys2Proof.Machine.execReferenceLoss now s
  | .relockPulse now => Sys2Proof.Machine.execRelockPulse now s
  | .referenceRelock now label => Sys2Proof.Machine.execReferenceRelock now label s
  | .relockTimeout now => Sys2Proof.Machine.execRelockTimeout now s
  | .digestScanEnd c => Sys2Proof.Machine.execDigestScanEnd c s
  | .saveComplete good => Sys2Proof.Machine.execSaveComplete good s
  | .joiningStart c => Sys2Proof.Machine.execJoiningStart c s
  | .joiningTarget c => Sys2Proof.Machine.execJoiningTarget c s
  | .handbackTarget c => Sys2Proof.Machine.execHandbackTarget c s
  | .breakStart c => Sys2Proof.Machine.execBreakStart c s
  | .breakExpiry c => Sys2Proof.Machine.execBreakExpiry c s
  | .breakEnd c => Sys2Proof.Machine.execBreakEnd c s
  | .cueWindow c => Sys2Proof.Machine.execCueWindow c s
  | .lateCue c => Sys2Proof.Machine.execLateCue c s
  | .itemLost c => Sys2Proof.Machine.execItemLost c s
  | .playerRoll c p => Sys2Proof.Machine.execPlayerRoll c p s
  | .playerEnd c p => Sys2Proof.Machine.execPlayerEnd c p s
  | .stopFrame c p => Sys2Proof.Machine.execStopFrame c p s
  | .replyTimeout c p => Sys2Proof.Machine.execReplyTimeout c p s
  | .stall c p => Sys2Proof.Machine.execStall c p s
  | .probe c p => Sys2Proof.Machine.execProbe c p s
  | .cued e control => Sys2Proof.Machine.execCued e control s
  | .cueFailed e control reason => Sys2Proof.Machine.execCueFailed e control reason s
  | .stopped e control => Sys2Proof.Machine.execStopped e control s
  | .answer e control handle found length => Sys2Proof.Machine.execAnswer e control handle found length s
  | .sweepQuery c => Sys2Proof.Machine.execSweepQuery c s
  | .shadowStart c => Sys2Proof.Machine.execShadowStart c s
  | .shadowRejoin c => Sys2Proof.Machine.execShadowRejoin c s
  | .triggerAct c => Sys2Proof.Machine.execTriggerAct c s
  | .asRun => Sys2Proof.Machine.execAsRun s
  | .mirrorBatch f h seq ops => Sys2Proof.Machine.execMirrorBatch f h seq ops s
  | .refreshOpen f h seq => Sys2Proof.Machine.execRefreshOpen f h seq s
  | .refreshClose f h seq count sum => Sys2Proof.Machine.execRefreshClose f h seq count sum s
  | .digestCheck f h key count sum => Sys2Proof.Machine.execDigestCheck f h key count sum s
  | .siteBeat f h day label => Sys2Proof.Machine.execSiteBeat f h day label s
  | .handover f h day label => Sys2Proof.Machine.execHandover f h day label s
  | .handbackAsk f h target => Sys2Proof.Machine.execHandbackAsk f h target s
  | .setParam f h id value => Sys2Proof.Machine.execSetParam f h id value s
  | .getParam f h id => Sys2Proof.Machine.execGetParam f h id s
  | .flowLoad f h tag port role channel => Sys2Proof.Machine.execFlowLoad f h tag port role channel s
  | .flowClear f h tag => Sys2Proof.Machine.execFlowClear f h tag s
  | .triggerLoad f h code action => Sys2Proof.Machine.execTriggerLoad f h code action s
  | .triggerClear f h code => Sys2Proof.Machine.execTriggerClear f h code s
  | .graphicBegin f h slot width height => Sys2Proof.Machine.execGraphicBegin f h slot width height s
  | .graphicSegment f h slot offset data => Sys2Proof.Machine.execGraphicSegment f h slot offset data s
  | .graphicEnd f h slot => Sys2Proof.Machine.execGraphicEnd f h slot s
  | .windowSet f h enabled slot x y alpha blink => Sys2Proof.Machine.execWindowSet f h enabled slot x y alpha blink s
  | .takeover f h target force => Sys2Proof.Machine.execTakeover f h target force s
  | .handback f h target force => Sys2Proof.Machine.execHandback f h target force s
  | .breakIn f h handle inPoint duration mode => Sys2Proof.Machine.execBreakIn f h handle inPoint duration mode s
  | .resume f h mode => Sys2Proof.Machine.execResume f h mode s
  | .queryChannel f h => Sys2Proof.Machine.execQueryChannel f h s
  | .queryEvents f h key count => Sys2Proof.Machine.execQueryEvents f h key count s
  | .queryMonitor f h => Sys2Proof.Machine.execQueryMonitor f h s
  | .clearCounters f h => Sys2Proof.Machine.execClearCounters f h s
  | .logRead f h number count => Sys2Proof.Machine.execLogRead f h number count s
  | .logFlush f h => Sys2Proof.Machine.execLogFlush f h s
  | .saveConfig f h => Sys2Proof.Machine.execSaveConfig f h s
  | .timeSet f h day label => Sys2Proof.Machine.execTimeSet f h day label s
  | .resetPart f h => Sys2Proof.Machine.execResetPart f h s
  | .resetChannel f h n => Sys2Proof.Machine.execResetChannel f h n s
  | .partStatus f h => Sys2Proof.Machine.execPartStatus f h s
  | .powerLoss => Sys2Proof.Machine.execPowerLoss s
  | .unknownRequestCode f h code => Sys2Proof.Machine.execUnknownRequestCode f h code s

end Sys2Proof.Machine
end

