-- ==== Sys2Proof/Machine/Wire.lean ====
section
/-! DEFINITION. What leaves on the wire, byte by byte, where R200 gives the layout: the packet prefix and control
header, output frames as packets (R80), as-run records, labels, and the operations of a batch. -/

namespace Sys2Proof.Machine

open Sys2Proof

/-- `n` bytes of a number, most significant first (R200). -/
def beBytes : Nat → Nat → List Byte
  | 0, _ => []
  | n + 1, v => BitVec.ofNat 8 (v / 256 ^ n) :: beBytes n v

/-- A label's four bytes. -/
def labelBytes (l : Label) : List Byte := [l.hh, l.mm, l.ss, l.ff]

/-! ## Codes: places in the manual's lists (R200) -/

/-- The packet types. -/
inductive PktType
  | frameHeader | video | audio | control
deriving DecidableEq, Repr

/-- A packet type's code. -/
def PktType.code : PktType → Nat
  | .frameHeader => 0
  | .video => 1
  | .audio => 2
  | .control => 3

/-- A status's place in the status table, the shared rows in the order written. -/
def Status.code : Status → Nat
  | .ok => 0
  | .adjusted => 1
  | .deferred => 2
  | .duplicate => 3
  | .malformed => 4
  | .notPermitted => 5
  | .badChannel => 6
  | .badValue => 7
  | .busy => 8
  | .wrongMode => 9
  | .poolFull => 10
  | .limitReached => 11
  | .conflict => 12
  | .order => 13
  | .notFound => 14
  | .onAir => 15
  | .tooLate => 16
  | .tooSoon => 17
  | .notHealthy => 18
  | .outOfSequence => 19
  | .timeUnset => 20
  | .slotBusy => 21
  | .superseded => 22
  | .mismatch => 23
  | .aborted => 24

/-- A notice's place in the notice catalogue. -/
def Notice.code : Notice → Nat
  | .asRun _ _ _ _ _ _ => 0
  | .mode _ _ _ _ _ _ => 1
  | .monitor _ _ _ _ _ _ _ => 2
  | .advisory _ _ _ _ _ _ _ _ => 3
  | .mirror _ _ _ _ _ _ => 4
  | .player _ _ _ _ _ _ => 5
  | .trigger _ _ _ _ _ _ => 6
  | .refreshNeeded _ _ _ _ => 7
  | .reference _ _ _ _ _ _ => 8
  | .config _ _ _ => 9

/-- An as-run kind's place in the kind table. -/
def AsRunKind.code : AsRunKind → Nat
  | .itemStart => 0
  | .itemEnd => 1
  | .itemCut => 2
  | .itemLate => 3
  | .fillStart => 4
  | .fillEnd => 5
  | .substituted => 6
  | .dropped => 7
  | .scheduleEnd => 8
  | .playerFault => 9
  | .takeover => 10
  | .handback => 11
  | .handbackCancelled => 12
  | .breakStart => 13
  | .breakEnd => 14
  | .trigger => 15
  | .channelReset => 16

/-- A mode's place in the channel mode list. -/
def Mode.code : Mode → Nat
  | .mirror => 0
  | .joining => 1
  | .takeover => 2
  | .breakIn => 3
  | .returning => 4

/-- A monitor state's place. -/
def MonState.code : MonState → Nat
  | .starting => 0
  | .healthy => 1
  | .suspect => 2
  | .failed => 3
  | .recovering => 4

/-- A mirror state's place. -/
def MirrorState.code : MirrorState → Nat
  | .empty => 0
  | .current => 1
  | .syncing => 2
  | .gap => 3
  | .diverged => 4
  | .stale => 5

/-- An as-run source's place in MAIN, A, B, FILL, BREAK. -/
def AsRunSource.code : AsRunSource → Nat
  | .main => 0
  | .a => 1
  | .b => 2
  | .fill => 3
  | .brk => 4

/-- An output source's place in MAIN, A, B, HOLD, FILL. -/
def OutSource.code : OutSource → Nat
  | .main => 0
  | .a => 1
  | .b => 2
  | .hold => 3
  | .fill => 4

/-- A fill kind's place in the list of the item record. -/
def FillKind.code : FillKind → Nat
  | .gap => 0
  | .blank => 1
  | .absent => 2
  | .scheduleEnd => 3
  | .wait => 4

/-- A resume mode: WHERE_LEFT 0, ON_TIME 1. -/
def ResumeMode.code : ResumeMode → Nat
  | .whereLeft => 0
  | .onTime => 1

/-- A bit. -/
def bit (b : Bool) : Nat := if b then 1 else 0

/-- The detail of an as-run record as one number: the first part in its least significant byte, byte 25, the second
in byte 24 (R200). -/
def Detail.code : Detail → Nat
  | .zero => 0
  | .continuation => 1
  | .frames n => n
  | .fillKind k => k.code
  | .absent => 0
  | .short => 1
  | .timeout => 0
  | .stall => 1
  | .cause .auto => 0
  | .cause .manual => 1
  | .cause .planned => 2
  | .handback c force => (if c = .planned then 1 else 0) + 256 * bit force
  | .byMonitor => 0
  | .byTakeover => 1
  | .mode m => m.code
  | .breakEnd c m => (if c = .expiry then 1 else 0) + 256 * m.code
  | .outcome .done => 0
  | .outcome .late => 1
  | .outcome .missed => 2
  | .outcome .undefined => 3
  | .chMode m => m.code

/-! ## Prefix and control header -/

/-- Bytes 0 to 2: flow tag and packet type. -/
def prefixBytes (tag : Nat) (t : PktType) : List Byte := beBytes 2 tag ++ beBytes 1 t.code

/-- Control kinds: REQUEST 0, REPLY 1, NOTICE 2. -/
inductive CtlKind
  | request | reply | notice
deriving DecidableEq, Repr

/-- A control kind's code. -/
def CtlKind.code : CtlKind → Nat
  | .request => 0
  | .reply => 1
  | .notice => 2

/-- Bytes 0 to 10 of a control packet whose body has `len` bytes. -/
def controlHeader (tag : Nat) (k : CtlKind) (code reqTag channel : Nat) (st : Status) (len : Nat) : List Byte :=
  prefixBytes tag .control ++ beBytes 1 k.code ++ beBytes 1 code ++ beBytes 2 reqTag ++ beBytes 1 channel ++
    beBytes 1 st.code ++ beBytes 2 len

/-- The header of a reply or a notice that the part sends; a notice carries its number in the request tag field and
status OK (R190). Essence and player requests have no header of this form here (log entry 10). -/
def Sent.controlHeader (x : Sent) (len : Nat) : Option (List Byte) :=
  match x.what with
  | .reply _ code tag channel st _ => some (Machine.controlHeader x.tag .reply code tag channel st len)
  | .notice _ number channel n => some (Machine.controlHeader x.tag .notice n.code number channel .ok len)
  | _ => none

/-! ## Output frames (R80, R168, R170) -/

/-- A cue entry: 18 bytes, its payload filled with zeros to 16. -/
def cueBytes (c : Cue) : List Byte :=
  beBytes 1 c.code ++ beBytes 1 c.payload.length ++ c.payload ++ List.replicate (16 - c.payload.length) 0

/-- The FRAME_HEADER packet of an output frame. A packet count above 65,535 is written mod 65536 (log entry 62). -/
def headerBytes (tag : Nat) (f : OutFrame) : List Byte :=
  let st := f.stamp.getD { event := 0, offset := 0, pass := 0 }
  prefixBytes tag .frameHeader ++ beBytes 2 f.count ++ labelBytes f.label ++ beBytes 2 f.day ++
    beBytes 1 (bit f.stamp.isSome + 2 + 4 * bit f.standby) ++ beBytes 1 st.pass ++ beBytes 4 st.event ++
    beBytes 4 st.offset ++ beBytes 6 f.hfn ++ beBytes 4 f.counter ++ beBytes 1 f.source.code ++
    beBytes 1 f.cues.length ++ f.cues.flatMap cueBytes

/-- The VIDEO packet of a line, with all 3,840 positions (R80); its unit index is the line's number. -/
def lineBytes (tag : Nat) (p : Picture) (line : Nat) : List Byte :=
  prefixBytes tag .video ++ beBytes 2 line ++ beBytes 2 line ++ beBytes 2 0 ++ beBytes 2 3840 ++
    (List.range 3840).flatMap fun pos => beBytes 2 (p.read (picKey line pos)).toNat

/-- The AUDIO packet of number `i`: 1,920 samples, or those that remain (R80). A unit index above 65,535 is written mod 65536
(log entry 62). -/
def soundBytes (tag : Nat) (sound : List (BitVec 24)) (i : Nat) : List Byte :=
  let xs := (sound.drop (1920 * i)).take 1920
  prefixBytes tag .audio ++ beBytes 2 (1080 + i) ++ beBytes 2 xs.length ++ xs.flatMap fun v => beBytes 3 v.toNat

/-- An output frame's packets, in order (R80). -/
def framePackets (tag : Nat) (f : OutFrame) : List (List Byte) :=
  headerBytes tag f :: (List.range 1080).map (lineBytes tag f.picture) ++
    (List.range ((f.sound.length + 1919) / 1920)).map (soundBytes tag f.sound)

/-! ## As-run records -/

/-- The 28 bytes of a record; trigger code 0x0100 stands for none. -/
def recordBytes (r : AsRunRec) : List Byte :=
  beBytes 4 r.number ++ beBytes 6 r.body.hfn.toNat ++ beBytes 1 r.body.channel ++ beBytes 1 r.body.kind.code ++
    beBytes 4 r.body.event ++ beBytes 1 r.body.pass ++ beBytes 1 r.body.source.code ++ beBytes 4 r.body.offset.toNat ++
    beBytes 4 r.body.detail.code ++ beBytes 2 (r.body.trigger.getD 0x0100)

/-! ## Batch operations -/

/-- A PUT's record bytes. -/
def putBytes (p : Put) : List Byte :=
  beBytes 4 p.id ++ beBytes 4 p.key ++ beBytes 1 p.timing ++ beBytes 1 p.action ++ beBytes 1 p.passes ++
    beBytes 1 p.triggers.length ++ beBytes 2 p.day ++ labelBytes p.label ++ beBytes 4 p.duration ++ beBytes 4 p.clip ++
    beBytes 4 p.inPoint ++ beBytes 4 p.subst ++ p.triggers.flatMap fun t => beBytes 1 t.1 ++ beBytes 4 t.2

/-- An operation's bytes. -/
def opBytes : BatchOp → List Byte
  | .put p => beBytes 1 0 ++ putBytes p
  | .remove id => beBytes 1 1 ++ beBytes 4 id

/-- Every field of an operation fits its bytes. -/
def BatchOp.fits : BatchOp → Bool
  | .put p =>
    decide (p.id < two32) && decide (p.key < two32) && decide (p.timing < 256) && decide (p.action < 256) &&
      decide (p.passes < 256) && decide (p.triggers.length < 256) && decide (p.day < two16) &&
      decide (p.duration < two32) && decide (p.clip < two32) && decide (p.inPoint < two32) && decide (p.subst < two32) &&
      p.triggers.all fun t => decide (t.1 < 256) && decide (t.2 < two32)
  | .remove id => decide (id < two32)

end Sys2Proof.Machine
end

