-- ==== Sys2Proof/Safety.lean ====
section
/-! DEFINITION. What the statements say of a state: whose turn a request is, what is left alone, what is replied, and
the invariants of the part. -/

namespace Sys2Proof.Machine

open Sys2Proof

/-! ## Requests -/

/-- A request's turn has come (R190, R191): the part has power, the stated body length lies inside the packet, the
flow may make the request, and it stands at the front of its flow's queue or nothing waits there. -/
def Turn (f : CtlFlow) (h : Head) (b : ReqBody) (s : State) : Prop :=
  s.powered = true ∧ h.bodyLen ≤ h.present ∧ reqFlow b = f ∧ ReqBody.known b = true ∧
    (s.inbound f = [] ∨ (s.inbound f).head? = some { head := h, body := b })

/-- The queue a taken request leaves. -/
def afterTurn (f : CtlFlow) (s : State) : State := s.setInbound ((s.inbound f).drop 1) f

/-- What leaves on an address: one packet, or nothing without an entry or while its link is DOWN (R80). -/
def leaves (s : State) (addr : Option (Port × Nat)) (o : Outgoing) : List Sent :=
  match addr with
  | some (p, tag) => if s.ports[p].up then [{ port := p, tag := tag, what := o }] else []
  | none => []

/-- What a reply puts on the wire, on its flow's entry (R80, R190). -/
def replyPackets (s : State) (f : CtlFlow) (h : Head) (b : ReqBody) (a : Answer) : List Sent :=
  leaves s (s.ctlAddr f) (.reply f (reqCode b) h.tag h.channel a.1 a.2)

/-- What a notice puts on the wire, on its flow's entry (R80, R188). -/
def noticePackets (s : State) (f : CtlFlow) (number channel : Nat) (n : Notice) : List Sent :=
  leaves s (s.ctlAddr f) (.notice f number channel n)

/-- The address of a player's entry (R66). -/
def playerAddr (s : State) (c : Ch) (p : PlayerId) : Option (Port × Nat) :=
  (entryByRole s.flows (playerRole p) (some c)).map fun e => (e.port, e.tag)

/-- A request's header names channel `c`. -/
def Names (h : Head) (c : Ch) : Prop := h.channel = c.val

/-! ## What is left alone -/

/-- Everything of the part but the channels, the log, the notice numbers and the wire is as it was. -/
def PartKept (s t : State) : Prop :=
  t.powered = s.powered ∧ t.time = s.time ∧ t.ports = s.ports ∧ t.flows = s.flows ∧ t.params = s.params ∧
    t.table = s.table ∧ t.graphics = s.graphics ∧ t.beat = s.beat ∧ t.expired = s.expired ∧ t.inMain = s.inMain ∧
    t.inLocal = s.inLocal ∧ t.source = s.source ∧ t.flash = s.flash ∧ t.save = s.save ∧ t.lastSave = s.lastSave ∧
    t.resetNotices = s.resetNotices ∧ t.defaultedNotice = s.defaultedNotice ∧ t.draws = s.draws ∧ t.pending = s.pending

/-- The channels other than `c` are as they were. -/
def OthersKept (c : Ch) (s t : State) : Prop := ∀ d : Ch, d ≠ c → t.chans[d] = s.chans[d]

/-- The channel's state that the Sequencer, the Trigger Unit and the Channel Controller never write: the mirror
record, the intake, the monitor, and the output but for its window and cues. -/
def W.still (w : W) : Mirror × Intake × Monitor × Nat × Option HeldFrame × Nat × OutSource × Bool × Nat :=
  (w.ch.mirror, w.ch.intake, w.ch.mon, w.ch.out.counter, w.ch.out.held, w.ch.out.holdRun, w.ch.out.last,
    w.ch.out.lastIdent, w.ch.out.lastCues)

/-- The Channel Controller's state that the Sequencer and the Trigger Unit never write: all but the handed landing. -/
def W.rule (w : W) :
    Mode × Option Switch × Option Saved × MonState × Option PendingBreak × Option Resume × Option Frame :=
  (w.ch.ctl.mode, w.ch.ctl.switch, w.ch.ctl.ctx, w.ch.ctl.monitor, w.ch.ctl.pendingBreak, w.ch.ctl.resume, w.ch.ctl.expiry)

/-! ## What a channel's blocks do, and what arrives -/

/-- A channel as a command finds it, with nothing handed on yet. -/
def begun (s : State) (c : Ch) : W := { ch := s.chans[c], fx := [] }

/-- What an operation leaves of a channel, with what it hands on. -/
def ranCh (c : Ch) (op : Env → W → W) (s : State) : W := op (envOf s c) (begun s c)

/-- A channel as a player's reply finds it: the flight has ended (R106). -/
def answeredBy (s : State) (c : Ch) (p : PlayerId) : W := (begun s c).modPlayer p fun x => { x with flight := none }

/-- A DECISIVE record of a channel has its run at its threshold (R90). -/
def DecisiveReached (s : State) (c : Ch) : Prop :=
  ∃ i : Fin 8, (s.params.chans[c].attrs[i]).cls = .decisive ∧
    (s.params.chans[c].attrs[i]).threshold ≤ (s.chans[c].mon.attrs[i]).run

/-- A DECISIVE record of a channel has a run above 0 (R90). -/
def DecisiveShows (s : State) (c : Ch) : Prop :=
  ∃ i : Fin 8, (s.params.chans[c].attrs[i]).cls = .decisive ∧ 0 < (s.chans[c].mon.attrs[i]).run

/-- An event of one channel: nothing else of the part moves but the log, the notice numbers and the wire, and of the channel
the intake and what the output holds stand. -/
def Within (c : Ch) (s t : State) : Prop :=
  PartKept s t ∧ OthersKept c s t ∧ t.chans[c].intake = s.chans[c].intake ∧
    t.chans[c].out.counter = s.chans[c].out.counter ∧ t.chans[c].out.held = s.chans[c].out.held ∧
    t.chans[c].out.holdRun = s.chans[c].out.holdRun

/-- A frame passes the checks of R65 and the lookup of R66 gives entry `x`. -/
def Routed (s : State) (e : Eth) (x : FlowEntry) (k : PktKind) : Prop :=
  s.powered = true ∧ s.ports[e.port].up = true ∧ e.fcsOk = true ∧ e.length ≤ 9216 ∧
    e.etherType = s.params.part.etherType ∧ kindOf e = some k ∧ entryByTag s.flows (flowTag e) = some x ∧
    x.port = e.port ∧ routed x.role k = true

/-- A reply of a player arrives for the request that player has in flight (R66, R106). -/
def InFlight (s : State) (e : Eth) (c : Ch) (p : PlayerId) (f : Flight) : Prop :=
  ∃ x, Routed s e x .reply ∧ x.channel = some c ∧ rolePlayer x.role = some p ∧
    (s.chans[c].seq.player p).flight = some f ∧ f.tag = requestTag e

/-- The cue that a player has in flight was cancelled: the record no longer waits for it, or a later CUE waits behind it (R107,
R108, R148). -/
def CueCancelled (x : Player) : Prop := x.state ≠ .cueing ∨ x.loaded = none ∨ ∃ q ∈ x.queue, q.2.isCue = true

/-- A source's packet of type `t` arrives: the source that the entry's role and channel name (R66, R200). -/
def Feeds (s : State) (e : Eth) (t : Nat) (c : Ch) (k : SrcId) : Prop :=
  ∃ x, Routed s e x .essence ∧ packetType e = t ∧ x.channel = some c ∧ roleSource x.role = some k

/-- A pulse's label that R12 and R14 can use: readable, valid and existing under the rate code (R4, R5). -/
def UsableLabel (rc : RateCode) (l : RefLabel) (x : Label) : Prop :=
  l = some x ∧ labelValid rc x = true ∧ labelExists rc x = true

/-- An attribute of a channel is held in the period (R85): it can be judged neither way. -/
def HeldNow (s : State) (c : Ch) (a : Fin 8) : Prop :=
  (s.chans[c].intake.takeMain = none ∧ (a = 1 ∨ a = 2 ∨ a = 3 ∨ a = 5)) ∨
    (a = 5 ∧ ∃ f, s.chans[c].intake.takeMain = some f ∧ f.hdr.stamp = none)

/-- The intake after the takes of period `n` (R76, R77). -/
def Intake.taken (depth n : Nat) (i : Intake) : Intake :=
  { mainTake depth i with a := (playerTake n i.a).1, takeA := (playerTake n i.a).2,
                          b := (playerTake n i.b).1, takeB := (playerTake n i.b).2 }

/-- A channel's frame of the period and the output block after it: the frame leaves on the OUTPUT entry where that has a
link (R80, R164). -/
def FrameLeaves (s t : State) (c : Ch) (r : OutFrame × Out) : Prop :=
  t.chans[c].out = r.2 ∧
    ∀ e : FlowEntry, entryByRole s.flows .output (some c) = some e → s.ports[e.port].up = true →
      { port := e.port, tag := e.tag, what := .frame c r.1 } ∈ t.sent

/-- The part `u` as channel `c` finds it at its turn in the period that takes `s` to `t` (log entry 3): the time and the
configuration of the period, its frame not yet built, the site beat timer judged, and the channel as `s` left it but that its
CURRENT mirror is STALE when the timer has just expired (R59, R95). -/
def AtTurn (s t u : State) (c : Ch) : Prop :=
  u.time = { t.time with built := false } ∧ u.params = s.params ∧ u.table = s.table ∧ u.expired = t.expired ∧
    (s.expired = true ∨ t.expired = false ∨ s.chans[c].mirror.state ≠ .current → u.chans[c] = s.chans[c]) ∧
    (s.expired = false → t.expired = true → s.chans[c].mirror.state = .current →
      u.chans[c] = { s.chans[c] with mirror := { s.chans[c].mirror with state := .stale } })

/-- A channel after its work of a period, but for its frame: the counts, the items that leave and go on the air, the takes and
the evaluation, and what falls due (R49, R84, R103 to R112, R118 to R121, R137 to R155, R160; log entry 3). -/
def workedChan (s u : State) (c : Ch) : Chan := (ranCh c (chanPeriod (badReport s c)) u).ch

/-- What every period does to the part besides its number (R67, R76, R77, R95, R164, R168, R182): the bad-frame marks are
cleared, the log tick and the site beat timer advance, every channel's frame counter goes up by one, and each channel's
frame of the period leaves on its OUTPUT entry where that has a link. Each channel does the period's work of every unit that
works each period, over the part as its turn finds it: its takes are those of the new number, everything of it but the
output block is as that work leaves it, and its frame and output block are those that its state then gives. -/
def PeriodDone (s t : State) : Prop :=
  t.time.built = true ∧ (∀ p : Port, t.ports[p].mark = false) ∧ t.log.tick = (s.log.tick + 1) % two32 ∧
    (∀ c : Ch, t.chans[c].out.counter = (s.chans[c].out.counter + 1) % two32) ∧
    (s.expired = true → t.expired = true ∧ t.beat = s.beat) ∧
    (s.expired = false → s.beat + 1 < s.params.part.siteBeatTimeout → t.expired = false ∧ t.beat = s.beat + 1) ∧
    (s.expired = false → s.params.part.siteBeatTimeout ≤ s.beat + 1 →
      t.expired = true ∧ t.beat = s.params.part.siteBeatTimeout) ∧
    (∀ (c : Ch) (e : FlowEntry), entryByRole s.flows .output (some c) = some e → s.ports[e.port].up = true →
      ∃ f : OutFrame, { port := e.port, tag := e.tag, what := .frame c f } ∈ t.sent ∧ f.hfn = t.time.hfn ∧
        f.counter = s.chans[c].out.counter) ∧
    ∀ c : Ch, t.chans[c].intake = s.chans[c].intake.taken s.params.chans[c].alignDepth t.time.hfn ∧
      ∃ (u : State) (d : Chan), AtTurn s t u c ∧ d = workedChan s u c ∧ t.chans[c] = { d with out := t.chans[c].out } ∧
        d.out.counter = s.chans[c].out.counter ∧ d.out.held = s.chans[c].out.held ∧ d.out.holdRun = s.chans[c].out.holdRun ∧
        FrameLeaves s t c (buildOut s.graphics (envOf t c) d)

/-! ## Operations of a batch, and triggers -/

/-- A PUT that has been applied to give list `l` in place of `old` comes too late for the CURRENT generation (R27). -/
def TooLate (env : Env) (c : Chan) (p : Put) (l : List Event) (old : Option Event) : Prop :=
  (∀ o, old = some o → o.lifecycle ≠ .onAir) ∧
    ((∃ a k, c.store.anchor = some a ∧ c.store.anchorKey = some k ∧ p.id ≠ a.event ∧ p.key < k) ∨
     (∃ x r, (({ c.store with current := l }).resolve (resCtx env c)).event p.id = some x ∧ x.res = some r ∧
        r.stop ≤ env.now) ∨
     (∃ o r, old = some o ∧ o.lifecycle = .cued ∧ o.res = some r ∧ r.start < env.now + env.cp.lead))

/-- What a record keeps for as long as its generation holds it and no operation names it: its id, its place, its timing and
its length (R20, R31). -/
def Event.core (e : Event) : Nat × Nat × Option Nat × Nat × Nat := (e.id, e.key, e.fixed, e.duration, e.passes)

/-- A TRIGGER record of an entry of the pending list (R162). -/
def W.outcome (env : Env) (x : PendTrig) (o : TrigOutcome) (w : W) : W :=
  w.emit (.record { hfn := env.now, channel := env.ch.val, kind := .trigger, event := x.event, pass := x.pass,
                    offset := x.offset, source := x.source, detail := .outcome o, trigger := some x.code })

/-- An entry leaves the pending list. -/
def W.without (x : PendTrig) (w : W) : W := w.modTrig fun l => { l with pending := l.pending.erase x }

/-- The due entries of the pending list, in its order (R160). -/
def W.due (env : Env) (w : W) : List PendTrig := w.ch.trig.pending.filter fun x => decide (x.insertion ≤ env.now)

/-! ## The ident -/

/-- The graphic that the ident window shows (R172, R173): the window is enabled, its slot READY, and the blink shows it. -/
def IdentShows (gs : Vector Graphic 16) (x : Window) (g : Graphic) : Prop :=
  x.enabled = true ∧ (∃ k : Fin 16, x.slot = k.val ∧ gs[k] = g) ∧ g.state = .ready ∧ (x.blink = 0 ∨ x.phase < x.blink)

/-- A picture with the ident drawn over it where it is shown (R172). -/
def Drawn (gs : Vector Graphic 16) (x : Window) (base pic : Picture) : Prop :=
  (∀ g, IdentShows gs x g → pic = drawGraphic g x.x x.y (blend x.alpha) base) ∧ ((∀ g, ¬ IdentShows gs x g) → pic = base)

/-- The part's blocks right after a part reset from an image, with the links as `up` says (R14, R18, R42, R64, R82, R100,
R125, R147, R163, R178, R189, R196, R197). -/
def ResetBlocks (up : Port → Bool) (img : Image) (t : State) : Prop :=
  t.time = TimeBase.reset img.load.1.params.part.rate ∧ (∀ p : Port, t.ports[p] = PortState.reset (up p)) ∧
    t.flows = img.load.1.flows ∧ t.params = img.load.1.params ∧ t.table = img.load.1.table ∧ t.source = img.load.2 ∧
    (∀ c : Ch, t.chans[c] = Chan.reset) ∧ (∀ k : Fin 16, t.graphics[k] = Graphic.reset) ∧ t.beat = 0 ∧ t.expired = false ∧
    t.log = Log.reset ∧ t.inMain = [] ∧ t.inLocal = [] ∧ t.flash = img ∧ t.save = none ∧ t.lastSave = .none

/-- The retained image after a write in progress, if any, is abandoned (R195). -/
def Abandoned (s : State) (img : Image) : Prop :=
  (s.save = none → img = s.flash) ∧ (s.save ≠ none → img = .blank ∨ img = .bad)

/-- Only the command's own reply, and what stands before it, joins what has been sent. -/
def Replies (s t : State) (f : CtlFlow) (h : Head) (b : ReqBody) (a : Answer) : Prop :=
  ∃ u, t.sent = s.sent ++ u ++ replyPackets s f h b a

/-! ## Invariants -/

/-- The Time Base (R10, R11, R14): the relock count is 0 to 8 and counts only in FREE_RUN; a slip run is open only
while LOCKED; neither runs during the wait. -/
def TimeOk (t : TimeBase) : Prop :=
  t.relock ≤ 8 ∧ (t.refState = .locked → t.relock = 0) ∧ (t.slipRun = true → t.refState = .locked) ∧
    (t.waiting = true → t.relock = 0 ∧ t.slipRun = false)

/-- The inbound queues hold at most 8 requests and the notice numbers are 16-bit (R188, R191). -/
def FlowsOk (s : State) : Prop :=
  s.inMain.length ≤ 8 ∧ s.inLocal.length ≤ 8 ∧ s.nextMain < two16 ∧ s.nextLocal < two16

/-- The as-run ring (R181): at most 1024 records with consecutive record numbers, the newest one below the counter,
the unreported ones among them. -/
def LogOk (l : Log) : Prop :=
  l.ring.length ≤ 1024 ∧ l.unreported ≤ l.ring.length ∧ l.counter < two32 ∧
    l.ring.map (·.number) = (List.range l.ring.length).map fun i => (l.counter + two32 - l.ring.length + i) % two32

/-- The flow table (R69): unique tags and roles, at most 64 entries, the bootstrap entry among them. -/
def FlowTableOk (fl : List FlowEntry) : Prop :=
  flowsUnique fl = true ∧ fl.all flowFormed = true ∧ fl.length ≤ 64 ∧ fl.any (fun e => decide (e.role = .localCtl)) = true

/-- The trigger table (R156): codes 6 to 255, rising, each with an action within its ranges. -/
def TableOk (t : List (Nat × TrigAction)) : Prop := t.all loadable = true ∧ cellsRise t = true

/-- The configuration in use could be a retained image: parameters in range, the two tables as above. -/
def ConfigOk (s : State) : Prop := s.params.inRange = true ∧ FlowTableOk s.flows ∧ TableOk s.table

/-- A graphic slot (R174 to R176): bytes at rising positions below bytes expected, all of them when READY. -/
def GraphicOk (g : Graphic) : Prop :=
  cellsRise g.bytes = true ∧ (∀ x ∈ g.bytes, x.1 < g.expected) ∧ (g.state = .ready → g.bytes.length = g.expected)

/-- A source of essence (R74, R75): at most 4 frames in the FIFO, every picture in its one form, the open assembly
still short of its units. -/
def SourceOk (x : Source) : Prop :=
  x.fifo.length ≤ 4 ∧ (∀ f ∈ x.fifo, Picture.wf f.picture = true) ∧
    (∀ a ∈ x.asm, Picture.wf a.picture = true ∧ a.units.Nodup ∧ (∀ u ∈ a.units, u < a.hdr.count) ∧
      a.units.length < a.hdr.count)

/-- The three sources of a channel. -/
def IntakeOk (i : Intake) : Prop := SourceOk i.main ∧ SourceOk i.a ∧ SourceOk i.b

/-- A generation in order (R20): order keys ascend, ids differ, and FIXED start frames ascend with the keys. -/
def Ordered (l : List Event) : Prop :=
  l.Pairwise (fun x y => x.key < y.key) ∧ (l.map (·.id)).Nodup ∧
    l.Pairwise (fun x y => ∀ a b, x.fixed = some a → y.fixed = some b → a < b)

/-- A channel's store (R20, R22, R23, R38): both generations in order, the orphan alone with lifecycle ORPHAN, the records of
the REFRESH generation PENDING and its digest pair theirs. -/
def StoreOk (t : Store) : Prop :=
  Ordered t.current ∧ (∀ e ∈ t.current, e.lifecycle ≠ .orphan) ∧ (∀ o ∈ t.orphan, o.lifecycle = .orphan) ∧
    ∀ r ∈ t.refresh, Ordered r.events ∧ (∀ e ∈ r.events, e.lifecycle = .pending) ∧ (r.count, r.sum) = digestOf r.events

/-- The orphan's id stands neither in CURRENT nor in REFRESH: it has no second record (R20, R22, R24). -/
def OrphanApart (t : Store) : Prop :=
  ∀ o ∈ t.orphan, (∀ e ∈ t.current, e.id ≠ o.id) ∧ ∀ r ∈ t.refresh, ∀ e ∈ r.events, e.id ≠ o.id

/-- The event pool (R19, R20): the channels together hold at most the 4096 records it has, and no channel holds its orphan's
id twice. -/
def PoolOk (s : State) : Prop := s.heldAll ≤ 4096 ∧ ∀ c : Ch, OrphanApart s.chans[c].store

/-- The channel modes and what stands in each (R127, R143, R148, R150, R153): a saved context exactly in BREAK_IN, a
pending break-in only in TAKEOVER, a resume or an expiry only in BREAK_IN, a TAKEOVER switch in MIRROR or JOINING (always in
JOINING), a HANDBACK switch exactly in RETURNING. -/
def ModeOk (c : Ctl) : Prop :=
  (c.ctx.isSome = true ↔ c.mode = .breakIn) ∧ (c.pendingBreak.isSome = true → c.mode = .takeover) ∧
    (c.resume.isSome = true → c.mode = .breakIn) ∧ (c.expiry.isSome = true → c.mode = .breakIn) ∧
    (c.mode = .joining → c.switch.isSome = true) ∧ (c.mode = .returning → c.switch.isSome = true) ∧
    (∀ s ∈ c.switch, (s.kind = .takeover ∧ (c.mode = .mirror ∨ c.mode = .joining)) ∨
      (s.kind = .handback ∧ c.mode = .returning))

end Sys2Proof.Machine
end

