-- ==== Sys2Proof/WellFormed.lean ====
section
/-! DEFINITION. Which commands the outside world can form: every operand fits the field that carries it
(R190, R200, R65). The machine answers ill-formed commands too; nothing rests on this check. -/

namespace Sys2Proof

/-- A field of `n` bits holds the value. -/
abbrev fits (n v : Nat) : Bool := decide (v < 2 ^ n)

/-- An Ethernet frame (R65, R200): a 16-bit EtherType, and the packet's first bytes, 0 to 2 at least, and to 10 for a
CONTROL packet. -/
def Eth.wellFormed (e : Eth) : Bool :=
  fits 16 e.etherType && decide (3 ≤ e.head.length) && (e.head[2]? != some 3 || decide (e.head.length = 11))

/-- The packet's type byte is that of the command that brings it, and for CONTROL the kind byte (R200). -/
def Eth.spells (type_ : Byte) (kind : Option Byte) (e : Eth) : Bool :=
  decide (e.head[2]? = some type_) && (match kind with | some k => decide (e.head[3]? = some k) | none => true)

/-- A request's control header (R190, R200): 16-bit tag, 8-bit channel, 16-bit body length. -/
def Head.wellFormed (h : Head) : Bool := fits 16 h.tag && fits 8 h.channel && fits 16 h.bodyLen

/-- A target's day is a 16-bit number (R8). -/
def Target.wellFormed : Target → Bool
  | .asap => true
  | .at day _ => fits 16 day

/-- What a TRIGGER_LOAD carries (R156): one-byte fields. -/
def LoadAction.wellFormed : LoadAction → Bool
  | .outputCue p adv => fits 8 p.length && fits 16 adv
  | .ident slot _ => fits 8 slot
  | .notify => true
  | .other => true

/-- A parameter's attribute number is one byte, a trigger code at most 16 bits (R193, R194). -/
def ParamId.wellFormed : ParamId → Bool
  | .part _ => true
  | .chan (.attrClass n) => fits 8 n
  | .chan (.attrThreshold n) => fits 8 n
  | .chan _ => true
  | .trigger code => fits 16 code
  | .unknown => true

/-- The fields of a request body. A break-in's duration is 1 to 16,777,215 or OPEN in the state table of
chapter 8 (log entry 32). -/
def ReqBody.wellFormed : ReqBody → Bool
  | .mirrorBatch seq _ => fits 16 seq
  | .refreshOpen seq => fits 16 seq
  | .refreshClose seq count sum => fits 16 seq && fits 32 count && fits 32 sum
  | .digestCheck key count sum => fits 32 key && fits 32 count && fits 32 sum
  | .siteBeat day _ => fits 16 day
  | .handover day _ => fits 16 day
  | .handbackAsk t => t.wellFormed
  | .setParam id v => id.wellFormed && fits 32 v
  | .getParam id => id.wellFormed
  | .flowLoad tag port _ ch => fits 16 tag && fits 8 port && fits 8 ch
  | .flowClear tag => fits 16 tag
  | .triggerLoad code a => fits 8 code && a.wellFormed
  | .triggerClear code => fits 8 code
  | .graphicBegin slot w h => fits 8 slot && fits 16 w && fits 16 h
  | .graphicSegment slot off d => fits 8 slot && fits 32 off && fits 16 d.length
  | .graphicEnd slot => fits 8 slot
  | .windowSet _ slot x y a b => fits 8 slot && fits 16 x && fits 16 y && fits 8 a && fits 8 b
  | .takeover t _ => t.wellFormed
  | .handback t _ => t.wellFormed
  | .breakIn h i d _ => fits 32 h && fits 32 i && (match d with | some n => fits 24 n | none => true)
  | .resume _ => true
  | .queryChannel => true
  | .queryEvents key count => fits 32 key && fits 8 count
  | .queryMonitor => true
  | .clearCounters => true
  | .logRead n count => fits 32 n && fits 8 count
  | .logFlush => true
  | .saveConfig => true
  | .timeSet day _ => fits 16 day
  | .resetPart => true
  | .resetChannel n => fits 8 n
  | .partStatus => true
  | .unknown code => decide (31 ≤ code) && fits 8 code

/-- The bytes of the field that ends a body and has no length of its own (R44, R175). -/
def ReqBody.tail : ReqBody → List Byte
  | .mirrorBatch _ ops => ops
  | .graphicSegment _ _ data => data
  | _ => []

/-- The packet holds its body's last field (R190). -/
def ReqBody.heldIn (b : ReqBody) (present : Nat) : Bool := decide (b.tail.length ≤ present)

/-- The request a row names, with its flow, where the row is a request taken. -/
def Instr.request : Instr → Option (CtlFlow × Request)
  | .mirrorBatch f h s o => some (f, ⟨h, .mirrorBatch s o⟩)
  | .refreshOpen f h s => some (f, ⟨h, .refreshOpen s⟩)
  | .refreshClose f h s c m => some (f, ⟨h, .refreshClose s c m⟩)
  | .digestCheck f h k c m => some (f, ⟨h, .digestCheck k c m⟩)
  | .siteBeat f h d l => some (f, ⟨h, .siteBeat d l⟩)
  | .handover f h d l => some (f, ⟨h, .handover d l⟩)
  | .handbackAsk f h t => some (f, ⟨h, .handbackAsk t⟩)
  | .setParam f h i v => some (f, ⟨h, .setParam i v⟩)
  | .getParam f h i => some (f, ⟨h, .getParam i⟩)
  | .flowLoad f h t p r c => some (f, ⟨h, .flowLoad t p r c⟩)
  | .flowClear f h t => some (f, ⟨h, .flowClear t⟩)
  | .triggerLoad f h c a => some (f, ⟨h, .triggerLoad c a⟩)
  | .triggerClear f h c => some (f, ⟨h, .triggerClear c⟩)
  | .graphicBegin f h s w t => some (f, ⟨h, .graphicBegin s w t⟩)
  | .graphicSegment f h s o d => some (f, ⟨h, .graphicSegment s o d⟩)
  | .graphicEnd f h s => some (f, ⟨h, .graphicEnd s⟩)
  | .windowSet f h e s x y a b => some (f, ⟨h, .windowSet e s x y a b⟩)
  | .takeover f h t o => some (f, ⟨h, .takeover t o⟩)
  | .handback f h t o => some (f, ⟨h, .handback t o⟩)
  | .breakIn f h n i d m => some (f, ⟨h, .breakIn n i d m⟩)
  | .resume f h m => some (f, ⟨h, .resume m⟩)
  | .queryChannel f h => some (f, ⟨h, .queryChannel⟩)
  | .queryEvents f h k c => some (f, ⟨h, .queryEvents k c⟩)
  | .queryMonitor f h => some (f, ⟨h, .queryMonitor⟩)
  | .clearCounters f h => some (f, ⟨h, .clearCounters⟩)
  | .logRead f h n c => some (f, ⟨h, .logRead n c⟩)
  | .logFlush f h => some (f, ⟨h, .logFlush⟩)
  | .saveConfig f h => some (f, ⟨h, .saveConfig⟩)
  | .timeSet f h d l => some (f, ⟨h, .timeSet d l⟩)
  | .resetPart f h => some (f, ⟨h, .resetPart⟩)
  | .resetChannel f h n => some (f, ⟨h, .resetChannel n⟩)
  | .partStatus f h => some (f, ⟨h, .partStatus⟩)
  | .unknownRequestCode f h c => some (f, ⟨h, .unknown c⟩)
  | _ => none

/-- The Ethernet frame a row brings, with its control header where it has one, where the row is an arrival. -/
def Instr.arrival : Instr → Option Eth
  | .frameDrop e k _ => some (e.carrying k)
  | .frameHeader e _ => some e
  | .video e _ => some e
  | .audio e _ => some e
  | .controlRequestPacket e r => some (e.carrying r.control)
  | .cued e k => some (e.carrying k)
  | .cueFailed e k _ => some (e.carrying k)
  | .stopped e k => some (e.carrying k)
  | .answer e k _ _ _ => some (e.carrying k)
  | _ => none

/-- What a row carries besides a request or a frame. -/
def Instr.fieldsFit : Instr → Bool
  | .frameHeader e _ => e.spells 0 none
  | .video e _ => e.spells 1 none
  | .audio e _ => e.spells 2 none
  | .controlRequestPacket e r => (e.carrying r.control).spells 3 (some 0) && fits 16 r.present && r.body.wellFormed && r.body.heldIn r.present
  | .cued e k => (e.carrying k).spells 3 (some 1)
  | .cueFailed e k _ => (e.carrying k).spells 3 (some 1)
  | .stopped e k => (e.carrying k).spells 3 (some 1)
  | .answer e k h _ n => (e.carrying k).spells 3 (some 1) && fits 32 h && fits 32 n
  | _ => true

/-- A command is well-formed. -/
def Instr.wellFormed (i : Instr) : Bool :=
  (match i.request with | some (_, r) => r.head.wellFormed && r.body.wellFormed && r.body.heldIn r.head.present | none => true) &&
    (match i.arrival with | some e => e.wellFormed | none => true) && i.fieldsFit

end Sys2Proof
end

