-- ==== Sys2Proof/Certificates/Slice0/Obligations.lean ====
section
/-! DEFINITION. The statements about the K208: what a step does, what each command does when it completes, and what every
step keeps. -/

open Sys2Proof Sys2Proof.Machine

/-! ## Steps and resets -/

/-- A step runs the command at the front of the queue with the queue's rest; on an empty queue the part idles (log entry 1). -/
def Obligations.StepRunsTheFrontCommand : Prop :=
  (∀ (c : Instr) (rest : List Instr) (s : State), s.pending = c :: rest → step s = exec c { s with pending := rest }) ∧
    ∀ s : State, s.pending = [] → step s = .next s

/-- Every command answers a next state in every state, leaves the queue alone, and takes nothing back that has been sent. The
spec gives no command a stop: that is the model's reading (log entry 34, DEDUCED), and what has been sent is the model's own
field (log entry 9). -/
def Obligations.EveryCommandAnswersNext : Prop :=
  ∀ (i : Instr) (s : State), ∃ t, exec i s = .next t ∧ t.pending = s.pending ∧ s.sent <+: t.sent

/-- Without power no command but POWER_ON has an effect (log entry 14). -/
def Obligations.UnpoweredCommandsHaveNoEffect : Prop :=
  ∀ (i : Instr) (s : State), s.powered = false → i ≠ .powerOn → exec i s = .next s

/-- POWER_ON and RESET_PIN reset the whole part with every link DOWN (R197), and both sets of start-up notices wait
(R64, R196). Of what ResetBlocks fixes, these values are the model's choice and no rule of the spec: the reference state LOCKED and HFN 0 in
the wait (log entry 6), the last boundary at 0 (log entry 4), each output's last identification and cues (log entry 33) and each
intake's takes (log entry 50). The second clause is the model's own: State.reset is the part powered on with a blank flash (log entry
13). -/
def Obligations.PowerOnAndResetPinResetThePart : Prop :=
  (∀ (i : Instr) (s : State), i = .powerOn ∨ (i = .resetPin ∧ s.powered = true) →
    ∃ img t, Abandoned s img ∧ exec i s = .next t ∧ ResetBlocks (fun _ => false) img t ∧ t.powered = true ∧
      t.nextMain = 0 ∧ t.nextLocal = 0 ∧ t.resetNotices = true ∧
      (t.defaultedNotice = true ↔ img.load.2 ≠ .image) ∧ t.sent = s.sent ∧ t.pending = s.pending) ∧
  ∀ s : State, s.flash = .blank → s.save = none → s.sent = [] → s.draws = 0 → s.pending = [] →
    exec .powerOn s = .next State.reset

/-- RESET(PART) is answered OK first; then the part is reset with its links kept, and its notices are made where they can
be sent: eight on MAIN_CTL, and CONFIG DEFAULTED on LOCAL_CTL where defaults were loaded (R64, R196, R197). Of what ResetBlocks fixes,
these values are the model's choice and no rule of the spec: the reference state LOCKED and HFN 0 in the wait (log entry 6), the last
boundary at 0 (log entry 4), each output's last identification and cues (log entry 33) and each intake's takes (log entry 50). -/
def Obligations.ResetPartKeepsTheLinks : Prop :=
  ∀ (f : CtlFlow) (h : Head) (s : State), Turn f h .resetPart s →
    ∃ img t v, Abandoned s img ∧ exec (.resetPart f h) s = .next t ∧ ResetBlocks (fun p => s.ports[p].up) img t ∧
      t.powered = true ∧ t.sent = s.sent ++ replyPackets s f h .resetPart (.ok, .none) ++ v ∧
      (t.mainUp = true → t.resetNotices = false ∧ t.nextMain = 8) ∧
      (t.mainUp = false → t.resetNotices = true ∧ t.nextMain = 0) ∧
      t.nextLocal = (if img.load.2 = .image then 0 else 1) ∧ t.defaultedNotice = false

/-- POWER_LOSS takes the power away and abandons a write in progress, whose image is left erased or part-written (R195); that
everything but the supply and the write stands is the model's choice (log entry 14).
SAVE_CONFIG begins a write of the configuration in use, or is refused BUSY while one goes on; SAVE_COMPLETE ends it: the
image holds the copy with its checksum, or is bad, and a CONFIG notice carries the request's tag (R195). That SAVE_COMPLETE
without a write has no effect is the model's (log entry 45). -/
def Obligations.WritesBeginEndAndAreAbandoned : Prop :=
  (∀ s : State, s.powered = true →
     (s.save = none → exec .powerLoss s = .next { s with powered := false }) ∧
     ∀ j, s.save = some j → ∃ img n, (img = .blank ∨ img = .bad) ∧
       exec .powerLoss s = .next { s with powered := false, save := none, flash := img, draws := n }) ∧
  ((∀ (f : CtlFlow) (h : Head) (s : State), Turn f h .saveConfig s →
     (s.save = none → exec (.saveConfig f h) s = .next { afterTurn f s with
       save := some { tag := h.tag, copy := { params := s.params, flows := s.flows, table := s.table } },
       sent := s.sent ++ replyPackets s f h .saveConfig (.ok, .none) }) ∧
     (s.save ≠ none → exec (.saveConfig f h) s = .next { afterTurn f s with
       sent := s.sent ++ replyPackets s f h .saveConfig (.busy, .none) })) ∧
   ∀ (good : Bool) (s : State), s.powered = true →
     (s.save = none → exec (.saveComplete good) s = .next s) ∧
     ∀ j, s.save = some j → exec (.saveComplete good) s = .next { s with
       save := none, flash := if good then .stored j.copy (imageSum j.copy) else .bad, lastSave := if good then .saved else .failed,
       nextLocal := (s.nextLocal + 1) % two16,
       sent := s.sent ++ noticePackets s .loc s.nextLocal 15
         (.config (if good then .saved else .failed) (some j.tag) (some s.time.hfn)) })

/-- A configuration that could be a retained image, once written, is the one in use after the next reset (R195, R196). -/
def Obligations.SavedConfigurationReturnsAtReset : Prop :=
  ∀ (s : State) (j : SaveJob), s.powered = true → s.save = some j → j.copy.params.inRange = true →
    FlowTableOk j.copy.flows → TableOk j.copy.table →
    ∃ t u, exec (.saveComplete true) s = .next t ∧ exec .powerOn t = .next u ∧ u.params = j.copy.params ∧
      u.flows = j.copy.flows ∧ u.table = j.copy.table ∧ u.source = .image ∧ u.time.rate = j.copy.params.part.rate

/-! ## The Time Base -/

/-- The first period starts at the first pulse, LOCKED, at the frame of day its label names on day 0, or at 0 without a usable
label; or at one and a half nominal periods without a pulse, FREE_RUN at 0. In every case the time is UNSET, the slip run closed
and the label-slip count 0 (R14). That the work of a period is done for this first one too, that the wait is over at exactly one
and a half periods, and that what requests made of the time during the wait is overwritten, are the model's (log entries 5, 4
and 46). -/
def Obligations.TheFirstPeriodStarts : Prop :=
  (∀ (now : Nat) (l : RefLabel) (s : State), s.powered = true → s.time.waiting = true → now < 1500000 →
    ∃ n t, exec (.timeBaseStart now (some l)) s = .next t ∧
      t.time = { s.time with waiting := false, timeState := .unset, slipRun := false, slips := 0, hfn := n, refState := .locked,
                             lastBoundary := now, built := true } ∧
      (∀ x, UsableLabel s.time.rate l x → n = frameOfDay s.time.rate x) ∧
      ((∀ x, ¬ UsableLabel s.time.rate l x) → n = 0) ∧ PeriodDone s t) ∧
  ∀ (now : Nat) (s : State), s.powered = true → s.time.waiting = true → 1500000 ≤ now →
    ∃ t, exec (.timeBaseStart now none) s = .next t ∧
      t.time = { s.time with waiting := false, timeState := .unset, slipRun := false, slips := 0, hfn := 0, refState := .freeRun,
                             relock := 0, lastBoundary := 1500000, lastPulse := none, built := true } ∧ PeriodDone s t

/-- While LOCKED a pulse from half a nominal period to one and a half after the last boundary starts the next period, whose
number is the one before plus one (R1, R2, R10). A pulse whose usable label is that of the new number ends a slip run;
any other adds 1 to the label-slip count and opens one (R12). What follows 2^48 − 1 is left open (log entry 7). -/
def Obligations.LockedPulsesStartPeriods : Prop :=
  ∀ (now : Nat) (l : RefLabel) (s : State), s.powered = true → s.time.waiting = false → s.time.refState = .locked →
    (s.time.lastBoundary + 500000 ≤ now ∧ now < s.time.lastBoundary + 1500000 →
      ∃ t, exec (.periodBoundary now (some l)) s = .next t ∧ PeriodDone s t ∧ t.time.lastBoundary = now ∧
        t.time.refState = .locked ∧ t.time.hfn < two48 ∧ (s.time.hfn + 1 < two48 → t.time.hfn = s.time.hfn + 1) ∧
        ((∃ x, UsableLabel s.time.rate l x ∧ frameOfDay s.time.rate x = t.time.hfn % RateCode.perDay s.time.rate) →
          t.time.slips = s.time.slips ∧ t.time.slipRun = false) ∧
        ((¬ ∃ x, UsableLabel s.time.rate l x ∧ frameOfDay s.time.rate x = t.time.hfn % RateCode.perDay s.time.rate) →
          t.time.slips = sat32 s.time.slips ∧ t.time.slipRun = true)) ∧
    (now < s.time.lastBoundary + 500000 → exec (.periodBoundary now (some l)) s = .next s)

/-- In FREE_RUN a period starts one nominal period after the last boundary (R10); with the relock count at 8 no pulse in time
starts it there too and clears the count (R11).
The reference is lost one and a half nominal periods after the last boundary without a pulse: FREE_RUN, any slip run ended,
the period put one nominal period after that boundary (R10, R12). With the relock count at 8 a pulse from half a period to
one and a half after the last boundary starts the next period LOCKED (R11).
A pulse watched in FREE_RUN adds 1 to the relock count, up to 8, when it comes three quarters to one and a quarter nominal
periods after the pulse before, and clears the count otherwise (R11); it changes nothing else. What happens at exactly 750,000,
1,250,000 and 1,500,000 millionths of a period is the model's choice (log entry 4); so is that REFERENCE_LOSS forgets the last pulse, and
that a RELOCK_PULSE with no last pulse leaves the count 0 (log entry 59). That the relocking pulse need not be well spaced after the
one before is the model's reading (log entry 86, DEDUCED). -/
def Obligations.TheReferenceIsLostAndFoundAgain : Prop :=
  ((∀ (now : Nat) (pulse : Option RefLabel) (s : State), s.powered = true → s.time.waiting = false →
     s.time.refState = .freeRun → s.time.relock < 8 → s.time.lastBoundary + 1000000 ≤ now →
     ∃ t, exec (.periodBoundary now pulse) s = .next t ∧ PeriodDone s t ∧
       t.time = { s.time with hfn := t.time.hfn, lastBoundary := s.time.lastBoundary + 1000000, built := true } ∧
       (s.time.hfn + 1 < two48 → t.time.hfn = s.time.hfn + 1)) ∧
   ∀ (now : Nat) (s : State), s.powered = true → s.time.waiting = false → s.time.refState = .freeRun →
     s.time.relock = 8 → s.time.lastBoundary + 1500000 ≤ now →
     ∃ t, exec (.relockTimeout now) s = .next t ∧ PeriodDone s t ∧
       t.time = { s.time with hfn := t.time.hfn, relock := 0, lastBoundary := s.time.lastBoundary + 1000000, built := true } ∧
       (s.time.hfn + 1 < two48 → t.time.hfn = s.time.hfn + 1)) ∧
  ((∀ (now : Nat) (s : State), s.powered = true → s.time.waiting = false → s.time.refState = .locked →
     s.time.lastBoundary + 1500000 ≤ now →
     ∃ t, exec (.referenceLoss now) s = .next t ∧ PeriodDone s t ∧
       t.time = { s.time with hfn := t.time.hfn, lastBoundary := s.time.lastBoundary + 1000000, refState := .freeRun,
                              slipRun := false, relock := 0, lastPulse := none, built := true } ∧
       (s.time.hfn + 1 < two48 → t.time.hfn = s.time.hfn + 1)) ∧
   ∀ (now : Nat) (l : RefLabel) (s : State), s.powered = true → s.time.waiting = false → s.time.refState = .freeRun →
     s.time.relock = 8 → s.time.lastBoundary + 500000 ≤ now → now < s.time.lastBoundary + 1500000 →
     ∃ t, exec (.referenceRelock now l) s = .next t ∧ PeriodDone s t ∧ t.time.refState = .locked ∧ t.time.relock = 0 ∧
       t.time.lastBoundary = now ∧ (s.time.hfn + 1 < two48 → t.time.hfn = s.time.hfn + 1)) ∧
  (∀ (now : Nat) (s : State), s.powered = true → s.time.waiting = false → s.time.refState = .freeRun →
     s.time.relock < 8 ∨ (s.time.relock = 8 ∧ now < s.time.lastBoundary + 500000) →
     (∀ p, s.time.lastPulse = some p → p + 750000 ≤ now → now ≤ p + 1250000 →
       exec (.relockPulse now) s = .next { s with
         time := { s.time with relock := min 8 (s.time.relock + 1), lastPulse := some now } }) ∧
     ((∀ p, s.time.lastPulse = some p → now < p + 750000 ∨ p + 1250000 < now) →
       exec (.relockPulse now) s = .next { s with time := { s.time with relock := 0, lastPulse := some now } }))

/-- A frame of day has one label, valid and existing, which gives the frame back; and a label that is valid and exists is the
label of its frame of day (R7). The frame of day is the one the formula of R6 gives, and the last label of the day gives F − 1.
A day and a valid label name an HFN whose day and label are that day and the label, moved first when it does not exist
(R5, R8, R9). -/
def Obligations.LabelsAndFramesAgree : Prop :=
  (∀ (rc : RateCode) (b d F m : Nat) (l : Label),
     (rc, b, d, F) ∈ [(.f25, 25, 0, 2160000), (.f2997, 30, 2, 2589408), (.f50, 50, 0, 4320000), (.f5994, 60, 4, 5178816)] →
     labelValid rc l = true → labelExists rc l = true → m = 60 * bcd l.hh + bcd l.mm →
     frameOfDay rc l = (3600 * bcd l.hh + 60 * bcd l.mm + bcd l.ss) * b + bcd l.ff - d * (m - m / 10) ∧
     frameOfDay rc l < F ∧ RateCode.perDay rc = F ∧
     (bcd l.hh = 23 → bcd l.mm = 59 → bcd l.ss = 59 → bcd l.ff = b - 1 → frameOfDay rc l = F - 1)) ∧
  ((∀ (rc : RateCode) (f : Nat), f < RateCode.perDay rc →
     labelValid rc (labelOfDay rc f) = true ∧ labelExists rc (labelOfDay rc f) = true ∧ frameOfDay rc (labelOfDay rc f) = f) ∧
   ∀ (rc : RateCode) (l : Label), labelValid rc l = true → labelExists rc l = true →
     frameOfDay rc l < RateCode.perDay rc ∧ labelOfDay rc (frameOfDay rc l) = l) ∧
  (∀ (rc : RateCode) (day : Nat) (l : Label), day < 65536 → labelValid rc l = true →
     labelExists rc (labelMoved rc l) = true ∧
     whenOf rc (hfnOf rc day l) = { hfn := hfnOf rc day l, day := day, label := labelMoved rc l })

/-! ## Links and arrivals -/

/-- LINK_UP marks a port UP and releases what waited for it: the eight reset notices once MAIN_CTL has a link, the CONFIG
DEFAULTED notice once LOCAL_CTL has one (R64, R68, R196). LINK_DOWN marks it DOWN and discards, counted, the open assemblies of
the sources fed through it, and touches no FIFO (R68). That on a port already so neither has an effect is the model's (log entry
58).
The reset notices and the CONFIG DEFAULTED notice that wait are made, in channel order and once, when their flow has an
entry on a port with its link UP (R64, R196); that their commands have no effect before is the model's (log entry 2), and so is the channel
order of the eight reset notices (log entry 26; R188 leaves the order of different channels open), and so is the present HFN in the
CONFIG DEFAULTED notice (log entry 85). -/
def Obligations.LinksComeAndGo : Prop :=
  ((∀ (p : Port) (s : State), s.powered = true → s.ports[p].up = false →
     ∃ t, exec (.linkUp p) s = .next t ∧ t.ports = s.ports.set p { s.ports[p] with up := true } ∧ t.chans = s.chans ∧
       (t.mainUp = true → t.resetNotices = false) ∧ (t.mainUp = false → t.resetNotices = s.resetNotices) ∧
       (t.mainUp = true → s.resetNotices = true → t.nextMain = (s.nextMain + 8) % two16) ∧
       (∀ tag, s.ctlAddr .loc = some (p, tag) → t.defaultedNotice = false)) ∧
   (∀ (p : Port) (s : State), s.powered = true → s.ports[p].up = true →
     ∃ t, exec (.linkDown p) s = .next t ∧ t.ports = s.ports.set p { s.ports[p] with up := false } ∧
       (∀ (c : Ch) (k : SrcId), (∃ e ∈ s.flows, e.port = p ∧ e.channel = some c ∧ roleSource e.role = some k) →
         (t.chans[c].intake.source k).asm = none ∧
         (t.chans[c].intake.source k).fifo = (s.chans[c].intake.source k).fifo ∧
         (t.chans[c].intake.source k).incomplete =
           (if (s.chans[c].intake.source k).asm.isSome then sat32 (s.chans[c].intake.source k).incomplete
            else (s.chans[c].intake.source k).incomplete)) ∧
       (∀ (c : Ch) (k : SrcId), (¬ ∃ e ∈ s.flows, e.port = p ∧ e.channel = some c ∧ roleSource e.role = some k) →
         t.chans[c].intake.source k = s.chans[c].intake.source k) ∧ t.flows = s.flows ∧ t.params = s.params ∧ t.time = s.time) ∧
   ∀ (p : Port) (s : State), s.powered = true →
     (s.ports[p].up = true → exec (.linkUp p) s = .next s) ∧ (s.ports[p].up = false → exec (.linkDown p) s = .next s)) ∧
  ((∀ s : State, s.powered = true → s.resetNotices = true → s.mainUp = true → s.nextMain < two16 →
     ∃ t, exec .refreshNeededResetRelease s = .next t ∧ t.resetNotices = false ∧ t.chans = s.chans ∧
       t.nextMain = (s.nextMain + 8) % two16 ∧ t.nextLocal = s.nextLocal ∧ t.log = s.log ∧
       ∃ p tag, s.ctlAddr .main = some (p, tag) ∧ t.sent = s.sent ++ (List.finRange 8).map fun c =>
         { port := p, tag := tag, what := .notice .main ((s.nextMain + c.val) % two16) c.val
             (.refreshNeeded .reset s.chans[c].mirror.state s.chans[c].mirror.lastSeq s.now) }) ∧
   (∀ (s : State) (why : DefaultReason), s.powered = true → s.defaultedNotice = true → s.localUp = true →
     s.source = .defaulted why →
     exec .configDefaultedNotice s = .next { s with
       defaultedNotice := false, nextLocal := (s.nextLocal + 1) % two16,
       sent := s.sent ++ noticePackets s .loc s.nextLocal 15 (.config (.defaulted why) none (some s.time.hfn)) }) ∧
   ∀ s : State, s.powered = true →
     (s.resetNotices = false ∨ s.mainUp = false → exec .refreshNeededResetRelease s = .next s) ∧
     (s.defaultedNotice = false ∨ s.localUp = false → exec .configDefaultedNotice s = .next s))

/-- A frame that fails a check of R65 or the lookup of R66 is dropped, whichever command brings it (FRAME_DROP, FRAME_HEADER,
VIDEO, AUDIO, CONTROL_REQUEST_PACKET, CUED, CUE_FAILED, STOPPED, ANSWER): ignored while the link is DOWN or under another EtherType; counted as a bad frame, with the port's mark, under a bad check sequence; counted as oversize
above 9,216 bytes; counted as unknown-tag without an entry of its port and a role that takes its kind. A CONTROL packet of a kind
that R200 does not list is taken as routed nowhere (log entry 39, DEDUCED). -/
def Obligations.DroppedFramesAreCounted : Prop :=
  ∀ (i : Instr) (e : Eth) (k : Option PktKind) (s : State), i.arrival = some e → k = kindOf e →
    s.powered = true →
    (s.ports[e.port].up = false → exec i s = .next s) ∧
    (s.ports[e.port].up = true →
      (e.fcsOk = false → exec i s = .next (s.modPort e.port fun x => { x with badFrame := sat32 x.badFrame, mark := true })) ∧
      (e.fcsOk = true → 9216 < e.length → exec i s = .next (s.modPort e.port fun x => { x with oversize := sat32 x.oversize })) ∧
      (e.fcsOk = true → e.length ≤ 9216 →
        (e.etherType ≠ s.params.part.etherType → exec i s = .next s) ∧
        (e.etherType = s.params.part.etherType →
          (∀ x q, k = some q → entryByTag s.flows (flowTag e) = some x → ¬ (x.port = e.port ∧ routed x.role q = true)) →
          exec i s = .next (s.modPort e.port fun x => { x with unknownTag := sat32 x.unknownTag }))))

/-- FRAME_HEADER opens an assembly with no unit received; one still open is discarded and counted incomplete (R72, R73). A
packet count of 0 makes the packet stray. -/
def Obligations.FrameHeadersOpenAssemblies : Prop :=
  ∀ (e : Eth) (c : Ch) (k : SrcId) (bytes : List Byte) (hdr : FrameHdr) (s : State), Feeds s e 0 c k →
    readFrameHeader bytes = some hdr →
    (0 < hdr.count → exec (.frameHeader e bytes) s = .next (s.modSource c k fun x => { x with
      asm := some { hdr := hdr, units := [], picture := [], audio := [],
                    sums := { lumaSum := 0, lumaCount := 0, signature := 0, peak := 0 } }
      incomplete := if x.asm.isSome then sat32 x.incomplete else x.incomplete })) ∧
    (hdr.count = 0 → exec (.frameHeader e bytes) s = .next (s.modSource c k fun x => { x with
      asm := none, incomplete := if x.asm.isSome then sat32 x.incomplete else x.incomplete, stray := sat32 x.stray }))

/-- VIDEO and AUDIO join the open assembly once for each unit index; the unit that makes it complete ends the assembly, and the
frame joins the FIFO of 4, from which the oldest is pushed out when it is full (R73 to R75).
A VIDEO or AUDIO packet with no open assembly, or with an index that is beyond the packet count or has been received, is
counted stray and changes nothing else (R73).
A VIDEO packet's samples land one after another on its line from its first position on, those outside lines 0 to 1079 and positions
0 to 3839 nowhere; the others each replace what stood at their place (R74), and each adds to the signature, mod 2^32, and one at an odd
position to the luma sum and count (R78). -/
def Obligations.UnitsCompleteFramesOrAreStray : Prop :=
  (∀ (i : Instr) (e : Eth) (c : Ch) (k : SrcId) (a b : Assembly) (n : Nat) (bytes : List Byte) (s : State),
     (s.chans[c].intake.source k).asm = some a → n < a.hdr.count → n ∉ a.units →
     ((∃ v, Feeds s e 1 c k ∧ i = .video e bytes ∧ readVideo bytes = some v ∧ v.index = n ∧
         b = { a.samples v.line v.first v.samples with units := n :: a.units }) ∨
      (∃ v, Feeds s e 2 c k ∧ i = .audio e bytes ∧ readAudio bytes = some v ∧ v.index = n ∧
         b = { a with units := n :: a.units, audio := cellSet n v.samples a.audio,
                      sums := { a.sums with peak := v.samples.foldl (fun m y => max m y.toInt.natAbs) a.sums.peak } })) →
     (a.units.length + 1 ≠ a.hdr.count → exec i s = .next (s.modSource c k fun x => { x with asm := some b })) ∧
     (a.units.length + 1 = a.hdr.count → exec i s = .next (s.modSource c k fun x => { x with
       asm := none, completed := sat32 x.completed
       fifo := (if x.fifo.length < 4 then x.fifo else x.fifo.drop 1) ++
         [{ hdr := a.hdr, picture := b.picture, sound := b.audio.flatMap fun u => u.2, sums := b.sums }]
       pushedOut := if x.fifo.length < 4 then x.pushedOut else sat32 x.pushedOut }))) ∧
  (∀ (i : Instr) (e : Eth) (c : Ch) (k : SrcId) (n : Nat) (bytes : List Byte) (s : State),
     ((∃ v, Feeds s e 1 c k ∧ i = .video e bytes ∧ readVideo bytes = some v ∧ v.index = n) ∨
      (∃ v, Feeds s e 2 c k ∧ i = .audio e bytes ∧ readAudio bytes = some v ∧ v.index = n)) →
     (∀ a, (s.chans[c].intake.source k).asm = some a → a.hdr.count ≤ n ∨ n ∈ a.units) →
     exec i s = .next (s.modSource c k fun x => { x with stray := sat32 x.stray })) ∧
  ∀ (line first : Nat) (vs : List (BitVec 10)) (a b : Assembly) (shown luma : List (BitVec 10 × Nat)),
     b = a.samples line first vs → a.sums.signature < 4294967296 → Picture.wf a.picture = true →
     shown = (vs.zipIdx first).filter (fun x => decide (line < 1080 ∧ x.2 < 3840)) →
     luma = shown.filter (fun x => decide (x.2 % 2 = 1)) →
     b.hdr = a.hdr ∧ b.units = a.units ∧ b.audio = a.audio ∧ Picture.wf b.picture = true ∧
     (∀ i v, vs[i]? = some v → line < 1080 → first + i < 3840 → b.picture.read (3840 * line + (first + i)) = v) ∧
     (∀ j, (∀ i, i < vs.length → line < 1080 → first + i < 3840 → j ≠ 3840 * line + (first + i)) →
       b.picture.read j = a.picture.read j) ∧
     b.sums = { lumaSum := a.sums.lumaSum + (luma.map fun x => x.1.toNat).sum, lumaCount := a.sums.lumaCount + luma.length,
                signature := (a.sums.signature + (shown.map fun x => x.1.toNat).sum) % 4294967296, peak := a.sums.peak }

/-- A picture in its one form stays so under a write; a written place reads back what was written, every other place as before,
and two pictures in that form that read the same are the same data; a picture with nothing written holds black, luma 64 at the odd
positions and chroma 512 at the even (R74). -/
def Obligations.PicturesReadBackWhatIsWritten : Prop :=
  (∀ (p : Picture) (k : Nat) (v : BitVec 10), Picture.wf p = true →
    Picture.wf (p.write k v) = true ∧ (p.write k v).read k = v ∧ ∀ j, j ≠ k → (p.write k v).read j = p.read j) ∧
  (∀ p q : Picture, Picture.wf p = true → Picture.wf q = true → (∀ k, p.read k = q.read k) → p = q) ∧
  Picture.wf Picture.black = true ∧
    ∀ line pos : Nat, Picture.black.read (3840 * line + pos) = if pos % 2 = 1 then 64#10 else 512#10

/-- A REQUEST packet joins its flow's inbound queue behind those that wait, with the tag, channel and body length that its
control header spells (R190, R200); with 8 waiting it is dropped and counted as overflow (R66, R191). That a code
which is not that of the body is a code that names no request is the model's reading (log entry 11). -/
def Obligations.RequestPacketsQueue : Prop :=
  ∀ (o e : Eth) (k : List Byte) (n : Nat) (b : ReqBody) (r : Request) (x : FlowEntry) (s : State), e = o.carrying k →
    Routed s e x .request → 11 ≤ e.head.length →
    r.head = { tag := headField 5 2 e, channel := headField 7 1 e, bodyLen := headField 9 2 e, present := n } →
    (reqCode b = headField 4 1 e → r.body = b) → (reqCode b ≠ headField 4 1 e → r.body = .unknown (headField 4 1 e)) →
    (x.role = .mainCtl → s.inMain.length < 8 →
      exec (.controlRequestPacket o ⟨k, n, b⟩) s = .next { s with inMain := s.inMain ++ [r] }) ∧
    (x.role = .localCtl → s.inLocal.length < 8 →
      exec (.controlRequestPacket o ⟨k, n, b⟩) s = .next { s with inLocal := s.inLocal ++ [r] }) ∧
    ((x.role = .mainCtl ∧ 8 ≤ s.inMain.length) ∨ (x.role = .localCtl ∧ 8 ≤ s.inLocal.length) →
      exec (.controlRequestPacket o ⟨k, n, b⟩) s = .next (s.modPort e.port fun y => { y with overflow := sat32 y.overflow }))

/-! ## Replies of the players -/

/-- CUED before the roll frame makes the record CUED; from the roll frame on the record becomes STOPPING with its item taken
off it (R107).
STOPPED makes a STOPPING record IDLE with nothing loaded, also before its stop frame, where that is the model's choice (log entry
53); before the stop frame it confirms the stop of a PLAYING record (R108). What the freed player is then asked to do follows in the same period.
CUED for a cue that was cancelled ends the flight and does nothing else: the record is not CUEING, has nothing loaded, or has a CUE waiting
behind it (R107; the model's reading where the record says so, log entry 19, DEDUCED). -/
def Obligations.CuedAndStoppedRepliesMoveThePlayer : Prop :=
  (∀ (e : Eth) (k : List Byte) (c : Ch) (p : PlayerId) (f : Flight) (i : Item) (r : Frame) (s : State),
     InFlight s (e.carrying k) c p f →
     f.req.isCue = true → (s.chans[c].seq.player p).state = .cueing → (s.chans[c].seq.player p).loaded = some i →
     (s.chans[c].seq.player p).roll = some r → (∀ q ∈ (s.chans[c].seq.player p).queue, q.2.isCue = false) →
     ∃ t, exec (.cued e k) s = .next t ∧ PartKept s t ∧ OthersKept c s t ∧
       (s.time.hfn < r → (t.chans[c].seq.player p).state = .cued ∧ (t.chans[c].seq.player p).loaded = some i ∧
         (t.chans[c].seq.player p).roll = some r) ∧
       (r ≤ s.time.hfn → (t.chans[c].seq.player p).state = .stopping ∧ (t.chans[c].seq.player p).loaded = none)) ∧
  (∀ (e : Eth) (k : List Byte) (c : Ch) (p : PlayerId) (f : Flight) (s : State), InFlight s (e.carrying k) c p f →
     f.req.isCue = true → CueCancelled (s.chans[c].seq.player p) →
     exec (.cued e k) s = .next (runCh c (replied p f.tag fun _ _ w => w) s)) ∧
  (∀ (e : Eth) (k : List Byte) (c : Ch) (p : PlayerId) (f : Flight) (x : Frame) (s : State),
     InFlight s (e.carrying k) c p f →
     f.req = .stop x →
     exec (.stopped e k) s = .next (runCh c (replied p f.tag (onStopped p)) s) ∧
     ((s.chans[c].seq.player p).state = .stopping →
       ((onStopped p f (envOf s c) (answeredBy s c p)).player p).state = .idle ∧
       ((onStopped p f (envOf s c) (answeredBy s c p)).player p).loaded = none) ∧
     ((s.chans[c].seq.player p).state = .playing → (s.chans[c].seq.player p).stopF = some x → s.time.hfn < x →
       ((runCh c (replied p f.tag (onStopped p)) s).chans[c].seq.player p).stopConfirmed = true))

/-- CUE_FAILED takes the item off the record, which becomes IDLE. NOT_FOUND and SHORT make the event ABSENT or SHORT where the
cue named the handle that the sweep asks about. After UNABLE a timeline item is cued again, the other player first, while its
attempts are below 2, and is ABSENT fill otherwise. After NOT_FOUND and SHORT an item of a PLAY event is cued again with its
substitute, when it has one that was not tried and its attempts are below 2, and is ABSENT fill otherwise (R109).
CUE_FAILED for a cue that was cancelled ends the flight and does nothing else (the model's reading, log entry 19, DEDUCED). -/
def Obligations.FailedCuesReturnTheItem : Prop :=
  (∀ (e : Eth) (k : List Byte) (c : Ch) (p : PlayerId) (f : Flight) (reason : CueReason) (s : State),
    InFlight s (e.carrying k) c p f → f.req.isCue = true → CueCancelled (s.chans[c].seq.player p) →
    exec (.cueFailed e k reason) s = .next (runCh c (replied p f.tag fun _ _ w => w) s)) ∧
  ∀ (e : Eth) (k : List Byte) (c : Ch) (p : PlayerId) (f : Flight) (i : Item) (reason : CueReason) (s : State) (w : W),
    InFlight s (e.carrying k) c p f → f.req.isCue = true → (s.chans[c].seq.player p).state = .cueing →
    (s.chans[c].seq.player p).loaded = some i → (∀ q ∈ (s.chans[c].seq.player p).queue, q.2.isCue = false) →
    w = onCueFailed p reason f (envOf s c) (answeredBy s c p) →
    exec (.cueFailed e k reason) s = .next (runCh c (replied p f.tag (onCueFailed p reason)) s) ∧
    (w.player p).state = .idle ∧ (w.player p).loaded = none ∧
    (∀ r v, reasonReadiness reason = some r → i.kind = .pass → s.chans[c].store.event i.event = some v →
      i.handle = some v.sweepHandle → ∃ v', w.ch.store.event i.event = some v' ∧ v'.readiness = r) ∧
    (reason = .unable → i.kind = .pass → s.chans[c].seq.landing = none →
      (∀ j, s.chans[c].seq.cued = some j → j.player = some p) →
      (i.attempts < 2 → w.ch.seq.preroll = some (i.released (some p)) ∧ w.ch.seq.cued = none) ∧
      (2 ≤ i.attempts → w.ch.seq.preroll = none ∧ w.ch.seq.cued = none ∧
        w.ch.seq.spent = s.chans[c].seq.spent ++ [{ event := i.event, pass := i.pass, due := none }])) ∧
    (∀ v act sub, reason = .notFound ∨ reason = .short → i.kind = .pass → s.chans[c].seq.landing = none →
      (∀ j, s.chans[c].seq.cued = some j → j.player = some p) → s.chans[c].store.event i.event = some v →
      act = (v.fieldsFor i.pass i.contin).2.2.2 → sub = (v.fieldsFor i.pass i.contin).2.2.1 →
      (act = .play → sub.isSome = true → i.subTried = false → i.attempts < 2 →
        w.ch.seq.preroll = some { (i.released none) with subTried := true, subNext := true, subShort := decide (reason = .short) } ∧
        w.ch.seq.cued = none) ∧
      (act ≠ .play ∨ sub = none ∨ i.subTried = true ∨ 2 ≤ i.attempts →
        w.ch.seq.preroll = none ∧ w.ch.seq.cued = none ∧
        w.ch.seq.spent = s.chans[c].seq.spent ++ [{ event := i.event, pass := i.pass, due := none }]))

/-- ANSWER to a probe ends the FAULT, with a PLAYER notice (R111). ANSWER to the sweep's query sets the event's readiness: ABSENT
when the handle was not found, PRESENT when the length reaches in-point plus duration, SHORT otherwise (R119). -/
def Obligations.AnswersEndProbesAndQueries : Prop :=
  ∀ (e : Eth) (k : List Byte) (handle length : Nat) (found : Bool) (c : Ch) (p : PlayerId) (f : Flight) (s : State) (w : W),
    InFlight s (e.carrying k) c p f → f.req.isQuery = true → w = onAnswer p found length f (envOf s c) (answeredBy s c p) →
    exec (.answer e k handle found length) s = .next (runCh c (replied p f.tag (onAnswer p found length)) s) ∧
    (f.probe = true → (w.player p).state = .idle ∧ (w.player p).queue = [] ∧
      w.fx = [.notice .loc c.val (.player p .fault .idle .answer none s.time.hfn)]) ∧
    (∀ q v, f.probe = false → s.chans[c].seq.sweep = some q → q.player = p → q.tag = f.tag →
      lookupId q.event s.chans[c].store.current = some v → w.ch.seq.sweep = none ∧
      ∃ v', lookupId q.event w.ch.store.current = some v' ∧ v'.readiness =
        (if found = false then .absent else if v.inPoint + v.duration ≤ length then .present else .short))

/-- A reply whose tag is not the tag in flight, or that comes with nothing in flight, changes nothing (R106). -/
def Obligations.RepliesWithAnotherTagAreIgnored : Prop :=
  ∀ (i : Instr) (o e : Eth) (k : List Byte) (c : Ch) (p : PlayerId) (x : FlowEntry) (s : State), e = o.carrying k →
    Routed s e x .reply →
    x.channel = some c → rolePlayer x.role = some p →
    (i = .cued o k ∨ i = .stopped o k ∨ (∃ r, i = .cueFailed o k r) ∨ ∃ h b n, i = .answer o k h b n) →
    (∀ f, (s.chans[c].seq.player p).flight = some f → f.tag ≠ requestTag e) → exec i s = .next s

/-! ## The Feed Monitor -/

/-- ADVISORY_RAISED: an ADVISORY record with its run at its threshold, its flag clear and the period not held has its flag raised,
with one notice that carries its counts (R88); that the command has no effect otherwise is the model's (log entry 2).
HEALTHY goes to SUSPECT when a DECISIVE run has reached its threshold, and on to FAILED when the holdoff is 0; SUSPECT goes to
FAILED when the holdoff count has reached the holdoff, RECOVERING when a DECISIVE run has reached its threshold; RECOVERING goes
to HEALTHY when the healthy count has reached the healthy run with no decisive condition (R91, R92, R94).
A channel's work of a period, which every command that begins one does (PeriodDone), is its counts, the items that leave and go on air,
the takes, the anchor, the evaluation, stalls, reply timeouts and probes, and what falls due; their order, that within chanFeed too, is
the model's choice (log entry 3), but for the evaluation after the takes (R84). A boundary advances the on-air item's frame count, an
open refresh's timer, a FAULT player's probe timer and the reply timeout in flight by one, a STOP's from its stop frame on, and never
back (R1, R49, R103, R110, R111).
Without a MAIN frame FRAME_LOSS holds and the attributes of the picture, the sound and the divergence are held; with one each is
judged by its test (R85, R86). A condition that holds adds one to the run and the total, to their top, one that does not sets the run to 0,
and one that is held leaves both; the worst run follows (R87). An ADVISORY flag rises with the run at its threshold and falls with the
run at 0 (R88). STARTING leaves with the first MAIN frame, SUSPECT goes back to HEALTHY when no DECISIVE run stands at its threshold,
FAILED to RECOVERING in the first period without a decisive condition (R90 to R92). -/
def Obligations.TheMonitorRaisesAdvisoriesAndChangesState : Prop :=
  (∀ (c : Ch) (a : Fin 8) (p : AttrParam) (r : Attr) (s : State), s.powered = true → p = s.params.chans[c].attrs[a] →
     r = s.chans[c].mon.attrs[a] →
     (p.cls = .advisory → p.threshold ≤ r.run → r.flag = false → ¬ HeldNow s c a →
       ∃ t, exec (.advisoryRaised c a) s = .next t ∧ Within c s t ∧ t.log = s.log ∧
         t.chans[c].mon.attrs = s.chans[c].mon.attrs.set a { r with flag := true } ∧
         t.chans[c].mon.state = s.chans[c].mon.state ∧ t.nextLocal = (s.nextLocal + 1) % two16 ∧ t.nextMain = s.nextMain ∧
         t.sent = s.sent ++ noticePackets s .loc s.nextLocal c.val
           (.advisory a.val true p.cls p.threshold r.run r.total r.worst s.now)) ∧
     (p.cls ≠ .advisory ∨ r.run < p.threshold ∨ r.flag = true ∨ HeldNow s c a → exec (.advisoryRaised c a) s = .next s)) ∧
  (∀ (c : Ch) (m : Monitor) (s : State), s.powered = true → m = s.chans[c].mon →
     (m.state = .healthy → DecisiveReached s c →
       ∃ t, exec (.monitorSuspect c) s = .next t ∧ Within c s t ∧ t.chans[c].mon.holdoff = 0 ∧
         t.chans[c].mon.attrs = m.attrs ∧
         t.chans[c].mon.state = (if s.params.chans[c].holdoff = 0 then .failed else .suspect) ∧
         t.chans[c].ctl.monitor = t.chans[c].mon.state) ∧
     (DecisiveReached s c → m.state = .recovering ∨ (m.state = .suspect ∧ s.params.chans[c].holdoff ≤ m.holdoff) →
       ∃ t, exec (.monitorFailed c) s = .next t ∧ Within c s t ∧ t.chans[c].mon = { m with state := .failed } ∧
         t.chans[c].ctl.monitor = .failed) ∧
     (m.state = .recovering → ¬ DecisiveReached s c → ¬ DecisiveShows s c → s.params.chans[c].healthyRun ≤ m.healthy →
       ∃ t, exec (.monitorHealthy c) s = .next t ∧ Within c s t ∧ t.chans[c].mon = { m with state := .healthy } ∧
         t.chans[c].ctl.monitor = .healthy)) ∧
  (∀ (env : Env) (bad : Bool) (w : W), chanFeed bad env w =
     let v := evaluate env bad (anchorFromStamp env (syncLife (takes env w)))
     probe env .b (probe env .a (replyTimeout env .b (replyTimeout env .a (stall env .b (stall env .a v)))))) ∧
  ((∀ (env : Env) (bad : Bool) (w : W), chanPeriod bad env w = chanDue env (chanFeed bad env (chanAir env (chanTick env w)))) ∧
   (∀ (env : Env) (w : W), chanAir env w =
     let u := droppedRecords env (othersLeave env (playersLeave env (breakStart env w)))
     let v := breakEnd env (handbackTarget env (joiningTarget env u))
     spentRecords env (nextOnAir env (playerRoll env .b (playerRoll env .a v)))) ∧
   (∀ (env : Env) (w : W), chanDue env w =
     let v := shadowRejoin env (shadowStart env (breakExpiry env (joiningStart env w)))
     triggerAct env (scanTick env (pump env (takePointer env v)))) ∧
   ∀ (env : Env) (w v : W), v = chanTick env w →
     (v.ch.seq.onAir = w.ch.seq.onAir.map fun o => { o with framesIn := o.framesIn + 1 }) ∧
     (w.ch.store.refresh = none → v.ch.mirror = w.ch.mirror ∧ v.ch.store = w.ch.store) ∧
     (w.ch.store.refresh.isSome = true → min 65535 (w.ch.mirror.timer + 1) < env.part.mirrorTimeout →
       v.ch.mirror = { w.ch.mirror with timer := min 65535 (w.ch.mirror.timer + 1) } ∧ v.ch.store = w.ch.store) ∧
     (w.ch.store.refresh.isSome = true → env.part.mirrorTimeout ≤ min 65535 (w.ch.mirror.timer + 1) →
       v.ch.mirror.state = .gap ∧ v.ch.store = { w.ch.store with refresh := none }) ∧
     ∀ (p : PlayerId) (x y : Player), x = w.player p → y = v.player p →
       (y.state = x.state ∧ y.queue = x.queue ∧ y.loaded = x.loaded ∧ y.tags = x.tags) ∧
       y.probeTimer = (if x.state = .fault then x.probeTimer + 1 else x.probeTimer) ∧
       (x.flight = none → y.flight = none) ∧
       ∀ f, x.flight = some f → ∃ g, y.flight = some g ∧ g.tag = f.tag ∧ g.req = f.req ∧ g.sent = f.sent ∧ g.probe = f.probe ∧
         (f.req.isStop = false → g.age = f.age + 1) ∧
         (∀ h, f.req = .stop h → (g.counting = true ↔ f.counting = true ∨ h ≤ env.now) ∧
           g.age = if f.counting = true ∨ h < env.now then f.age + 1 else f.age)) ∧
  (∀ (env : Env) (x : Chan) (bad : Bool), (condition env x bad 6 = .holds ↔ env.expired = true) ∧
     (condition env x bad 7 = .holds ↔ bad = true) ∧ condition env x bad 6 ≠ .held ∧ condition env x bad 7 ≠ .held ∧
     (x.intake.takeMain = none → condition env x bad 0 = .holds ∧ condition env x bad 1 = .held ∧ condition env x bad 2 = .held ∧
       condition env x bad 3 = .held ∧ condition env x bad 4 = .lacks ∧ condition env x bad 5 = .held) ∧
     ∀ f, x.intake.takeMain = some f → condition env x bad 0 = .lacks ∧
       condition env x bad 1 = (if lumaMean f.sums < env.part.blackLevel then .holds else .lacks) ∧
       condition env x bad 2 = (if x.mon.prevSig = some f.sums.signature then .holds else .lacks) ∧
       condition env x bad 3 = (if f.sums.peak < env.part.silenceLevel then .holds else .lacks) ∧
       condition env x bad 4 = (if f.hdr.stamp = none then .holds else .lacks) ∧
       (f.hdr.stamp = none → condition env x bad 5 = .held) ∧
       ∀ p, f.hdr.stamp = some p → condition env x bad 5 = (match lookupId p.event x.store.current with
         | some e => if effLen e ≤ p.offset then .holds else .lacks
         | none => .holds)) ∧
  (∀ (env : Env) (bad : Bool) (w v : W) (a : Fin 8) (x y : Attr) (k : Cond) (p : AttrParam), v = evaluate env bad w →
     x = w.ch.mon.attrs[a] → y = v.ch.mon.attrs[a] → k = condition env w.ch bad a.val → p = env.cp.attrs[a] →
     (k = .holds → y.run = min 65535 (x.run + 1) ∧ y.total = min 4294967295 (x.total + 1)) ∧
     (k = .lacks → y.run = 0 ∧ y.total = x.total) ∧ (k = .held → y.run = x.run ∧ y.total = x.total) ∧
     y.worst = max x.worst y.run ∧
     (p.cls ≠ .advisory ∨ k = .held → y.flag = x.flag) ∧
     (p.cls = .advisory → 1 ≤ p.threshold → k ≠ .held →
       (y.flag = true ↔ p.threshold ≤ y.run ∨ (x.flag = true ∧ y.run ≠ 0)))) ∧
  ∀ (env : Env) (bad : Bool) (w v : W) (m n : Monitor) (r d : Bool), v = evaluate env bad w → m = w.ch.mon → n = v.ch.mon →
     r = (countPeriod env bad w).reached env → d = (countPeriod env bad w).shows env →
     (w.ch.ctl.monitor = m.state → v.ch.ctl.monitor = n.state) ∧
     (m.state = .starting → w.ch.intake.takeMain = none → n.state = .starting) ∧
     (m.state = .starting → w.ch.intake.takeMain.isSome = true → r = false → n.state = .healthy) ∧
     ((m.state = .starting ∧ w.ch.intake.takeMain.isSome = true) ∨ m.state = .healthy → r = true →
       n.state = (if env.cp.holdoff = 0 then .failed else .suspect) ∧ n.holdoff = 0) ∧
     (m.state = .healthy → r = false → n.state = .healthy) ∧
     (m.state = .suspect → r = false → n.state = .healthy) ∧
     (m.state = .suspect → r = true → n.holdoff = min 1000 (m.holdoff + 1) ∧
       n.state = (if env.cp.holdoff ≤ n.holdoff then .failed else .suspect)) ∧
     (m.state = .failed → d = true → n.state = .failed) ∧
     (m.state = .failed → d = false → r = false → n.healthy = 1 ∧
       n.state = (if env.cp.healthyRun ≤ 1 then .healthy else .recovering)) ∧
     (m.state = .recovering → r = true → n.state = .failed) ∧
     (m.state = .recovering → r = false → d = true → n.state = .recovering ∧ n.healthy = 0) ∧
     (m.state = .recovering → r = false → d = false → n.healthy = min 65535 (m.healthy + 1) ∧
       n.state = (if env.cp.healthyRun ≤ n.healthy then .healthy else .recovering))

/-- A change into FAILED, from RECOVERING, from SUSPECT with the holdoff reached, or from HEALTHY at once with the holdoff at 0,
takes a channel in MIRROR over under AUTO, hot in the next period when its shadow runs under HOT and
else cold at now plus preroll lead, and leaves it alone under MANUAL (R91, R92, R132); it makes a join under way a failure join, no later
than now plus preroll lead (R133). A change out of HEALTHY cancels a handback that is not forced (R144). -/
def Obligations.MonitorChangesMoveTheChannel : Prop :=
  (∀ (c : Ch) (i : Instr) (m : Monitor) (s : State), s.powered = true → DecisiveReached s c → m = s.chans[c].mon →
    (i = .monitorFailed c ∧ (m.state = .recovering ∨ (m.state = .suspect ∧ s.params.chans[c].holdoff ≤ m.holdoff))) ∨
      (i = .monitorSuspect c ∧ m.state = .healthy ∧ s.params.chans[c].holdoff = 0) →
    ∃ t, exec i s = .next t ∧ Within c s t ∧ t.chans[c].mon.state = .failed ∧ t.chans[c].ctl.monitor = .failed ∧
      (s.chans[c].ctl.mode = .mirror → s.params.chans[c].policy = .auto → t.chans[c].ctl.mode = .joining ∧
        t.chans[c].ctl.switch = some { kind := .takeover, cause := .auto, force := true, target :=
          (if s.params.chans[c].standby = .hot ∧ s.chans[c].seq.shadow = true then (s.time.hfn : Frame) + 1
           else s.time.hfn + s.params.chans[c].lead) }) ∧
      (s.chans[c].ctl.mode = .mirror → s.params.chans[c].policy = .manual →
        t.chans[c].ctl.mode = .mirror ∧ t.chans[c].ctl.switch = s.chans[c].ctl.switch) ∧
      (∀ x, s.chans[c].ctl.mode = .joining → s.chans[c].ctl.switch = some x → ∃ y, t.chans[c].ctl.mode = .joining ∧
        t.chans[c].ctl.switch = some y ∧ y.force = true ∧ y.target = min x.target (s.time.hfn + s.params.chans[c].lead))) ∧
  ∀ (c : Ch) (x : Switch) (s : State), s.powered = true → DecisiveReached s c → s.chans[c].mon.state = .healthy →
    s.chans[c].ctl.mode = .returning → s.chans[c].ctl.switch = some x →
    ∃ t, exec (.monitorSuspect c) s = .next t ∧ Within c s t ∧
      (x.force = false → t.chans[c].ctl.mode = .takeover ∧ t.chans[c].ctl.switch = none) ∧
      (x.force = true → t.chans[c].ctl.mode = .returning ∧ t.chans[c].ctl.switch = some x)

/-- The site beat timer expires when it stands at the timeout: its mark is set, it stays there, and every CURRENT mirror becomes
STALE (R59, R95). That a count above a timeout lowered since stands at the timeout, and that the command has no effect with the mark
set or the timer below the timeout, are the model's (log entries 43 and 2). -/
def Obligations.SiteSilenceMakesMirrorsStale : Prop :=
  ∀ s : State, s.powered = true →
    (s.expired = false → s.params.part.siteBeatTimeout ≤ s.beat →
      ∃ t, exec .siteBeatExpiry s = .next t ∧ t.expired = true ∧ t.beat = s.params.part.siteBeatTimeout ∧
        t.time = s.time ∧ t.params = s.params ∧ t.log = s.log ∧ t.nextMain = s.nextMain ∧
        ∀ c : Ch, t.chans[c] = { s.chans[c] with mirror := { s.chans[c].mirror with
          state := if s.chans[c].mirror.state = .current then .stale else s.chans[c].mirror.state } }) ∧
    (s.expired = true ∨ s.beat < s.params.part.siteBeatTimeout → exec .siteBeatExpiry s = .next s)

/-! ## Mirror events -/

/-- An open refresh whose inactivity timer has reached the mirror timeout is aborted: the REFRESH generation is freed, the state
becomes GAP, and both notices leave (R49, R62, R63); the timer then stands at 0, which is the model's choice (log entry 49).
A digest scan with no event left to visit ends: its reply is OK or MISMATCH by its count and sum, and a mismatch makes a CURRENT
or STALE mirror DIVERGED (R39, R58). That neither command has an effect before is the model's (log entry 2). -/
def Obligations.RefreshesTimeOutAndScansEnd : Prop :=
  (∀ (c : Ch) (r : Refresh) (m : Mirror) (s : State), s.powered = true → s.chans[c].store.refresh = some r →
     m = s.chans[c].mirror →
     (m.state = .syncing → s.params.part.mirrorTimeout ≤ m.timer →
       exec (.refreshTimeout c) s = .next { s.setCh c { s.chans[c] with
           store := { s.chans[c].store with refresh := none }, mirror := { m with state := .gap, timer := 0 } } with
         nextLocal := (s.nextLocal + 1) % two16, nextMain := (s.nextMain + 1) % two16,
         sent := s.sent ++
           noticePackets s .loc s.nextLocal c.val (.mirror .syncing .gap .timeout m.lastSeq none s.time.hfn) ++
           noticePackets s .main s.nextMain c.val (.refreshNeeded .timeout .gap m.lastSeq s.now) }) ∧
     (m.timer < s.params.part.mirrorTimeout → exec (.refreshTimeout c) s = .next s)) ∧
  (∀ (c : Ch) (x : Scan) (ok : Bool) (s : State), s.powered = true → s.chans[c].store.scan = some x →
     (ok = true ↔ x.count = x.runCount ∧ x.sum = x.runSum) →
     ((∀ e ∈ s.chans[c].store.current, e.key < x.next) →
       ∃ t v, exec (.digestScanEnd c) s = .next t ∧ Within c s t ∧ t.chans[c].store.scan = none ∧
         t.chans[c].store.current = s.chans[c].store.current ∧
         t.sent = s.sent ++ leaves s x.addr
           (.reply .main 3 x.tag x.channel (if ok then .ok else .mismatch) (.digest x.runCount x.runSum)) ++ v ∧
         t.chans[c].mirror = { s.chans[c].mirror with state :=
           if ok = false ∧ (s.chans[c].mirror.state = .current ∨ s.chans[c].mirror.state = .stale) then .diverged
           else s.chans[c].mirror.state }) ∧
     ((∃ e ∈ s.chans[c].store.current, x.next ≤ e.key) → exec (.digestScanEnd c) s = .next s))

/-! ## Modes -/

/-- A waiting TAKEOVER switch starts JOINING once now reaches its target less preroll lead and cue margin, with its target no
earlier than now plus preroll lead (R137); at the target the channel is in TAKEOVER with no switch (R138).
At the RETURNING target the channel is back in MIRROR with nothing of the standby site on air, cued, landing or handed, and
its shadow flag clear (R143). That the handed landing then stands at none is the model's choice (log entry 55), and that none of the three commands has an effect
before its frame is the model's (log entry 2).
A join takes the timeline's item that holds the target: a PASS item is landed in at its own offset, the pass that holds it and the
clip's in-point moved on by the offset into the pass, as its own item from the target on; a fill lands as fill (R128, R129). The
landing handed is recorded (R130). -/
def Obligations.SwitchesReachTheirTargets : Prop :=
  ((∀ (c : Ch) (x : Switch) (s : State), s.powered = true → s.chans[c].ctl.mode = .mirror → s.chans[c].ctl.switch = some x →
     (x.target - (s.params.chans[c].lead + s.params.chans[c].margin) ≤ s.time.hfn →
       ∃ t, exec (.joiningStart c) s = .next t ∧ Within c s t ∧ t.chans[c].ctl.mode = .joining ∧
         t.chans[c].ctl.handed.isSome = true ∧ t.chans[c].seq.shadow = false ∧ t.chans[c].ctl.switch = some { x with target := max x.target (s.time.hfn + s.params.chans[c].lead) }) ∧
     ((s.time.hfn : Frame) < x.target - (s.params.chans[c].lead + s.params.chans[c].margin) →
       exec (.joiningStart c) s = .next s)) ∧
   ∀ (c : Ch) (x : Switch) (s : State), s.powered = true → s.chans[c].ctl.mode = .joining → s.chans[c].ctl.switch = some x →
     (x.target ≤ s.time.hfn →
       ∃ t, exec (.joiningTarget c) s = .next t ∧ Within c s t ∧ t.chans[c].ctl.mode = .takeover ∧
         t.chans[c].ctl.switch = none ∧ t.chans[c].ctl.ctx = s.chans[c].ctl.ctx) ∧
     ((s.time.hfn : Frame) < x.target → exec (.joiningTarget c) s = .next s)) ∧
  (∀ (c : Ch) (x : Switch) (s : State), s.powered = true → s.chans[c].ctl.mode = .returning → s.chans[c].ctl.switch = some x →
     (x.target ≤ s.time.hfn →
       ∃ t, exec (.handbackTarget c) s = .next t ∧ Within c s t ∧ t.chans[c].ctl.mode = .mirror ∧
         t.chans[c].ctl.switch = none ∧ t.chans[c].ctl.handed = none ∧ t.chans[c].seq.onAir = none ∧
         t.chans[c].seq.landing = none ∧ t.chans[c].seq.cued = none ∧ t.chans[c].seq.shadow = false) ∧
     ((s.time.hfn : Frame) < x.target → exec (.handbackTarget c) s = .next s)) ∧
  (∀ (env : Env) (why : JoinFor) (h : Frame) (w v : W) (x : Item), v = handJoin env why h w → x = heldAt w.ch.timeline h → x.start ≤ h →
    ∃ l, v.ch.seq.landing = some l ∧ l.target = h ∧ l.item.start = h ∧ l.item.event = x.event ∧ l.item.pass = x.pass ∧
      l.item.inPoint = x.inPoint + (h - x.start) ∧
      (∀ k, x.kind = .fill k → v.ch.ctl.handed = some (.fill k) ∧ l.item.kind = .fill k ∧ l.item.stop = x.stop) ∧
      ∀ e o, x.kind = .pass → w.ch.store.event x.event = some e → w.ch.origin x.event = some o →
        v.ch.ctl.handed = some (.pass x.event x.pass (h - o - x.pass * e.duration) (h - o))) ∧
  ∀ (e : Event) (r : Resolved) (p : Nat) (x : Item) (h : Frame), 0 < e.duration → passItem e r p = some x → x.start ≤ h →
    x.endsAfter h = true → x.event = e.id ∧ x.pass = p ∧ (h - r.origin) / (e.duration : Int) = p ∧
      x.inPoint + (h - x.start) = (e.fieldsFor p false).2.1 + (h - r.origin) % (e.duration : Int)

/-- A break-in starts at its frame: BREAK_IN, the saved context of that period stacked, the pending break-in gone, the expiry its
duration away (R150, R151, R153). It begins its resume at the expiry less preroll lead and cue margin, in the saved mode
(R153), and ends at the resume target: TAKEOVER, with no context, resume or expiry (R155).
The saved context names b, the request's mode, and where the running order stood: the event of the item that left the air, or the one
the anchor names, with b less its origin as the offset, or none, and the passes that remain (R151; that an item's own event comes before
the anchor's is log entry 69). A resume sets the anchor to the saved event and offset at r (WHERE_LEFT) or at b (ON_TIME), or with
no saved event leaves it; the timeline follows, then the held triggers are judged, then the join for r is handed, cold (R154). An entry
of the held list is placed at its event's origin and its offset there: before r it is recorded MISSED with the pass that holds it, its
mark set; any other leaves without a record, its mark none (R160, R162); an entry whose event has no place is the model's (log entry 80), and
so is that no pass remains of a saved event whose record is gone (log entry 77). -/
def Obligations.BreakInsStartExpireAndEnd : Prop :=
  (∀ (c : Ch) (b : PendingBreak) (s : State), s.powered = true → s.chans[c].ctl.mode = .takeover →
    s.chans[c].ctl.pendingBreak = some b → b.b ≤ s.time.hfn →
    ∃ t, exec (.breakStart c) s = .next t ∧ Within c s t ∧ t.chans[c].ctl.mode = .breakIn ∧
      t.chans[c].ctl.ctx = some (savedContext (envOf s c) b.mode s.chans[c]) ∧ t.chans[c].ctl.pendingBreak = none ∧
      t.chans[c].ctl.expiry = b.duration.map fun d => b.b + (d : Frame)) ∧
  (∀ (c : Ch) (e : Frame) (x : Saved) (s : State), s.powered = true → s.chans[c].ctl.mode = .breakIn →
    s.chans[c].ctl.expiry = some e → s.chans[c].ctl.ctx = some x → s.chans[c].ctl.resume = none →
    e - (s.params.chans[c].lead + s.params.chans[c].margin) ≤ s.time.hfn →
    ∃ t, exec (.breakExpiry c) s = .next t ∧ Within c s t ∧ t.chans[c].ctl.mode = .breakIn ∧
      t.chans[c].ctl.resume = some { cause := .expiry, mode := x.mode, r := e } ∧ t.chans[c].ctl.ctx = some x) ∧
  (∀ (c : Ch) (e : Frame) (x : Saved) (s : State), s.powered = true → s.chans[c].ctl.mode = .breakIn →
    s.chans[c].ctl.expiry = some e → s.chans[c].ctl.ctx = some x → s.chans[c].ctl.resume = none →
    e - (s.params.chans[c].lead + s.params.chans[c].margin) ≤ s.time.hfn →
    exec (.breakExpiry c) s = .next (runCh c (fun env w => beginResume env .expiry x.mode e w) s)) ∧
  (∀ (f : CtlFlow) (h : Head) (c : Ch) (m : ResumeReq) (k : ResumeMode) (x : Saved) (s : State), Turn f h (.resume (some m)) s →
    Names h c → s.chans[c].ctl.mode = .breakIn → s.chans[c].ctl.ctx = some x → s.chans[c].ctl.resume = none →
    (m = .whereLeft → k = .whereLeft) → (m = .onTime → k = .onTime) → (m = .preset → k = x.mode) →
    ∃ t, exec (.resume f h (some m)) s = .next t ∧
      t.chans[c] = (ranCh c (fun env w => beginResume env .resume k (env.now + env.cp.lead) w) s).ch) ∧
  (∀ (env : Env) (mode : ResumeMode) (c : Chan) (y : Saved), y = savedContext env mode c →
    y.b = env.now ∧ y.mode = mode ∧
    (∀ e, c.store.event y.event = some e → y.remaining = e.passes - (y.offset / (e.duration : Int)).toNat - 1) ∧
    (c.store.event y.event = none → y.remaining = 0) ∧
    ∀ o, c.seq.onAir = some o →
      (∀ q, o.item.kind = .pass ∨ o.item.kind = .fill .blank ∨ o.item.kind = .fill .absent → o.item.event ≠ 0 →
        c.origin o.item.event = some q → y.event = o.item.event ∧ y.offset = env.now - q) ∧
      (∀ q, o.item.kind = .fill .wait → o.item.forEvent ≠ 0 → c.origin o.item.forEvent = some q →
        y.event = o.item.forEvent ∧ y.offset = env.now - q) ∧
      (o.item.kind = .fill .gap ∨ o.item.kind = .fill .scheduleEnd →
        (∀ a, c.store.anchor = some a → (c.store.event a.event).isSome = true →
          y.event = a.event ∧ y.offset = env.now - (a.frame - a.offset)) ∧
        (c.store.anchor = none ∨ (∃ a, c.store.anchor = some a ∧ c.store.event a.event = none) →
          y.event = 0 ∧ y.offset = 0))) ∧
  (∀ (env : Env) (cause : ResumeCause) (mode : ResumeMode) (r : Frame) (x : Saved) (w u : W), w.ch.ctl.ctx = some x →
    u = (w.modCtl fun c => { c with resume := some { cause := cause, mode := mode, r := r } }).modStore (fun t => { t with
      anchor := if x.event = 0 then t.anchor
        else some { event := x.event, offset := x.offset, frame := match mode with | .whereLeft => r | .onTime => x.b } }) →
    beginResume env cause mode r w = pump env (settle env (handJoin env .resume r (judgeHeld env r (settle env u))))) ∧
  (∀ (env : Env) (r : Frame) (w : W), (w.ch.trig.held = [] → judgeHeld env r w = w) ∧
    ∀ (x : PendTrig) (l : List PendTrig) (q : Frame) (e : Event) (u : W), w.ch.trig.held = x :: l →
      w.ch.origin x.event = some q → w.ch.store.event x.event = some e → u = w.modTrig (fun t => { t with held := l }) →
      (q + x.offset < r → judgeHeld env r w = judgeHeld env r ((u.setMark x.event x.index (some (q + x.offset))).record env .trigger
        x.event (x.offset / e.duration) x.offset x.source (.outcome .missed) (some x.code))) ∧
      (r ≤ q + x.offset → judgeHeld env r w = judgeHeld env r (u.setMark x.event x.index none))) ∧
  ∀ (c : Ch) (x : Resume) (s : State), s.powered = true → s.chans[c].ctl.mode = .breakIn → s.chans[c].ctl.resume = some x →
    x.r ≤ s.time.hfn →
    ∃ t, exec (.breakEnd c) s = .next t ∧ Within c s t ∧ t.chans[c].ctl.mode = .takeover ∧ t.chans[c].ctl.ctx = none ∧
      t.chans[c].ctl.resume = none ∧ t.chans[c].ctl.expiry = none

/-! ## Items and players -/

/-- The item at the preroll pointer is cued once its cue window has opened and a player is free: the record becomes CUEING with
the item loaded, to roll at the item's resolved start (R105); an item waits behind a landing that has no cue yet (R114).
A late item is cued as soon as a player is free, to roll at the later of its start and now plus preroll lead: the item
at the pointer, the landing, or the break-in clip (R112, R114, R148). A cue for which the player's queue has no room fails as though
answered UNABLE: the record is IDLE again and holds nothing (R106). That a landing which a player holds past its target lets the item at
the pointer be cued, and that a break-in clip is cued before a landing, are the model's choices (log entries 92 and 94, DESIGN CHOICE). -/
def Obligations.ItemsAreCuedOnTimeOrAtOnce : Prop :=
  (∀ (c : Ch) (p : PlayerId) (i : Item) (v : Event) (h : Nat × Bool) (s : State), s.powered = true →
     (∀ l, s.chans[c].seq.landing = some l → l.item.player ≠ some p ∧ (l.item.kind = .pass → l.item.player.isSome = true)) →
     s.chans[c].seq.cued = none → s.chans[c].seq.preroll = some i → i.kind = .pass → i.attempts = 0 →
     s.time.hfn + s.params.chans[c].lead ≤ i.start →
     i.start - (s.params.chans[c].lead + s.params.chans[c].margin) ≤ s.time.hfn →
     s.chans[c].cuesAllowed i.start = true → s.chans[c].freePlayer none = some p →
     s.chans[c].store.event i.event = some v → cueHandle v i = some h → i.endsAfter i.start = true →
     (hasRoom (s.chans[c].seq.player p) = true →
       ∃ t, exec (.cueWindow c) s = .next t ∧ Within c s t ∧ t.chans[c].seq.cued = some (i.cuedFor v p h) ∧
         (t.chans[c].seq.player p).state = .cueing ∧ (t.chans[c].seq.player p).loaded = some (i.cuedFor v p h) ∧
         (t.chans[c].seq.player p).roll = some i.start ∧ (t.chans[c].seq.player p).endF = i.stop) ∧
     (hasRoom (s.chans[c].seq.player p) = false →
       ∃ t, exec (.cueWindow c) s = .next t ∧ Within c s t ∧ t.chans[c].seq.cued = none ∧
         (t.chans[c].seq.player p).state = .idle ∧ (t.chans[c].seq.player p).loaded = none)) ∧
  ((∀ (c : Ch) (p : PlayerId) (i : Item) (v : Event) (h : Nat × Bool) (r : Frame) (s : State), s.powered = true →
     r = max i.start (s.time.hfn + s.params.chans[c].lead) → s.chans[c].seq.landing = none → s.chans[c].seq.breakClip = none →
     s.chans[c].seq.cued = none → s.chans[c].seq.preroll = some i → i.kind = .pass →
     i.start < s.time.hfn + s.params.chans[c].lead ∨ 0 < i.attempts → s.chans[c].cuesAllowed r = true →
     s.chans[c].freePlayer i.avoid = some p → s.chans[c].store.event i.event = some v → cueHandle v i = some h →
     i.endsAfter r = true →
     (hasRoom (s.chans[c].seq.player p) = true →
       ∃ t, exec (.lateCue c) s = .next t ∧ Within c s t ∧ t.chans[c].seq.cued = some (i.cuedFor v p h) ∧
         (t.chans[c].seq.player p).state = .cueing ∧ (t.chans[c].seq.player p).loaded = some (i.cuedFor v p h) ∧
         (t.chans[c].seq.player p).roll = some r) ∧
     (hasRoom (s.chans[c].seq.player p) = false →
       ∃ t, exec (.lateCue c) s = .next t ∧ Within c s t ∧ t.chans[c].seq.cued = none ∧
         (t.chans[c].seq.player p).state = .idle ∧ (t.chans[c].seq.player p).loaded = none)) ∧
   (∀ (c : Ch) (p : PlayerId) (l : Landing) (v : Event) (h : Nat × Bool) (r : Frame) (s : State), s.powered = true →
     r = max l.item.start (s.time.hfn + s.params.chans[c].lead) → s.chans[c].seq.breakClip = none →
     s.chans[c].seq.landing = some l → l.item.kind = .pass → l.item.player = none → s.chans[c].ctl.pendingBreak = none →
     s.chans[c].rollsBeforeReturn r = true → s.chans[c].freePlayer l.item.avoid = some p → s.chans[c].store.event l.item.event = some v →
     cueHandle v l.item = some h → l.item.endsAfter r = true →
     (hasRoom (s.chans[c].seq.player p) = true →
       ∃ t, exec (.lateCue c) s = .next t ∧ Within c s t ∧
         t.chans[c].seq.landing = some { l with item := l.item.cuedFor v p h } ∧
         (t.chans[c].seq.player p).state = .cueing ∧ (t.chans[c].seq.player p).roll = some r) ∧
     (hasRoom (s.chans[c].seq.player p) = false →
       ∃ t x, exec (.lateCue c) s = .next t ∧ Within c s t ∧ t.chans[c].seq.landing = some x ∧ x.item.player = none)) ∧
   ∀ (c : Ch) (p : PlayerId) (i : Item) (n : Nat) (r : Frame) (s : State), s.powered = true →
     r = max i.start (s.time.hfn + s.params.chans[c].lead) → s.chans[c].seq.breakClip = some i → i.kind = .brk →
     (∀ j, s.chans[c].seq.preroll = some j → j.kind = .pass) →
     i.player = none → i.handle = some n → s.chans[c].freePlayer i.avoid = some p → i.endsAfter r = true →
     (hasRoom (s.chans[c].seq.player p) = true →
       ∃ t, exec (.lateCue c) s = .next t ∧ Within c s t ∧ t.chans[c].seq.breakClip = some (i.cuedOn p (n, false)) ∧
         (t.chans[c].seq.player p).state = .cueing ∧ (t.chans[c].seq.player p).roll = some r) ∧
     (hasRoom (s.chans[c].seq.player p) = false →
       ∃ t j, exec (.lateCue c) s = .next t ∧ Within c s t ∧ t.chans[c].seq.breakClip = some j ∧ j.player = none))

/-- An item at the pointer, or a landing, with no cue issued by the period in which now plus preroll lead reaches its end is lost
whole: ABSENT fill takes its place; and so is a break-in clip (R112, R150), which makes no ITEM_LATE record: that is the model's
reading (log entry 25). While a break-in is pending the landing is lost in the same way and the item at the pointer is not: that is the
model's choice (log entry 87), and so is that an item which R142 withholds in RETURNING is lost as any other (log entry 87). -/
def Obligations.ItemsAreLostWhole : Prop :=
  (∀ (c : Ch) (i : Item) (s : State), s.powered = true → s.chans[c].seq.landing = none → s.chans[c].seq.cued = none →
    s.chans[c].seq.preroll = some i → i.endsAfter (s.time.hfn + s.params.chans[c].lead) = false →
    s.chans[c].active = true → s.chans[c].ctl.pendingBreak = none → s.chans[c].ctl.mode ≠ .breakIn →
    ∃ t, exec (.itemLost c) s = .next t ∧ Within c s t ∧
      ∃ x ∈ t.chans[c].seq.spent, x.event = i.event ∧ x.pass = i.pass) ∧
  (∀ (c : Ch) (l : Landing) (s : State), s.powered = true → s.chans[c].seq.landing = some l → l.item.kind = .pass →
    l.item.player = none → l.item.endsAfter (s.time.hfn + s.params.chans[c].lead) = false →
    ∃ t, exec (.itemLost c) s = .next t ∧ Within c s t ∧
      ∃ x ∈ t.chans[c].seq.spent, x.event = l.item.event ∧ x.pass = l.item.pass) ∧
  ∀ (c : Ch) (i : Item) (s : State), s.powered = true → s.chans[c].seq.breakClip = some i → i.kind = .brk → i.player = none →
    i.endsAfter (s.time.hfn + s.params.chans[c].lead) = false →
    ∃ t, exec (.itemLost c) s = .next t ∧ Within c s t ∧
      t.chans[c].seq.breakClip = some { i with kind := .fill .absent, player := none } ∧
      (s.chans[c].seq.landing = none → s.chans[c].ctl.mode = .breakIn ∨ s.chans[c].ctl.pendingBreak.isSome = true →
        (∀ o, s.chans[c].seq.onAir = some o → o.item.kind ≠ .fill .wait) → t.log = s.log)

/-- At its roll frame a CUED player is PLAYING with its item on air from now (R103, R107), with the fill mark where a FILL_NOW
fell due before (R161); at its end frame a PLAYING player
without a STOP for that frame is IDLE (R107); at its stop frame a player is STOPPING, or IDLE when the stop was confirmed
(R108). The item it carries leaves the air. The rest of the timeline follows in the same period (R32).
A STOP for an item whose own STOP is still queued replaces that one's stop frame; any other takes a fresh tag and is queued, behind a
STOP that cancelled an earlier item's cue too, or sent where nothing waits (R106, R108). -/
def Obligations.PlayersRollEndAndStop : Prop :=
  (∀ (env : Env) (p : PlayerId) (frame : Frame) (w : W) (x y : Player), x = w.player p → y = (issueStop env p frame w).player p →
    (∀ (a b : List (Nat × PReq)) (tag : Nat) (old : Frame), x.stopF.isSome = true → x.queue = a ++ (tag, .stop old) :: b →
      (∀ q ∈ b, q.2.isStop = false) →
      y = { x with stopF := some frame, stopConfirmed := false, queue := a ++ (tag, .stop frame) :: b }) ∧
    (x.stopF = none ∨ (∀ q ∈ x.queue, q.2.isStop = false) → x.queue.length < 4 →
      (x.flight.isSome = true → y = { x with stopF := some frame, stopConfirmed := false, tags := (x.tags + 1) % 65536,
                                             queue := insertReq (x.tags, .stop frame) x.queue }) ∧
      (x.flight = none → x.queue = [] → y.flight.map (fun f => (f.tag, f.req)) = some (x.tags, .stop frame) ∧ y.queue = [] ∧
        y.tags = (x.tags + 1) % 65536 ∧ y.stopF = some frame ∧ y.state = x.state ∧ y.loaded = x.loaded))) ∧
  ∀ (c : Ch) (p : PlayerId) (x : Player) (s : State) (now : Frame), s.powered = true → x = s.chans[c].seq.player p →
    now = s.time.hfn →
    (∀ i w, x.state = .cued → x.roll = some now → x.loaded = some i → w = playerRoll (envOf s c) p (begun s c) →
      exec (.playerRoll c p) s = .next (runCh c (followed settled fun env => playerRoll env p) s) ∧
      (s.chans[c].ctl.mode ≠ .returning → (w.player p).state = .playing) ∧
      ∃ o, w.ch.seq.onAir = some o ∧ o.item = { i with onAirStart := some now } ∧ o.framesIn = 0 ∧
        o.fillMark = (i.isPass && i.fillDue)) ∧
    (∀ w, x.state = .playing → x.endF = some now → x.stopF ≠ some now → w = playerEnd (envOf s c) p (begun s c) →
      exec (.playerEnd c p) s = .next (runCh c (followed settled fun env => playerEnd env p) s) ∧
      (w.player p).state = .idle ∧ (w.player p).loaded = none ∧
      (s.chans[c].carries p = true → w.ch.seq.onAir = none) ∧
      (s.chans[c].carries p = false → w.ch.seq.onAir = s.chans[c].seq.onAir)) ∧
    (∀ w, x.state = .playing ∨ x.state = .cued ∨ x.state = .cueing → x.stopF = some now →
      w = stopFrame (envOf s c) p (begun s c) →
      exec (.stopFrame c p) s = .next (runCh c (followed settled fun env => stopFrame env p) s) ∧
      (w.player p).state = (if x.stopConfirmed then .idle else .stopping) ∧ (w.player p).loaded = none ∧
      (s.chans[c].carries p = true → w.ch.seq.onAir = none))

/-- A player whose request has gone unanswered for the reply timeout, or a PLAYING player whose late-frame run has reached the
stall limit, enters FAULT: nothing in flight, nothing queued, nothing loaded (R110, R111). That neither command has an effect before is the
model's (log entry 2). -/
def Obligations.SilentPlayersFault : Prop :=
  ∀ (c : Ch) (p : PlayerId) (x : Player) (s : State), s.powered = true → x = s.chans[c].seq.player p →
    (∀ f, x.flight = some f → f.probe = false → s.params.part.replyTimeout ≤ f.age → x.state ≠ .fault →
      ∃ t, exec (.replyTimeout c p) s = .next t ∧ Within c s t ∧ (t.chans[c].seq.player p).state = .fault ∧
        (t.chans[c].seq.player p).flight = none ∧ (t.chans[c].seq.player p).queue = [] ∧
        (t.chans[c].seq.player p).loaded = none) ∧
    (x.state = .playing → s.params.chans[c].stallLimit ≤ x.lateRun →
      ∃ t, exec (.stall c p) s = .next t ∧ Within c s t ∧ (t.chans[c].seq.player p).state = .fault ∧
        (t.chans[c].seq.player p).flight = none ∧ (t.chans[c].seq.player p).queue = [] ∧
        (t.chans[c].seq.player p).loaded = none) ∧
    ((∀ f, x.flight = some f → f.probe = true ∨ f.age < s.params.part.replyTimeout) →
      exec (.replyTimeout c p) s = .next s) ∧
    (x.state ≠ .playing ∨ x.lateRun < s.params.chans[c].stallLimit → exec (.stall c p) s = .next s)

/-- A FAULT player whose probe timer has reached the probe interval is sent a QUERY of handle 0 (R111). The readiness sweep asks
about the first UNKNOWN event of its window on the first player with nothing in flight or queued (R118). That the request carries the
counter's present tag, and the counter then stands at the next value, is the model's reading of R106 (log entry 18, DEDUCED). -/
def Obligations.PlayersAreProbedAndAsked : Prop :=
  (∀ (c : Ch) (p : PlayerId) (x : Player) (s : State), s.powered = true → x = s.chans[c].seq.player p →
    x.state = .fault → s.params.part.probeInterval ≤ x.probeTimer →
    exec (.probe c p) s = .next { s.setCh c { s.chans[c] with seq := s.chans[c].seq.setPlayer p { x with
        flight := some { tag := x.tags, req := .query 0, sent := s.time.hfn, age := 0, probe := true },
        tags := (x.tags + 1) % two16, probeTimer := 0 } } with
      sent := s.sent ++ leaves s (playerAddr s c p) (.player c p x.tags (.query 0)) }) ∧
  ∀ (c : Ch) (p : PlayerId) (x : Player) (v : Event) (s : State), s.powered = true → x = s.chans[c].seq.player p →
    s.chans[c].seq.sweep = none →
    (s.chans[c].sweepWindow s.time.hfn s.params.chans[c].sweepDepth).find? (fun e => decide (e.readiness = .unknown)) = some v →
    [PlayerId.a, .b].find? (fun q => (s.chans[c].seq.player q).quiet) = some p →
    ∃ t, exec (.sweepQuery c) s = .next t ∧ Within c s t ∧
      t.chans[c].seq.sweep = some { player := p, tag := x.tags, event := v.id } ∧
      (t.chans[c].seq.player p).flight = some { tag := x.tags, req := .query v.sweepHandle, sent := s.time.hfn, age := 0,
                                                probe := false } ∧
      t.sent = s.sent ++ leaves s (playerAddr s c p) (.player c p x.tags (.query v.sweepHandle))

/-- Under HOT in MIRROR, with the anchor event resolved and no shadow, the shadow is joined at now plus preroll lead (R120); a
shadow whose realign run has reached the realign persistence is joined again there (R121). The preroll lead is 3 or more (R193). -/
def Obligations.TheShadowStartsAndRejoins : Prop :=
  ∀ (c : Ch) (s : State), s.powered = true → s.chans[c].ctl.mode = .mirror → 3 ≤ s.params.chans[c].lead →
    (∀ w, s.params.chans[c].standby = .hot → s.chans[c].seq.shadow = false → s.chans[c].anchorResolved = true →
      w = shadowStart (envOf s c) (begun s c) →
      exec (.shadowStart c) s = .next (runCh c (followed pump shadowStart) s) ∧ w.ch.ctl.mode = .mirror ∧
      w.ch.seq.shadow = true ∧ ∃ l, w.ch.seq.landing = some l ∧ l.target = s.time.hfn + s.params.chans[c].lead) ∧
    (∀ w, s.chans[c].seq.shadow = true → s.params.chans[c].realignPersistence ≤ s.chans[c].seq.realign →
      w = shadowRejoin (envOf s c) (begun s c) →
      exec (.shadowRejoin c) s = .next (runCh c (followed pump shadowRejoin) s) ∧ w.ch.ctl.mode = .mirror ∧
      w.ch.seq.shadow = true ∧ w.ch.seq.realign = 0 ∧
      ∃ l, w.ch.seq.landing = some l ∧ l.target = s.time.hfn + s.params.chans[c].lead)

/-- The triggers whose insertion frame has come leave the pending list in TAKEOVER and RETURNING; in JOINING and BREAK_IN they
stay, marked LATE; in MIRROR nothing happens. Those that are not due stay as they are (R160).
In TAKEOVER each due entry, in list order, has the effect of its action and a TRIGGER record, DONE or, marked LATE or waiting past its
insertion frame, LATE; an entry that waited past its trigger frame has no effect and is recorded MISSED; in RETURNING every due entry is
recorded MISSED (R160, R161, R162). A FILL_NOW marks its owning PASS item on air, or, where that is still cued for a late roll frame, for
its time on air (R161).
An item's triggers are judged in the order of its event's list, those whose frame lies in the item's span and is not their judged mark, in
every mode but MIRROR: an empty code is recorded UNDEFINED, a frame that is past or before the aired start MISSED, and any other joins the
pending list, with the first frame not yet built as its insertion frame and marked LATE where its own is past (R158).
When the timeline is set anew, the entries of the on-air and cued items leave the list and are judged again: one whose trigger frame did
not move to the same result, with the action it copied, and any other under R158 (R157, R159). That an entry did not move where event,
code, offset and trigger frame are the same, and what it then keeps, is the model's reading (log entry 91, DEDUCED).
At the start of a break-in the pending entries become the held list (R150, R159).
Two points more are the model's and no rule of the spec: that TRIGGER_ACT where nothing is due, as in MIRROR, leaves the state unchanged (log
entry 2, DESIGN CHOICE), and that a frame counts as already built from the mark `built` of the period, so that frame now is MISSED once the
period's frames are built and a late entry's insertion frame is then now + 1, and now before that (log entry 37, DEDUCED). -/
def Obligations.DueTriggersAreDealtWith : Prop :=
  (∀ (c : Ch) (m : Mode) (s : State), s.powered = true → m = s.chans[c].ctl.mode →
    ∃ t, exec (.triggerAct c) s = .next t ∧ Within c s t ∧ t.chans[c].trig.held = s.chans[c].trig.held ∧
      (m = .takeover ∨ m = .returning →
        t.chans[c].trig.pending = s.chans[c].trig.pending.filter fun x => decide ((s.time.hfn : Frame) < x.insertion)) ∧
      (m = .joining ∨ m = .breakIn → t.chans[c].trig.pending = s.chans[c].trig.pending.map fun x =>
        if x.insertion ≤ (s.time.hfn : Frame) then { x with late := true } else x) ∧
      (m = .mirror → t = s)) ∧
  (∀ (c : Ch) (s : State), s.powered = true →
    (s.chans[c].ctl.mode = .takeover →
      exec (.triggerAct c) s = .next (runCh c (fun env w => (w.due env).foldl (actEntry env) w) s)) ∧
    (s.chans[c].ctl.mode = .returning →
      exec (.triggerAct c) s = .next (runCh c (fun env w =>
        (w.due env).foldl (fun u x => (u.without x).outcome env x .missed) w) s))) ∧
  (∀ (env : Env) (w u : W) (x : PendTrig) (late : Bool), u = w.without x →
    (late = true ↔ x.late = true ∨ x.insertion < env.now) →
    (x.insertion < env.now ∧ x.frame < env.now → actEntry env w x = u.outcome env x .missed) ∧
    (¬ (x.insertion < env.now ∧ x.frame < env.now) →
      ∃ v, actEntry env w x = v.outcome env x (if late then .late else .done) ∧
        (x.action = .none ∨ x.action = .mark → v = u) ∧
        (x.action = .identOn → v = u.modOut fun o => { o with window := { o.window with enabled := true, phase := 0 } }) ∧
        (x.action = .identOff → v = u.modOut fun o => { o with window := { o.window with enabled := false, phase := 0 } }) ∧
        (x.action = .identBlink → v = u.modOut fun o => { o with window := { o.window with
          enabled := true, phase := 0, blink := if o.window.blink = 0 then 25 else o.window.blink } }) ∧
        (∀ slot on, x.action = .ident slot on → v = u.modOut fun o => { o with window := { o.window with
          slot := slot, enabled := on, phase := 0 } }) ∧
        (∀ o, x.action = .fillNow → u.ch.seq.onAir = some o →
          v.ch.seq.onAir = some { o with fillMark := o.fillMark || (o.item.isPass && x.ownedBy o.item) }) ∧
        (x.action = .fillNow → (∀ o, u.ch.seq.onAir = some o → o.item.isPass = true → x.ownedBy o.item = false) →
          (∀ p i, (u.player p).loaded = some i → i.isPass = true → x.ownedBy i = true →
            (v.player p).loaded = some { i with fillDue := true }) ∧
          (∀ i, u.ch.seq.cued = some i → i.isPass = true → x.ownedBy i = true → v.ch.seq.cued = some { i with fillDue := true }) ∧
          ∀ l, u.ch.seq.landing = some l → l.item.isPass = true → x.ownedBy l.item = true →
            v.ch.seq.landing = some { l with item := { l.item with fillDue := true } }) ∧
        (∀ p n, x.action = .outputCue p n →
          v = u.modOut fun o => { o with cues := o.cues ++ [{ code := x.code, payload := p }] }) ∧
        (x.action = .notify → v = u.emit (.notice .loc env.ch.val
          (.trigger x.code x.event x.pass x.offset (whenOf env.rate x.frame) late))))) ∧
  (∀ (env : Env) (it : Item) (aired : Frame) (w : W),
    judgeItem env it aired w = judgeTriggers env [] it aired w ∧ ∀ old : List PendTrig,
    (w.ch.ctl.mode = .mirror ∨ it.ofEvent = false → judgeTriggers env old it aired w = w) ∧
    ∀ e r, w.ch.ctl.mode ≠ .mirror → it.ofEvent = true → w.ch.store.event it.event = some e → e.res = some r →
      judgeTriggers env old it aired w = (e.triggers.zipIdx.filter fun x =>
        decide (it.start ≤ r.origin + x.1.offset) && it.endsAfter (r.origin + x.1.offset) &&
          decide (x.1.mark ≠ some (r.origin + x.1.offset))).foldl
        (fun u x => judgeAgain env old it aired e x.2 x.1 (r.origin + x.1.offset) u) w) ∧
  (∀ (env : Env) (it : Item) (aired : Frame) (e : Event) (k : Nat) (x : Trig) (f : Frame) (w u v : W),
    u = w.setMark e.id k (some f) → v = judgeOne env it aired e k x f w →
    (trigAction env.table x.code = none → v = u.record env .trigger e.id (x.offset / e.duration) x.offset it.source
      (.outcome .undefined) (some x.code)) ∧
    ∀ act, trigAction env.table x.code = some act →
      (f < env.now ∨ (f = env.now ∧ env.built = true) ∨ f < aired →
        v = u.record env .trigger e.id (x.offset / e.duration) x.offset it.source (.outcome .missed) (some x.code)) ∧
      (env.now ≤ f → (f = env.now → env.built = false) → aired ≤ f → ∃ y : PendTrig,
        v = u.modTrig (fun l => { l with pending := insertPend y l.pending }) ∧ y.code = x.code ∧ y.action = act ∧
        y.ownedBy it = true ∧ y.source = it.source ∧ y.event = e.id ∧ y.index = k ∧ y.offset = x.offset ∧ y.frame = f ∧
        (y.late = true ↔ f - act.advance < env.now ∨ (f - act.advance = env.now ∧ env.built = true)) ∧
        (y.late = false → y.insertion = f - act.advance) ∧
        (y.late = true → y.insertion = if env.built then env.now + 1 else env.now))) ∧
  (∀ (env : Env) (old : List PendTrig) (it : Item) (aired : Frame) (e : Event) (k : Nat) (x : Trig) (f : Frame) (w : W),
    (∀ y, old.find? (fun z => decide (z.event = e.id) && decide (z.code = x.code) && decide (z.offset = x.offset) &&
          decide (z.frame = f)) = some y →
      ∃ z : PendTrig, z = { y with ownerEvent := it.event, ownerPass := it.pass, ownerStart := it.start, source := it.source,
                                   index := k, pass := x.offset / e.duration } ∧
        judgeAgain env old it aired e k x f w =
          (w.setMark e.id k (some f)).modTrig (fun l => { l with pending := insertPend z l.pending })) ∧
    ((∀ z ∈ old, z.event = e.id → z.code = x.code → z.offset = x.offset → z.frame ≠ f) →
      judgeAgain env old it aired e k x f w = judgeOne env it aired e k x f w)) ∧
  (∀ (env : Env) (w u v x : W) (old : List PendTrig), w.ch.ctl.mode ≠ .mirror → old = w.ch.trig.pending →
    u = w.dropPending (fun _ => true) →
    v = (match w.ch.seq.onAir with
      | some o => if w.ch.landingWaits env.now then u else judgeTriggers env old o.item (o.item.onAirStart.getD env.now) u
      | none => u) →
    x = (match w.ch.seq.landing with
      | some l => if l.item.player.isSome then judgeTriggers env old l.item (v.ch.rollOf l.item) v else v
      | none => v) →
    rejudge env w = (match w.ch.seq.cued with
      | some i => judgeTriggers env old i (x.ch.rollOf i) x
      | none => x)) ∧
  ∀ (c : Ch) (b : PendingBreak) (s : State), s.powered = true → s.chans[c].ctl.mode = .takeover →
    s.chans[c].ctl.pendingBreak = some b → b.b ≤ s.time.hfn → s.chans[c].seq.cued = none → s.chans[c].store.event 0 = none →
    (∀ i, (s.chans[c].seq.player b.player).loaded = some i → i.kind = .brk) →
    (∀ i, s.chans[c].seq.breakClip = some i → i.kind = .brk ∨ i.event = 0) →
    ∃ t, exec (.breakStart c) s = .next t ∧ Within c s t ∧ t.chans[c].trig.held = s.chans[c].trig.pending ∧
      t.chans[c].trig.pending = []

/-! ## The As-Run Log -/

/-- AS_RUN makes notices of the unreported records until none is due: the first is of the batch size, or of what waits when the
oldest has waited the flush interval (R182, R183). The ring and the record numbers stand (R181).
A record that a block hands to the log takes the next record number and the log tick, and stands last in the ring of 1024, from
which the oldest is dropped when it is full (R179, R181); a dropped record that was unreported counts as overrun.
A TRIGGER record waits for the end of its period, behind the item records of the period, and any other record joins at once with the test
of R183; at the boundary the waiting ones join one by one, before the number and the log tick move on (R160, R179; that they join as the
period ends is the model's reading, log entry 88, DEDUCED).
That AS_RUN given while no record is due leaves the state unchanged is the model's choice (log entry 2). -/
def Obligations.RecordsJoinTheRingAndAreReported : Prop :=
  (∀ s : State, s.powered = true → LogOk s.log →
     ∃ t, exec .asRun s = .next t ∧ t.log.ring = s.log.ring ∧ t.log.counter = s.log.counter ∧ t.log.tick = s.log.tick ∧
       t.chans = s.chans ∧ LogOk t.log ∧ asRunDue t = none ∧
       (∀ n, asRunDue s = some n → t.log.unreported < s.log.unreported ∧
         s.sent ++ noticePackets s .loc s.nextLocal 15 (.asRun s.log.cursor n (s.log.waiting.take n) s.log.overrun
           (s.log.unreported - n) s.now) <+: t.sent) ∧
       (asRunDue s = none → t = s)) ∧
  (∀ (l : Log) (r : RecProto), LogOk l →
     LogOk (l.append r) ∧ (l.append r).ring.getLast? = some { number := l.counter, body := r, tick := l.tick } ∧
     (l.append r).counter = (l.counter + 1) % 4294967296 ∧
     (l.ring.length < 1024 → (l.append r).ring.dropLast = l.ring ∧ (l.append r).unreported = l.unreported + 1 ∧
       (l.append r).overrun = l.overrun) ∧
     (l.ring.length = 1024 → (l.append r).ring.dropLast = l.ring.drop 1 ∧
       (l.unreported < 1024 → (l.append r).unreported = l.unreported + 1 ∧ (l.append r).overrun = l.overrun) ∧
       (l.unreported = 1024 → (l.append r).unreported = 1024 ∧ (l.append r).overrun = sat32 l.overrun))) ∧
  (∀ (s : State) (r : RecProto),
     (r.kind ≠ .trigger → s.record r = State.testAsRun { s with log := s.log.append r }) ∧
     (r.kind = .trigger → s.record r = { s with log := { s.log with triggers := s.log.triggers ++ [r] } })) ∧
  ∀ s : State, (∀ n, (boundaryAt n s).log = s.closePeriod.log) ∧ s.closePeriod.log.tick = s.log.tick ∧
     (s.log.triggers = [] → s.closePeriod = s) ∧
     ∀ r l, s.log.triggers = r :: l →
       s.closePeriod = State.closePeriod (State.testAsRun { s with log := { s.log.append r with triggers := l } })

/-! ## Requests of MAIN_CTL -/

/-- A MIRROR_BATCH of 1 to 32 operations: refused OUT_OF_SEQUENCE with a REPEATED notice in EMPTY, GAP and DIVERGED (R47); accepted
with the number after the last (R44), its operations then applied in order, to CURRENT in CURRENT and STALE and to the REFRESH generation
in SYNCING, with their own statuses (R46); in SYNCING aborted into GAP by a refusal for want of records, the operations after it ABORTED
(R50); answered DUPLICATE with the last number again; and any other number leads to GAP (R44). One operation: a PUT or REMOVE that
a check refuses changes nothing; a PUT aimed at CURRENT that would come too late is refused TOO_LATE (R27); a REMOVE meets the order
of R29; and what is applied stands in its generation, with the REFRESH digest pair following it (R38). That a REMOVE of event id 0 is
NOT_FOUND and not MALFORMED is the model's reading (log entry 89, DEDUCED). The operations are those within the stated body length
(R190); that they stand last in the body is the model's (log entry 10). -/
def Obligations.BatchesFollowTheSequence : Prop :=
  (∀ (f : CtlFlow) (h : Head) (c : Ch) (seq : Nat) (bytes : List Byte) (ops : List BatchOp) (m : Mirror) (s : State),
    Turn f h (.mirrorBatch seq bytes) s → Names h c → readOps (statedPart h bytes) = some ops → 1 ≤ ops.length → ops.length ≤ 32 →
    m = s.chans[c].mirror →
    (m.state = .empty ∨ m.state = .gap ∨ m.state = .diverged →
      exec (.mirrorBatch f h seq bytes) s = .next { afterTurn f s with
        nextMain := (s.nextMain + 1) % two16
        sent := s.sent ++ noticePackets s .main s.nextMain c.val (.refreshNeeded .repeated m.state m.lastSeq s.now) ++
          replyPackets s f h (.mirrorBatch seq bytes) (.outOfSequence, .batch seq m.state m.lastSeq [] s.free) }) ∧
    (m.state = .current ∨ m.state = .stale → seq = (m.lastSeq + 1) % 65536 →
      ∃ t v n, exec (.mirrorBatch f h seq bytes) s = .next t ∧ Within c (afterTurn f s) t ∧
        v = runCurrentOps (envOf s c) ops ((begun s c).modMirror fun x => { x with lastSeq := seq }) ∧
        t.chans[c] = (pump (envOf s c) (shadowStart (envOf s c) v.1)).ch ∧ t.chans[c].mirror = { m with lastSeq := seq } ∧ v.2.length = ops.length ∧
        Replies s t f h (.mirrorBatch seq bytes) (.ok, .batch seq m.state seq v.2 n)) ∧
    (m.state = .syncing → s.chans[c].store.refresh.isSome = true → seq = (m.lastSeq + 1) % 65536 →
      ∃ t v n, exec (.mirrorBatch f h seq bytes) s = .next t ∧ Within c (afterTurn f s) t ∧
        v = runRefreshOps (envOf s c) ops ((begun s c).modMirror fun x => { x with lastSeq := seq, timer := 0 }) ∧
        v.2.1.length = ops.length ∧ t.chans[c].store.current = s.chans[c].store.current ∧
        ((t.chans[c].mirror = { m with lastSeq := seq, timer := 0 } ∧ t.chans[c] = v.1.ch ∧
            Replies s t f h (.mirrorBatch seq bytes) (.ok, .batch seq .syncing seq v.2.1 n) ∧
            (.poolFull ∉ v.2.1 ∧ .limitReached ∉ v.2.1)) ∨
         (t.chans[c].mirror = { state := .gap, lastSeq := seq, timer := 0 } ∧ t.chans[c].store.refresh = none ∧
            Replies s t f h (.mirrorBatch seq bytes) (.aborted, .batch seq .gap seq v.2.1 n) ∧
            (.poolFull ∈ v.2.1 ∨ .limitReached ∈ v.2.1)))) ∧
    (m.state = .current ∨ m.state = .stale ∨ m.state = .syncing → seq = m.lastSeq → seq ≠ (m.lastSeq + 1) % 65536 →
      exec (.mirrorBatch f h seq bytes) s = .next { (afterTurn f s).setCh c { s.chans[c] with mirror := { m with timer := 0 } } with
        sent := s.sent ++
          replyPackets s f h (.mirrorBatch seq bytes) (.duplicate, .batch seq m.state m.lastSeq [] s.free) }) ∧
    (m.state = .current ∨ m.state = .stale ∨ m.state = .syncing → seq ≠ m.lastSeq → seq ≠ (m.lastSeq + 1) % 65536 →
      ∃ t n, exec (.mirrorBatch f h seq bytes) s = .next t ∧ Within c (afterTurn f s) t ∧
        t.chans[c].mirror = { m with state := .gap, timer := 0 } ∧ t.chans[c].store.refresh = none ∧
        t.chans[c].store.current = s.chans[c].store.current ∧
        Replies s t f h (.mirrorBatch seq bytes) (.outOfSequence, .batch seq .gap m.lastSeq [] n))) ∧
  (∀ (env : Env) (op : BatchOp) (ops : List BatchOp) (w : W),
    runCurrentOps env [] w = (w, []) ∧
    runCurrentOps env (op :: ops) w =
      ((runCurrentOps env ops (opCurrent env op w).1).1,
        (opCurrent env op w).2 :: (runCurrentOps env ops (opCurrent env op w).1).2) ∧
    runRefreshOps env [] w = (w, [], true) ∧
    ((opRefresh env op w).2 = .poolFull ∨ (opRefresh env op w).2 = .limitReached →
      runRefreshOps env (op :: ops) w =
        ((opRefresh env op w).1, (opRefresh env op w).2 :: List.replicate ops.length .aborted, false)) ∧
    ((opRefresh env op w).2 ≠ .poolFull → (opRefresh env op w).2 ≠ .limitReached →
      runRefreshOps env (op :: ops) w =
        ((runRefreshOps env ops (opRefresh env op w).1).1,
          (opRefresh env op w).2 :: (runRefreshOps env ops (opRefresh env op w).1).2.1,
          (runRefreshOps env ops (opRefresh env op w).1).2.2))) ∧
  (∀ (env : Env) (p : Put) (w : W) (r : OpResult),
    r = putOn env.rate env.timeSet env.cp.eventLimit (freeRecords env w.ch) w.ch.store.orphan
      (heldFrom env w.ch p.id p.duration) p w.ch.store.current →
    (∀ st, r = .refused st → opCurrent env (.put p) w = (w, st)) ∧
    (∀ st l old e, r = .applied st l old (some e) →
      (TooLate env w.ch p l old → opCurrent env (.put p) w = (w, .tooLate)) ∧
      (¬ TooLate env w.ch p l old → ∃ changed, opCurrent env (.put p) w =
        (currentChanged env w.ch p.id (old.any fun o => decide (o.lifecycle = .onAir)) e.held.isSome changed
          (w.modStore fun t => { t with current := l }), st)))) ∧
  (∀ (env : Env) (id : Nat) (w : W),
    ((∃ o, w.ch.store.orphan = some o ∧ o.id = id) → opCurrent env (.remove id) w = (w, .onAir)) ∧
    ((∀ o, w.ch.store.orphan = some o → o.id ≠ id) →
      (lookupId id w.ch.store.current = none → opCurrent env (.remove id) w = (w, .notFound)) ∧
      ∀ e, lookupId id w.ch.store.current = some e →
        (e.lifecycle = .onAir → opCurrent env (.remove id) w = (w, .onAir)) ∧
        (e.lifecycle = .cued → (∃ r, e.res = some r ∧ r.start < env.now + env.cp.lead) →
          opCurrent env (.remove id) w = (w, .tooLate)) ∧
        (e.lifecycle ≠ .onAir → (e.lifecycle = .cued → ∀ r, e.res = some r → env.now + env.cp.lead ≤ r.start) →
          opCurrent env (.remove id) w = (currentChanged env w.ch id false false true
            (w.modStore fun t => { t with current := removeId id t.current }), .ok)))) ∧
  ∀ (env : Env) (op : BatchOp) (w : W) (r : Refresh) (x : OpResult), w.ch.store.refresh = some r →
    x = (match op with
      | .put p => putOn env.rate env.timeSet env.cp.eventLimit (freeRecords env w.ch) w.ch.store.orphan 0 p r.events
      | .remove id => removeOn env.now env.cp.lead w.ch.store.orphan false id r.events) →
    (∀ st, x = .refused st → opRefresh env op w = (w, st)) ∧
    (∀ st l old new, x = .applied st l old new → ∃ r', opRefresh env op w =
      (w.modStore fun t => { t with refresh := some r' }, st) ∧ r'.opening = r.opening ∧ r'.events = l ∧
        ((r.events.map (·.id)).Nodup → (∀ e ∈ r.events, e.lifecycle = .pending) → (r.count, r.sum) = digestOf r.events →
          (r'.count, r'.sum) = digestOf l))

/-- REFRESH_OPEN opens a new REFRESH generation, empty, in any state: SYNCING, with its number as the last and as the opening
sequence, and the inactivity timer at 0 (R48).
REFRESH_CLOSE in SYNCING with the number after the last commits a generation whose count and sum agree: its events become CURRENT
and the timeline then settles on them, retiring what qualifies (R36), with no REFRESH generation left; the state becomes CURRENT, or
STALE in a site silence (R53). Where the pair does not agree the refresh is given up as DIVERGED and CURRENT stands (R57). The last
number again is DUPLICATE, with the refresh open and the timer at 0; a number out of sequence leads to GAP (R52). In CURRENT and STALE
the last number is DUPLICATE and changes nothing; in EMPTY, GAP and DIVERGED the close is OUT_OF_SEQUENCE (R52). The timer at 0 after
a close that ends the refresh is the model's choice (log entry 49), and so is that the triggers of the items on air and cued are
judged at once (log entry 70). -/
def Obligations.RefreshesOpenAndClose : Prop :=
  (∀ (f : CtlFlow) (h : Head) (c : Ch) (seq : Nat) (s : State), Turn f h (.refreshOpen seq) s → Names h c →
     ∃ t n, exec (.refreshOpen f h seq) s = .next t ∧ t.chans[c] = { s.chans[c] with
         store := { s.chans[c].store with refresh := some { opening := seq, events := [], count := 0, sum := 0 } },
         mirror := { state := .syncing, lastSeq := seq, timer := 0 } } ∧
       Within c (afterTurn f s) t ∧ t.nextLocal = (s.nextLocal + 1) % two16 ∧ t.nextMain = s.nextMain ∧ t.log = s.log ∧
       t.sent = s.sent ++ noticePackets s .loc s.nextLocal c.val
           (.mirror s.chans[c].mirror.state .syncing .opened seq (some seq) s.time.hfn) ++
         replyPackets s f h (.refreshOpen seq) (.ok, .refresh .syncing seq none n)) ∧
  (∀ (f : CtlFlow) (h : Head) (c : Ch) (seq count sum : Nat) (m : Mirror) (s : State),
     Turn f h (.refreshClose seq count sum) s → Names h c → m = s.chans[c].mirror →
     (∀ r, m.state = .syncing → s.chans[c].store.refresh = some r → seq = (m.lastSeq + 1) % 65536 →
       ∃ t n, exec (.refreshClose f h seq count sum) s = .next t ∧ Within c (afterTurn f s) t ∧
         (count = r.count ∧ sum = r.sum →
           t.chans[c].mirror = { state := if s.expired then .stale else .current, lastSeq := seq, timer := 0 } ∧
           t.chans[c].store.refresh = none ∧
           (∃ w : W, w.ch.store.current.map Event.core = r.events.map Event.core ∧ w.ch.store.refresh = none ∧
             w.ch.store.anchor = s.chans[c].store.anchor ∧
             t.chans[c] = (pump (envOf s c) (shadowStart (envOf s c) (abandonSweep (rejudge (envOf s c) (settle (envOf s c) w))))).ch) ∧
           (StoreOk s.chans[c].store →
             (t.chans[c].store.current.map Event.core).Sublist (r.events.map Event.core)) ∧
           (StoreOk s.chans[c].store → s.chans[c].ctl.mode = .mirror → s.chans[c].store.anchor = none →
             (∀ e ∈ r.events, e.fixed = none) → t.chans[c].store.current.map Event.core = r.events.map Event.core) ∧
           Replies s t f h (.refreshClose seq count sum)
             (.ok, .refresh (if s.expired then .stale else .current) seq (some (r.count, r.sum)) n)) ∧
         (¬ (count = r.count ∧ sum = r.sum) →
           t.chans[c].mirror = { state := .diverged, lastSeq := seq, timer := 0 } ∧ t.chans[c].store.refresh = none ∧
           t.chans[c].store.current = s.chans[c].store.current ∧
           Replies s t f h (.refreshClose seq count sum) (.mismatch, .refresh .diverged seq (some (r.count, r.sum)) n))) ∧
     (m.state = .syncing → s.chans[c].store.refresh.isSome = true → seq = m.lastSeq →
       exec (.refreshClose f h seq count sum) s = .next { (afterTurn f s).setCh c { s.chans[c] with mirror := { m with timer := 0 } } with
         sent := s.sent ++
           replyPackets s f h (.refreshClose seq count sum) (.duplicate, .refresh .syncing m.lastSeq none s.free) }) ∧
     (m.state = .current ∨ m.state = .stale → seq = m.lastSeq →
       exec (.refreshClose f h seq count sum) s = .next { afterTurn f s with
         sent := s.sent ++
           replyPackets s f h (.refreshClose seq count sum) (.duplicate, .refresh m.state m.lastSeq none s.free) }) ∧
     (m.state = .current ∨ m.state = .stale ∨ (m.state = .syncing ∧ s.chans[c].store.refresh.isSome = true ∧
         seq ≠ (m.lastSeq + 1) % 65536) → seq ≠ m.lastSeq →
       ∃ t n, exec (.refreshClose f h seq count sum) s = .next t ∧ Within c (afterTurn f s) t ∧
         t.chans[c].mirror = { m with state := .gap, timer := 0 } ∧ t.chans[c].store.refresh = none ∧
         t.chans[c].store.current = s.chans[c].store.current ∧
         Replies s t f h (.refreshClose seq count sum) (.outOfSequence, .refresh .gap m.lastSeq none n)) ∧
     (m.state = .empty ∨ m.state = .gap ∨ m.state = .diverged →
       exec (.refreshClose f h seq count sum) s = .next { afterTurn f s with
         nextMain := (s.nextMain + 1) % two16
         sent := s.sent ++ noticePackets s .main s.nextMain c.val (.refreshNeeded .repeated m.state m.lastSeq s.now) ++
           replyPackets s f h (.refreshClose seq count sum) (.outOfSequence, .refresh m.state m.lastSeq none s.free) }))

/-- A PUT that is applied to a generation leaves it in order, puts one record there under its id with the PUT's key, duration and
passes, and leaves every other record as it was (R20, R24, R28).
Resolution walks a generation in its order (R32, R33): each event after the first starts at the resolved end of the one before, a FIXED
one at the later of that and its start frame; its end is no earlier than its start, its own, or the next FIXED start where that is earlier;
a DROP event's span is empty. The anchor event's origin is the anchor frame less the anchor offset and its end no earlier than the frame
after the anchor frame; an ON_AIR event that a change shortens ends no earlier than now + 2 (R34). The events before the anchor event, or
with no anchor event before the first FIXED one, have no derived frames (R33, R35). What qualifies retires, until nothing more does (R36).
The stamp of a MAIN frame taken in MIRROR or JOINING sets the anchor; the timeline then settles on it (R30, R32). -/
def Obligations.AppliedPutsKeepTheOrder : Prop :=
  (∀ (rc : RateCode) (set : Bool) (limit free fromPass : Nat) (orphan : Option Event) (p : Put) (l l' : List Event) (st : Status)
    (old new : Option Event),
    Ordered l → putOn rc set limit free orphan fromPass p l = .applied st l' old new →
    Ordered l' ∧ old = lookupId p.id l ∧
    (∃ e, new = some e ∧ lookupId p.id l' = some e ∧ e.id = p.id ∧ e.key = p.key ∧ e.duration = p.duration ∧
      e.passes = p.passes) ∧
    (∀ id, id ≠ p.id → lookupId id l' = lookupId id l) ∧ (old = none → l'.length = l.length + 1 ∧ l.length < limit ∧ 0 < free)) ∧
  (∀ (x : RCtx) (origin start : Frame) (e : Event) (rest : List Event) (y : Event), y = e.resolveAt x origin start (nextFixed rest) →
    ∃ r, y = { e with res := some r } ∧ r.origin = origin ∧ r.start = start ∧ start ≤ r.stop ∧
      (∀ a, x.anchor = some a → a.event = e.id → e.lifecycle ≠ .orphan → a.frame + 1 ≤ r.stop) ∧
      (∀ q, e.lifecycle = .onAir → e.res = some q → askedEnd x origin start e (nextFixed rest) < q.asked → x.now + 2 ≤ r.stop) ∧
      ((∀ a, x.anchor = some a → a.event ≠ e.id) → e.lifecycle = .pending ∨ e.lifecycle = .cued →
        r.stop = max start (match nextFixed rest with
          | some s => min (origin + effLen e) (s : Frame)
          | none => origin + effLen e)) ∧
      ((∀ a, x.anchor = some a → a.event ≠ e.id) → e.lifecycle = .pending → e.action = .drop → origin ≤ start →
        r.stop = start)) ∧
  (∀ (x : RCtx) (c : Frame) (e : Event) (rest : List Event),
    resolveWalk x c [] = [] ∧
    resolveWalk x c (e :: rest) =
      e.resolveAt x ((e.fixed.map Int.ofNat).getD c) (max ((e.fixed.map Int.ofNat).getD c) c) (nextFixed rest) ::
        resolveWalk x
          (resolvedEnd x ((e.fixed.map Int.ofNat).getD c) (max ((e.fixed.map Int.ofNat).getD c) c) e (nextFixed rest)) rest) ∧
  (∀ (x : RCtx) (a : Anchor) (pre rest : List Event) (e : Event), x.anchor = some a → (∀ y ∈ pre, y.id ≠ a.event) →
    e.id = a.event →
    resolveList x (pre ++ e :: rest) = pre.map Event.unanchor ++
      e.resolveAt x (a.frame - a.offset) (a.frame - a.offset) (nextFixed rest) ::
        resolveWalk x (resolvedEnd x (a.frame - a.offset) (a.frame - a.offset) e (nextFixed rest)) rest) ∧
  (∀ (x : RCtx) (pre rest : List Event) (e : Event) (s : Nat), (∀ y ∈ pre, y.fixed = none ∨ y.lifecycle = .orphan) →
    e.fixed = some s → e.lifecycle ≠ .orphan → (∀ a, x.anchor = some a → ∀ y ∈ pre ++ e :: rest, y.id ≠ a.event) →
    resolveList x (pre ++ e :: rest) = pre.map Event.unanchor ++
      e.resolveAt x s s (nextFixed rest) :: resolveWalk x (resolvedEnd x s s e (nextFixed rest)) rest) ∧
  (∀ (x : RCtx) (l : List Event), (∀ y ∈ l, y.fixed = none ∨ y.lifecycle = .orphan) →
    (∀ a, x.anchor = some a → ∀ y ∈ l, y.id ≠ a.event) → resolveList x l = l.map Event.unanchor) ∧
  (∀ (x : RCtx) (t : Store), (t.resolve x).anchor = t.anchor ∧ (t.resolve x).refresh = t.refresh ∧
    (t.orphan = none → (∀ e ∈ t.current, e.lifecycle ≠ .orphan) →
      (t.resolve x).current = resolveList { x with anchor := t.anchor } t.current ∧ (t.resolve x).orphan = none)) ∧
  (∀ (x : RCtx) (grace : Nat) (t u : Store), (∀ o ∈ t.orphan, o.lifecycle = .orphan) →
    u = resolveRetire x grace (t.current.length + 1) t →
    u.anchor = t.anchor ∧ u.refresh = t.refresh ∧ (u.current.map Event.core).Sublist (t.current.map Event.core) ∧
      ∀ e ∈ u.current, e.lifecycle = .pending →
        (∀ k, u.anchorKey = some k → k ≤ e.key) ∧ (∀ r, e.res = some r → x.now - grace < r.stop)) ∧
  ∀ (env : Env) (w : W),
    (∀ f p, w.mode = .mirror ∨ w.mode = .joining → w.ch.intake.takeMain = some f → f.hdr.stamp = some p →
      anchorFromStamp env w = realignCompare env (settle env
        (w.modStore fun t => { t with anchor := some { event := p.event, offset := p.offset, frame := env.now } }))) ∧
    ((w.mode ≠ .mirror ∧ w.mode ≠ .joining) ∨ w.ch.intake.takeMain = none ∨
        (∃ f, w.ch.intake.takeMain = some f ∧ f.hdr.stamp = none) →
      anchorFromStamp env w = settle env w)

/-- DIGEST_CHECK with no check in progress and at most 64 events from its key on is answered at once: with their number and the sum of
their digest terms, OK when both agree with the request's and MISMATCH otherwise (R38, R39). With more events than that the scan goes on
with the 64 lowest keys visited; and a check in progress is answered SUPERSEDED first (R40). That the first 64 visits are made
within the request is the model's reading of R39 (log entry 29, DEDUCED). -/
def Obligations.DigestChecksCountAndSum : Prop :=
  (∀ (f : CtlFlow) (h : Head) (c : Ch) (key count sum : Nat) (l : List Event) (s : State),
    Turn f h (.digestCheck key count sum) s → Names h c → s.chans[c].store.scan = none →
    s.chans[c].store.current.Pairwise (fun x y => x.key < y.key) →
    l = s.chans[c].store.current.filter (fun e => decide (key ≤ e.key)) →
    (l.length ≤ 64 → ∃ t v, exec (.digestCheck f h key count sum) s = .next t ∧ Within c (afterTurn f s) t ∧
      t.chans[c].store.scan = none ∧ t.chans[c].store.current = s.chans[c].store.current ∧
      t.sent = s.sent ++ replyPackets s f h (.digestCheck key count sum)
        (if count = l.length ∧ sum = (l.map digestTerm).sum % 4294967296 then .ok else .mismatch,
         .digest l.length ((l.map digestTerm).sum % 4294967296)) ++ v) ∧
    (64 < l.length → ∃ t x, exec (.digestCheck f h key count sum) s = .next t ∧ Within c (afterTurn f s) t ∧
      t.chans[c].store.scan = some x ∧ x.tag = h.tag ∧ x.key = key ∧ x.runCount = 64 ∧
      x.runSum = ((l.take 64).map digestTerm).sum % 4294967296 ∧ t.sent = s.sent ∧
      t.chans[c].mirror = s.chans[c].mirror)) ∧
  ∀ (f : CtlFlow) (h : Head) (c : Ch) (key count sum : Nat) (y : Scan) (s : State),
    Turn f h (.digestCheck key count sum) s → Names h c → s.chans[c].store.scan = some y →
    ∃ t, exec (.digestCheck f h key count sum) s = .next t ∧ Within c (afterTurn f s) t ∧
      (∀ x, t.chans[c].store.scan = some x → x.tag = h.tag ∧ x.key = key ∧ x.count = count ∧ x.sum = sum) ∧
      s.sent ++ leaves s y.addr (.reply .main 3 y.tag y.channel .superseded .none) <+: t.sent

/-- SITE_BEAT sets the beat timer to 0, clears its mark and makes every STALE mirror CURRENT (R59, R96). While the time is UNSET and
every channel is in MIRROR it sets the day, keeping the frame of day: of the beat's day and the two beside it, the one whose frame lies
nearest to the main site's, and the beat's own where another is equally near; else the time stands (R15). -/
def Obligations.SiteBeatsRestartTheTimer : Prop :=
  ∀ (f : CtlFlow) (h : Head) (day : Nat) (l : Label) (s : State), Turn f h (.siteBeat day l) s →
    (labelValid s.time.rate l = true → ∃ t body, exec (.siteBeat f h day l) s = .next t ∧ t.beat = 0 ∧ t.expired = false ∧
      Replies s t f h (.siteBeat day l) (if labelExists s.time.rate l then .ok else .adjusted, body) ∧
      (∀ c : Ch, t.chans[c].mirror.state = (if s.chans[c].mirror.state = .stale then .current else s.chans[c].mirror.state)) ∧
      (s.time.timeState = .unset → (∀ c : Ch, s.chans[c].ctl.mode = .mirror) →
        t.time = { s.time with hfn := t.time.hfn, timeState := .set } ∧
        ∃ d f T F : Nat, F = RateCode.perDay s.time.rate ∧ f = s.time.hfn % F ∧ T = hfnOf s.time.rate day l ∧
          t.time.hfn = d * F + f ∧ (d = day ∨ d + 1 = day ∨ (d = day + 1 ∧ d < 65536)) ∧
          (∀ e, e = day ∨ e + 1 = day ∨ (e = day + 1 ∧ e < 65536) → apart (d * F + f) T ≤ apart (e * F + f) T) ∧
          (apart (d * F + f) T = apart (day * F + f) T → d = day)) ∧
      (s.time.timeState = .set ∨ (∃ c : Ch, s.chans[c].ctl.mode ≠ .mirror) → t.time = s.time)) ∧
    (labelValid s.time.rate l = false → exec (.siteBeat f h day l) s = .next { afterTurn f s with
      sent := s.sent ++ replyPackets s f h (.siteBeat day l) (.malformed, .none) })

/-- HANDOVER in MIRROR with the time SET records a PLANNED switch at the frame its day and label name, not nearer than preroll lead
plus cue margin; JOINING starts within it when the target is that near (R136, R137). A nearer frame is refused TOO_SOON, another mode
WRONG_MODE, an UNSET time TIME_UNSET. -/
def Obligations.HandoversAreRecorded : Prop :=
  ∀ (f : CtlFlow) (h : Head) (c : Ch) (day : Nat) (l : Label) (n : Frame) (s : State), Turn f h (.handover day l) s →
    Names h c → labelValid s.time.rate l = true → n = hfnOf s.time.rate day l →
    (∀ st, (s.chans[c].ctl.mode ≠ .mirror ∧ st = .wrongMode) ∨
        (s.chans[c].ctl.mode = .mirror ∧ s.time.timeState = .unset ∧ st = .timeUnset) →
      exec (.handover f h day l) s = .next { afterTurn f s with
        sent := s.sent ++ replyPackets s f h (.handover day l) (st, .none) }) ∧
    (s.chans[c].ctl.mode = .mirror → s.time.timeState = .set →
      s.time.hfn + s.params.chans[c].lead + s.params.chans[c].margin ≤ n →
      ∃ t, exec (.handover f h day l) s = .next t ∧ Within c (afterTurn f s) t ∧
        t.chans[c].ctl.switch = some { kind := .takeover, cause := .planned, target := n, force := false } ∧
        t.chans[c].ctl.mode =
          (if n = s.time.hfn + s.params.chans[c].lead + s.params.chans[c].margin then .joining else .mirror) ∧
        Replies s t f h (.handover day l) (if labelExists s.time.rate l then .ok else .adjusted, .none)) ∧
    (s.chans[c].ctl.mode = .mirror → s.time.timeState = .set →
      n < s.time.hfn + s.params.chans[c].lead + s.params.chans[c].margin →
      exec (.handover f h day l) s = .next { afterTurn f s with
        sent := s.sent ++ replyPackets s f h (.handover day l) (.tooSoon, .none) })

/-! ## Requests of LOCAL_CTL that move a channel -/

/-- TAKEOVER ASAP in MIRROR starts JOINING for now plus preroll lead plus cue margin (R134); in RETURNING it cancels the handback:
TAKEOVER again, with no switch (R135); in JOINING, TAKEOVER and BREAK_IN it is refused WRONG_MODE.
A day and a label as the target of a TAKEOVER or a HANDBACK name a frame of R9, moved up to the least one the request allows and then
ADJUSTED; while the time is UNSET they are refused TIME_UNSET (R134, R140). -/
def Obligations.TakeoversAreAskedForAndTargetsClamped : Prop :=
  (∀ (f : CtlFlow) (h : Head) (c : Ch) (force : Bool) (s : State), Turn f h (.takeover .asap force) s → Names h c →
     (s.chans[c].ctl.mode = .mirror →
       ∃ t, exec (.takeover f h .asap force) s = .next t ∧ Within c (afterTurn f s) t ∧ t.chans[c].ctl.mode = .joining ∧
         t.chans[c].ctl.switch = some {
           kind := .takeover, cause := .manual, force := force,
           target := s.time.hfn + s.params.chans[c].lead + s.params.chans[c].margin } ∧
         Replies s t f h (.takeover .asap force) (.ok, .takeover
           (whenOf s.time.rate (s.time.hfn + s.params.chans[c].lead + s.params.chans[c].margin)) .joining force)) ∧
     (∀ x, s.chans[c].ctl.mode = .returning → s.chans[c].ctl.switch = some x →
       ∃ t, exec (.takeover f h .asap force) s = .next t ∧ Within c (afterTurn f s) t ∧ t.chans[c].ctl.mode = .takeover ∧
         t.chans[c].ctl.switch = none ∧ Replies s t f h (.takeover .asap force) (.ok, .cancelled .takeover)) ∧
     (s.chans[c].ctl.mode = .joining ∨ s.chans[c].ctl.mode = .takeover ∨ s.chans[c].ctl.mode = .breakIn →
       exec (.takeover f h .asap force) s = .next { afterTurn f s with
         sent := s.sent ++ replyPackets s f h (.takeover .asap force) (.wrongMode, .none) })) ∧
  (∀ (f : CtlFlow) (h : Head) (c : Ch) (day : Nat) (l : Label) (n : Frame) (s : State), Names h c →
     labelValid s.time.rate l = true → n = hfnOf s.time.rate day l →
     (∀ force, Turn f h (.takeover (.at day l) force) s → s.chans[c].ctl.mode = .mirror →
       (s.time.timeState = .set → ∃ t body, exec (.takeover f h (.at day l) force) s = .next t ∧
         t.chans[c].ctl.switch = some {
           kind := .takeover, cause := .manual, force := force,
           target := max n (s.time.hfn + s.params.chans[c].lead + s.params.chans[c].margin) } ∧
         Replies s t f h (.takeover (.at day l) force)
           (if n < s.time.hfn + s.params.chans[c].lead + s.params.chans[c].margin ∨ labelExists s.time.rate l = false
            then .adjusted else .ok, body)) ∧
       (s.time.timeState = .unset → exec (.takeover f h (.at day l) force) s = .next { afterTurn f s with
         sent := s.sent ++ replyPackets s f h (.takeover (.at day l) force) (.timeUnset, .none) })) ∧
     (∀ force x, Turn f h (.takeover (.at day l) force) s → s.chans[c].ctl.mode = .returning → s.chans[c].ctl.switch = some x →
       s.time.timeState = .set → ∃ t, exec (.takeover f h (.at day l) force) s = .next t ∧ t.chans[c].ctl.mode = .takeover ∧
         t.chans[c].ctl.switch = none ∧ Replies s t f h (.takeover (.at day l) force) (.ok, .cancelled .takeover)) ∧
     (Turn f h (.handbackAsk (.at day l)) s → s.params.chans[c].permission = true → s.chans[c].ctl.mode = .takeover →
       s.chans[c].ctl.monitor = .healthy → s.time.timeState = .set →
       ∃ t body, exec (.handbackAsk f h (.at day l)) s = .next t ∧
         t.chans[c].ctl.switch = some { kind := .handback, cause := .planned, force := false,
                                        target := max n ((s.time.hfn : Frame) + 2) } ∧
         Replies s t f h (.handbackAsk (.at day l))
           (if n < (s.time.hfn : Frame) + 2 ∨ labelExists s.time.rate l = false then .adjusted else .ok, body)) ∧
     (∀ force, Turn f h (.handback (.at day l) force) s → s.chans[c].ctl.mode = .takeover →
       s.chans[c].ctl.monitor = .healthy ∨ force = true →
       (s.time.timeState = .set → ∃ t body, exec (.handback f h (.at day l) force) s = .next t ∧
         t.chans[c].ctl.switch = some { kind := .handback, cause := .manual, force := force,
                                        target := max n ((s.time.hfn : Frame) + 2) } ∧
         Replies s t f h (.handback (.at day l) force)
           (if n < (s.time.hfn : Frame) + 2 ∨ labelExists s.time.rate l = false then .adjusted else .ok, body)) ∧
       (s.time.timeState = .unset → exec (.handback f h (.at day l) force) s = .next { afterTurn f s with
         sent := s.sent ++ replyPackets s f h (.handback (.at day l) force) (.timeUnset, .none) })))

/-- HANDBACK ASAP in TAKEOVER, with the monitor HEALTHY or with force, puts the channel in RETURNING for now + 2 and withdraws a
pending break-in (R140, R142, R149); without either it is refused NOT_HEALTHY. HANDBACK_ASK does the same as PLANNED without
force, where the channel permits it (R141). -/
def Obligations.HandbacksAreAskedFor : Prop :=
  (∀ (f : CtlFlow) (h : Head) (c : Ch) (force : Bool) (s : State), Turn f h (.handback .asap force) s → Names h c →
    (s.chans[c].ctl.mode = .takeover → s.chans[c].ctl.monitor = .healthy ∨ force = true →
      ∃ t, exec (.handback f h .asap force) s = .next t ∧ Within c (afterTurn f s) t ∧ t.chans[c].ctl.mode = .returning ∧
        t.chans[c].ctl.switch = some { kind := .handback, cause := .manual, target := (s.time.hfn : Frame) + 2, force := force } ∧
        t.chans[c].ctl.pendingBreak = none ∧ Replies s t f h (.handback .asap force)
          (.ok, .handback (whenOf s.time.rate ((s.time.hfn : Frame) + 2)) force s.chans[c].ctl.monitor)) ∧
    (s.chans[c].ctl.mode = .takeover → s.chans[c].ctl.monitor ≠ .healthy → force = false →
      exec (.handback f h .asap force) s = .next { afterTurn f s with
        sent := s.sent ++ replyPackets s f h (.handback .asap force) (.notHealthy, .none) }) ∧
    (s.chans[c].ctl.mode ≠ .takeover → exec (.handback f h .asap force) s = .next { afterTurn f s with
        sent := s.sent ++ replyPackets s f h (.handback .asap force) (.wrongMode, .none) })) ∧
  ∀ (f : CtlFlow) (h : Head) (c : Ch) (s : State), Turn f h (.handbackAsk .asap) s → Names h c →
    (s.params.chans[c].permission = true → s.chans[c].ctl.mode = .takeover → s.chans[c].ctl.monitor = .healthy →
      ∃ t, exec (.handbackAsk f h .asap) s = .next t ∧ Within c (afterTurn f s) t ∧ t.chans[c].ctl.mode = .returning ∧
        t.chans[c].ctl.switch = some { kind := .handback, cause := .planned, target := (s.time.hfn : Frame) + 2, force := false } ∧
        t.chans[c].ctl.pendingBreak = none ∧ Replies s t f h (.handbackAsk .asap)
          (.ok, .handback (whenOf s.time.rate ((s.time.hfn : Frame) + 2)) false .healthy)) ∧
    ∀ st, (s.params.chans[c].permission = false ∧ st = .notPermitted) ∨
        (s.params.chans[c].permission = true ∧ s.chans[c].ctl.mode ≠ .takeover ∧ st = .wrongMode) ∨
        (s.params.chans[c].permission = true ∧ s.chans[c].ctl.mode = .takeover ∧ s.chans[c].ctl.monitor ≠ .healthy ∧
          st = .notHealthy) →
      exec (.handbackAsk f h .asap) s = .next { afterTurn f s with
        sent := s.sent ++ replyPackets s f h (.handbackAsk .asap) (st, .none) }

/-- BREAK_IN in TAKEOVER with none pending is accepted for now plus preroll lead, with the channel's resume mode for DEFAULT; it is
refused BUSY with one pending or in JOINING, RETURNING and BREAK_IN, and WRONG_MODE in MIRROR (R148).
RESUME in BREAK_IN with none begun begins one for now plus preroll lead, in the mode it names or the saved one; elsewhere it is
refused WRONG_MODE (R153). The player taken where no player carries the on-air item, and a late landing and a cued item are held on the
two players, is the model's choice (log entry 76). -/
def Obligations.BreakInsAndResumesAreAskedFor : Prop :=
  (∀ (f : CtlFlow) (h : Head) (c : Ch) (handle inPoint : Nat) (d : Option Nat) (m : BreakMode) (q : ReqBody) (s : State),
     q = .breakIn handle inPoint d (some m) → Turn f h q s → Names h c → handle ≠ 0 → d ≠ some 0 → inPoint ≤ 16777215 →
     (s.chans[c].ctl.mode = .takeover → s.chans[c].ctl.pendingBreak = none →
       ∃ t b, exec (.breakIn f h handle inPoint d (some m)) s = .next t ∧ Within c (afterTurn f s) t ∧
         t.chans[c].ctl.mode = .takeover ∧ t.chans[c].ctl.pendingBreak = some b ∧ b.handle = handle ∧ b.inPoint = inPoint ∧
         b.duration = d ∧ b.b = s.time.hfn + s.params.chans[c].lead ∧ b.player = s.chans[c].breakPlayer ∧
         b.mode = (match m with | .whereLeft => .whereLeft | .onTime => .onTime | .default => s.params.chans[c].resumeMode) ∧
         Replies s t f h q (.ok, .breakIn (whenOf s.time.rate b.b) b.player b.mode)) ∧
     (s.chans[c].ctl.mode ≠ .mirror → s.chans[c].ctl.mode ≠ .takeover ∨ s.chans[c].ctl.pendingBreak.isSome = true →
       exec (.breakIn f h handle inPoint d (some m)) s = .next { afterTurn f s with
         sent := s.sent ++ replyPackets s f h q (.busy, .none) }) ∧
     (s.chans[c].ctl.mode = .mirror → exec (.breakIn f h handle inPoint d (some m)) s = .next { afterTurn f s with
         sent := s.sent ++ replyPackets s f h q (.wrongMode, .none) })) ∧
  (∀ (f : CtlFlow) (h : Head) (c : Ch) (m : ResumeReq) (s : State), Turn f h (.resume (some m)) s → Names h c →
     (∀ x, s.chans[c].ctl.mode = .breakIn → s.chans[c].ctl.ctx = some x → s.chans[c].ctl.resume = none →
       ∃ t r, exec (.resume f h (some m)) s = .next t ∧ Within c (afterTurn f s) t ∧ t.chans[c].ctl.mode = .breakIn ∧
         t.chans[c].ctl.ctx = some x ∧ t.chans[c].ctl.resume = some r ∧ r.cause = .resume ∧
         r.r = s.time.hfn + s.params.chans[c].lead ∧
         r.mode = (match m with | .whereLeft => .whereLeft | .onTime => .onTime | .preset => x.mode) ∧
         Replies s t f h (.resume (some m)) (.ok, .resume (whenOf s.time.rate r.r) r.mode t.chans[c].ctl.handed)) ∧
     (s.chans[c].ctl.mode ≠ .breakIn ∨ s.chans[c].ctl.resume.isSome = true →
       exec (.resume f h (some m)) s = .next { afterTurn f s with
         sent := s.sent ++ replyPackets s f h (.resume (some m)) (.wrongMode, .none) }))

/-! ## Requests of LOCAL_CTL that set and read -/

/-- SET_PARAM of a part-wide parameter with channel 15 and a value of its range puts that value in force and no other, followed by the
test of R183 for the batch size and the flush interval; the reply carries the value (R193, R185). A value outside the range is refused
BAD_VALUE and changes nothing, but for the batch size, which becomes 0; another channel value is refused BAD_CHANNEL. GET_PARAM returns the
value in force (R194); that it disregards the channel field for an entry of the trigger table is the model's (log entry 10). -/
def Obligations.PartParametersAreSetAndRead : Prop :=
  (∀ (f : CtlFlow) (h : Head) (p : PartParam) (v : Nat) (b : ReqBody) (s u : State),
    b = .setParam (.part p) v → Turn f h b s →
    u = { afterTurn f s with params := { s.params with part := s.params.part.put v p } } →
    (h.channel = 15 → PartParam.admits p v = true → p ≠ .batchSize → p ≠ .flushInterval →
      exec (.setParam f h (.part p) v) s = .next { u with sent := s.sent ++ replyPackets s f h b (.ok, .values [v]) }) ∧
    (h.channel = 15 → PartParam.admits p v = true → p = .batchSize ∨ p = .flushInterval →
      ∃ w, exec .asRun u = .next w ∧
        exec (.setParam f h (.part p) v) s = .next { w with sent := w.sent ++ replyPackets s f h b (.ok, .values [v]) }) ∧
    (h.channel = 15 → PartParam.admits p v = false →
      exec (.setParam f h (.part p) v) s = .next { afterTurn f s with
        params := { s.params with part := if p = .batchSize then { s.params.part with batchSize := 0 } else s.params.part },
        sent := s.sent ++ replyPackets s f h b (.badValue, .none) }) ∧
    (h.channel ≠ 15 → exec (.setParam f h (.part p) v) s = .next { afterTurn f s with
        sent := s.sent ++ replyPackets s f h b (.badChannel, .none) })) ∧
  (∀ (x : PartParams) (p q : PartParam) (v : Nat), PartParam.admits p v = true →
    (x.put v p).get q = if q = p then v else x.get q) ∧
  ∀ (f : CtlFlow) (h : Head) (s : State),
    (∀ p, Turn f h (.getParam (.part p)) s → exec (.getParam f h (.part p)) s = .next { afterTurn f s with
      sent := s.sent ++ replyPackets s f h (.getParam (.part p))
        (if h.channel = 15 then (.ok, .values [s.params.part.get p]) else (.badChannel, .none)) }) ∧
    (∀ code, Turn f h (.getParam (.trigger code)) s → exec (.getParam f h (.trigger code)) s = .next { afterTurn f s with
      sent := s.sent ++ replyPackets s f h (.getParam (.trigger code))
        (if code ≤ 255 then (.ok, .trigger (trigAction s.table code)) else (.malformed, .none)) })

/-- SET_PARAM of a per-channel parameter puts a value of its range in force on the channel its header names, or on all eight with 15, and
on no other channel or parameter; the reply carries it (R193). An event limit below a generation's events on one of them, and a value
outside the range, are refused BAD_VALUE and change nothing. Only the preroll lead, the cue margin, the standby, the sweep depth and an
attribute's class reach a channel at once; a class taken from ADVISORY clears the flag (R89). GET_PARAM returns the values in
force (R194). That a reply for all channels carries one value for each is the model's (log entry 10), and what reaches a channel at once
is its reading (log entry 41, DEDUCED). That a standby change held outside MIRROR is reported as in force at once is the model's choice
(log entry 84). -/
def Obligations.ChannelParametersAreSetAndRead : Prop :=
  (∀ (f : CtlFlow) (h : Head) (p : ChanParam) (v : Nat) (cs : List Ch) (b : ReqBody) (s : State),
    b = .setParam (.chan p) v → Turn f h b s → ChanParam.badAttr p = false →
    (h.channel = 15 ∧ cs = List.finRange 8 ∨ ∃ c : Ch, Names h c ∧ cs = [c]) →
    (ChanParam.admits p v = true →
      (p = .eventLimit → ∀ c ∈ cs, s.chans[c].store.current.length ≤ v ∧
        ∀ r, s.chans[c].store.refresh = some r → r.events.length ≤ v) →
      ∃ t, exec (.setParam f h (.chan p) v) s = .next t ∧ Replies s t f h b (.ok, .values (cs.map fun _ => v)) ∧
        PartKept { afterTurn f s with params := t.params } t ∧ t.params.part = s.params.part ∧
        (∀ c ∈ cs, (t.params.chans[c]).get p = v ∧
          ∀ q, q ≠ p → ChanParam.badAttr q = false → (t.params.chans[c]).get q = (s.params.chans[c]).get q) ∧
        (∀ c, c ∉ cs → t.params.chans[c] = s.params.chans[c] ∧ t.chans[c] = s.chans[c]) ∧
        (∀ (n : Fin 8) (c : Ch), p = .attrClass n.val → c ∈ cs →
          (t.chans[c].mon.attrs[n]).flag =
            (if (s.params.chans[c].attrs[n]).cls = .advisory ∧ v ≠ 1 then false else (s.chans[c].mon.attrs[n]).flag)) ∧
        (p ≠ .prerollLead → p ≠ .cueMargin → p ≠ .standby → p ≠ .sweepDepth → (∀ n, p ≠ .attrClass n) →
          t.chans = s.chans ∧ t.log = s.log ∧ t.nextLocal = s.nextLocal ∧ t.nextMain = s.nextMain)) ∧
    (ChanParam.admits p v = false ∨ (p = .eventLimit ∧ ∃ c ∈ cs, v < s.chans[c].store.current.length ∨
        ∃ r, s.chans[c].store.refresh = some r ∧ v < r.events.length) →
      exec (.setParam f h (.chan p) v) s = .next { afterTurn f s with
        sent := s.sent ++ replyPackets s f h b (.badValue, .none) })) ∧
  (∀ (f : CtlFlow) (h : Head) (p : ChanParam) (cs : List Ch) (s : State), Turn f h (.getParam (.chan p)) s →
    ChanParam.badAttr p = false → (h.channel = 15 ∧ cs = List.finRange 8 ∨ ∃ c : Ch, Names h c ∧ cs = [c]) →
    exec (.getParam f h (.chan p)) s = .next { afterTurn f s with
      sent := s.sent ++ replyPackets s f h (.getParam (.chan p)) (.ok, .values (cs.map fun c => (s.params.chans[c]).get p)) }) ∧
  ∀ (f : CtlFlow) (h : Head) (p : ChanParam) (v : Nat) (s : State), (7 < h.channel ∧ h.channel ≠ 15) ∨ ChanParam.badAttr p = true →
    (Turn f h (.setParam (.chan p) v) s → exec (.setParam f h (.chan p) v) s = .next { afterTurn f s with
      sent := s.sent ++ replyPackets s f h (.setParam (.chan p) v)
        (if ChanParam.badAttr p then .malformed else .badChannel, .none) }) ∧
    (Turn f h (.getParam (.chan p)) s → exec (.getParam f h (.chan p)) s = .next { afterTurn f s with
      sent := s.sent ++ replyPackets s f h (.getParam (.chan p))
        (if ChanParam.badAttr p then .malformed else .badChannel, .none) })

/-- FLOW_LOAD writes an entry under a tag that no entry holds, rewrites the entry that holds it, and moves the bootstrap entry; a taken
role or pair is refused CONFLICT, the bootstrap entry's tag under another role NOT_PERMITTED, a full table LIMIT_REACHED; before all of
these a tag of 0, a port outside the four or another role is refused MALFORMED, and a channel role with another channel value
BAD_CHANNEL (R70). A
rewritten or cleared entry's sources lose their open assembly, counted, and their FIFO (R71). FLOW_CLEAR makes an entry invalid. A loaded
MAIN_CTL entry releases the reset notices, a loaded LOCAL_CTL entry has the test of R183 made. -/
def Obligations.FlowEntriesAreLoadedAndCleared : Prop :=
  (∀ (f : CtlFlow) (h : Head) (e : FlowEntry) (ch : Nat) (b : ReqBody) (s u : State),
    b = .flowLoad e.tag e.port.val (some e.role) ch → Turn f h b s → flowFormed e = true → e.role ≠ .localCtl →
    (∀ c : Ch, e.channel = some c → ch = c.val) →
    (entryByTag s.flows e.tag = none → (∀ x ∈ s.flows, ¬ (x.role = e.role ∧ x.channel = e.channel)) →
      (s.flows.length < 64 → u = { afterTurn f s with flows := s.flows ++ [e] } →
        (e.role ≠ .mainCtl → exec (.flowLoad f h e.tag e.port.val (some e.role) ch) s = .next { u with
          sent := s.sent ++ replyPackets s f h b (.ok, .none) }) ∧
        (e.role = .mainCtl → ∃ w, exec .refreshNeededResetRelease u = .next w ∧
          exec (.flowLoad f h e.tag e.port.val (some e.role) ch) s = .next { w with
            sent := w.sent ++ replyPackets s f h b (.ok, .none) })) ∧
      (64 ≤ s.flows.length → exec (.flowLoad f h e.tag e.port.val (some e.role) ch) s = .next { afterTurn f s with
        sent := s.sent ++ replyPackets s f h b (.limitReached, .none) })) ∧
    (∀ old, entryByTag s.flows e.tag = some old → old.role ≠ .localCtl →
      (∀ x ∈ s.flows, x.tag ≠ e.tag → ¬ (x.role = e.role ∧ x.channel = e.channel)) →
      ∃ t, exec (.flowLoad f h e.tag e.port.val (some e.role) ch) s = .next t ∧
        t.flows = (s.flows.map fun x => if x.tag = e.tag then e else x) ∧ Replies s t f h b (.ok, .none) ∧
        ∀ (c : Ch) (k : SrcId), t.chans[c].intake.source k =
          (if e ≠ old ∧ (old.feeds = some (c, k) ∨ e.feeds = some (c, k)) then (s.chans[c].intake.source k).clearFeed
           else s.chans[c].intake.source k)) ∧
    ((∃ x ∈ s.flows, x.tag ≠ e.tag ∧ x.role = e.role ∧ x.channel = e.channel) →
      (∀ old, entryByTag s.flows e.tag = some old → old.role ≠ .localCtl) →
      exec (.flowLoad f h e.tag e.port.val (some e.role) ch) s = .next { afterTurn f s with
        sent := s.sent ++ replyPackets s f h b (.conflict, .none) }) ∧
    (∀ old, entryByTag s.flows e.tag = some old → old.role = .localCtl →
      exec (.flowLoad f h e.tag e.port.val (some e.role) ch) s = .next { afterTurn f s with
        sent := s.sent ++ replyPackets s f h b (.notPermitted, .none) })) ∧
  (∀ (f : CtlFlow) (h : Head) (tag ch : Nat) (p : Port) (b : ReqBody) (s u : State),
    b = .flowLoad tag p.val (some .localCtl) ch → Turn f h b s → 0 < tag → tag < two16 →
    u = { afterTurn f s with flows := s.flows.map fun e => if e.role = .localCtl then { e with tag := tag, port := p } else e } →
    ((∀ x ∈ s.flows, x.tag = tag → x.role = .localCtl) → ∃ w, exec .asRun u = .next w ∧
      exec (.flowLoad f h tag p.val (some .localCtl) ch) s = .next { w with
        sent := w.sent ++ replyPackets s f h b (.ok, .none) }) ∧
    ((∃ x ∈ s.flows, x.tag = tag ∧ x.role ≠ .localCtl) →
      exec (.flowLoad f h tag p.val (some .localCtl) ch) s = .next { afterTurn f s with
        sent := s.sent ++ replyPackets s f h b (.conflict, .none) })) ∧
  (∀ (f : CtlFlow) (h : Head) (tag port ch : Nat) (role : Option Role) (s : State), Turn f h (.flowLoad tag port role ch) s →
    (tag = 0 ∨ 65536 ≤ tag ∨ 4 ≤ port ∨ role = none →
      exec (.flowLoad f h tag port role ch) s = .next { afterTurn f s with
        sent := s.sent ++ replyPackets s f h (.flowLoad tag port role ch) (.malformed, .none) }) ∧
    (∀ r, 0 < tag → tag < 65536 → port < 4 → role = some r → r ≠ .mainCtl → r ≠ .localCtl → 8 ≤ ch →
      exec (.flowLoad f h tag port role ch) s = .next { afterTurn f s with
        sent := s.sent ++ replyPackets s f h (.flowLoad tag port role ch) (.badChannel, .none) })) ∧
  ∀ (f : CtlFlow) (h : Head) (tag : Nat) (s : State), Turn f h (.flowClear tag) s →
    (entryByTag s.flows tag = none → exec (.flowClear f h tag) s = .next { afterTurn f s with
      sent := s.sent ++ replyPackets s f h (.flowClear tag) (.notFound, .none) }) ∧
    ∀ old, entryByTag s.flows tag = some old →
      (old.role = .localCtl → exec (.flowClear f h tag) s = .next { afterTurn f s with
        sent := s.sent ++ replyPackets s f h (.flowClear tag) (.notPermitted, .none) }) ∧
      (old.role ≠ .localCtl → ∃ t, exec (.flowClear f h tag) s = .next t ∧
        t.flows = (s.flows.filter fun x => decide (x.tag ≠ tag)) ∧ t.log = s.log ∧ t.time = s.time ∧ t.params = s.params ∧
        t.sent = s.sent ++ replyPackets s f h (.flowClear tag) (.ok, .none) ∧
        ∀ (c : Ch) (k : SrcId), t.chans[c].intake.source k =
          (if old.feeds = some (c, k) then (s.chans[c].intake.source k).clearFeed else s.chans[c].intake.source k))

/-- TRIGGER_LOAD writes the entry of a code 6 to 255, which is then read at that code and at no other; TRIGGER_CLEAR empties it. Codes 0 to
5 are refused NOT_PERMITTED, a bad payload, a missing on-or-off field or another action MALFORMED, an advance above 250 or a slot above 15
BAD_VALUE, an empty entry to clear NOT_FOUND (R156, R157). -/
def Obligations.TriggerEntriesAreLoadedAndCleared : Prop :=
  (∀ (f : CtlFlow) (h : Head) (code : Nat) (a : LoadAction) (b : ReqBody) (s : State), b = .triggerLoad code a → Turn f h b s →
    (∀ x, 6 ≤ code → code ≤ 255 → loadedAction a = some x → loadable (code, x) = true →
      ∃ tb, exec (.triggerLoad f h code a) s = .next { afterTurn f s with
          table := tb, sent := s.sent ++ replyPackets s f h b (.ok, .none) } ∧
        trigAction tb code = some x ∧ (∀ k, k ≠ code → trigAction tb k = trigAction s.table k) ∧
        (TableOk s.table → TableOk tb)) ∧
    (∀ st, (code ≤ 5 ∧ st = .notPermitted) ∨
        (6 ≤ code ∧ st = .malformed ∧ ((∃ p n, a = .outputCue p n ∧ (p.length = 0 ∨ 16 < p.length)) ∨
          (∃ n, a = .ident n none) ∨ a = .other)) ∨
        (6 ≤ code ∧ code ≤ 255 ∧ st = .badValue ∧ ((∃ p n, a = .outputCue p n ∧ 1 ≤ p.length ∧ p.length ≤ 16 ∧ 250 < n) ∨
          (∃ n o, a = .ident n (some o) ∧ 15 < n))) →
      exec (.triggerLoad f h code a) s = .next { afterTurn f s with sent := s.sent ++ replyPackets s f h b (st, .none) })) ∧
  ∀ (f : CtlFlow) (h : Head) (code : Nat) (s : State), Turn f h (.triggerClear code) s → TableOk s.table →
    (6 ≤ code → (trigAction s.table code).isSome = true →
      ∃ tb, exec (.triggerClear f h code) s = .next { afterTurn f s with
          table := tb, sent := s.sent ++ replyPackets s f h (.triggerClear code) (.ok, .none) } ∧
        trigAction tb code = none ∧ (∀ k, k ≠ code → trigAction tb k = trigAction s.table k) ∧ TableOk tb) ∧
    (code ≤ 5 ∨ trigAction s.table code = none → exec (.triggerClear f h code) s = .next { afterTurn f s with
      sent := s.sent ++ replyPackets s f h (.triggerClear code)
        (if code ≤ 5 then .notPermitted else .notFound, .none) })

/-- GRAPHIC_BEGIN opens a load of a slot that no enabled window and no fill setting names, and is refused otherwise (R174); GRAPHIC_SEGMENT stores its bytes at their
positions, each position counted once (R175); GRAPHIC_END makes the slot READY when every byte has come, with the samples above 1023 set to
1023, and INCOMPLETE otherwise (R175, R176). A segment's bytes are those within the stated body length (R190); that they stand last in
the body is the model's (log entry 10). -/
def Obligations.GraphicsAreLoaded : Prop :=
  (∀ (i : Instr) (f : CtlFlow) (h : Head) (b : ReqBody) (st : Status) (s : State), i.request = some (f, { head := h, body := b }) →
    Turn f h b s →
    (st = .badValue ∧ ((∃ n x y, b = .graphicBegin n x y ∧
          (15 < n ∨ x % 2 = 1 ∨ x < 2 ∨ 1920 < x ∨ y < 1 ∨ 1080 < y)) ∨
        (∃ n k d, b = .graphicSegment n k d ∧ 15 < n) ∨ ∃ n, b = .graphicEnd n ∧ 15 < n)) ∨
      (st = .malformed ∧ ∃ n k d, b = .graphicSegment n k d ∧ n ≤ 15 ∧
        ((statedPart h d).length = 0 ∨ 8192 < (statedPart h d).length)) →
    exec i s = .next { afterTurn f s with sent := s.sent ++ replyPackets s f h b (st, .none) }) ∧
  (∀ (f : CtlFlow) (h : Head) (k : Fin 16) (x y : Nat) (b : ReqBody) (s : State), b = .graphicBegin k.val x y → Turn f h b s →
    x % 2 = 0 → 2 ≤ x → x ≤ 1920 → 1 ≤ y → y ≤ 1080 →
    ((∀ c : Ch, (s.chans[c].out.window.enabled = true → s.chans[c].out.window.slot ≠ k.val) ∧
        s.params.chans[c].fill ≠ .slate k) →
      exec (.graphicBegin f h k.val x y) s = .next { afterTurn f s with
        graphics := s.graphics.set k { state := .loading, width := x, height := y, expected := x * y * 4, bytes := [] },
        sent := s.sent ++ replyPackets s f h b (.ok, .none) }) ∧
    ((∃ c : Ch, (s.chans[c].out.window.enabled = true ∧ s.chans[c].out.window.slot = k.val) ∨
        s.params.chans[c].fill = .slate k) →
      exec (.graphicBegin f h k.val x y) s = .next { afterTurn f s with
        sent := s.sent ++ replyPackets s f h b (.slotBusy, .none) })) ∧
  (∀ (f : CtlFlow) (h : Head) (k : Fin 16) (offset : Nat) (sent data : List Byte) (b : ReqBody) (g : Graphic) (s : State),
    b = .graphicSegment k.val offset sent → data = statedPart h sent → Turn f h b s → g = s.graphics[k] → 1 ≤ data.length → data.length ≤ 8192 →
    (g.state = .loading → offset + data.length ≤ g.expected → GraphicOk g →
      ∃ m, exec (.graphicSegment f h k.val offset sent) s = .next { afterTurn f s with
          graphics := s.graphics.set k { g with bytes := m },
          sent := s.sent ++ replyPackets s f h b (.ok, .received m.length) } ∧
        GraphicOk { g with bytes := m } ∧ (∀ i, i < data.length → cellAt (offset + i) m = data[i]?) ∧
        ∀ i, i < offset ∨ offset + data.length ≤ i → cellAt i m = cellAt i g.bytes) ∧
    (g.state = .loading → g.expected < offset + data.length → exec (.graphicSegment f h k.val offset sent) s = .next {
      afterTurn f s with sent := s.sent ++ replyPackets s f h b (.badValue, .none) }) ∧
    (g.state ≠ .loading → exec (.graphicSegment f h k.val offset sent) s = .next {
      afterTurn f s with sent := s.sent ++ replyPackets s f h b (.wrongMode, .none) })) ∧
  ∀ (f : CtlFlow) (h : Head) (k : Fin 16) (b : ReqBody) (g : Graphic) (s : State), b = .graphicEnd k.val → Turn f h b s →
    g = s.graphics[k] →
    (g.state = .loading → g.bytes.length ≠ g.expected → exec (.graphicEnd f h k.val) s = .next { afterTurn f s with
      graphics := s.graphics.set k { g with state := .incomplete },
      sent := s.sent ++ replyPackets s f h b (.ok, .graphicEnd .incomplete g.expected g.bytes.length) }) ∧
    (g.state = .loading → g.bytes.length = g.expected → GraphicOk g → g.expected = g.width * g.height * 4 →
      ∃ m, exec (.graphicEnd f h k.val) s = .next { afterTurn f s with
          graphics := s.graphics.set k { g with state := .ready, bytes := m },
          sent := s.sent ++ replyPackets s f h b (.ok, .graphicEnd .ready g.expected g.expected) } ∧
        ∀ i, i < 2 * g.width * g.height →
          graphicSample { g with state := .ready, bytes := m } i = min 1023 (graphicSample g i)) ∧
    (g.state ≠ .loading → exec (.graphicEnd f h k.val) s = .next { afterTurn f s with
      sent := s.sent ++ replyPackets s f h b (.wrongMode, .none) })

/-- WINDOW_SET writes all six fields of a channel's ident window, with the alpha clamped to 16 and then ADJUSTED, and the blink phase at 0;
a slot above 15, an odd x, an x above 1918 or a y above 1079 is refused BAD_VALUE, a channel outside 0 to 7 BAD_CHANNEL (R171). -/
def Obligations.WindowsAreSet : Prop :=
  ∀ (f : CtlFlow) (h : Head) (enabled : Bool) (slot x y alpha blink : Nat) (b : ReqBody) (s : State),
    b = .windowSet enabled slot x y alpha blink → Turn f h b s →
    (∀ c : Ch, Names h c →
      (slot ≤ 15 → x % 2 = 0 → x ≤ 1918 → y ≤ 1079 → exec (.windowSet f h enabled slot x y alpha blink) s = .next {
        (afterTurn f s).setCh c { s.chans[c] with out := { s.chans[c].out with
          window := { enabled := enabled, slot := slot, x := x, y := y, alpha := min 16 alpha, blink := blink, phase := 0 } } } with
        sent := s.sent ++ replyPackets s f h b (if 16 < alpha then .adjusted else .ok, .none) }) ∧
      (15 < slot ∨ x % 2 = 1 ∨ 1918 < x ∨ 1079 < y → exec (.windowSet f h enabled slot x y alpha blink) s = .next {
        afterTurn f s with sent := s.sent ++ replyPackets s f h b (.badValue, .none) })) ∧
    (7 < h.channel → exec (.windowSet f h enabled slot x y alpha blink) s = .next {
      afterTurn f s with sent := s.sent ++ replyPackets s f h b (.badChannel, .none) })

/-- QUERY_CHANNEL, QUERY_EVENTS, QUERY_MONITOR, LOG_READ and PART_STATUS answer with what stands when they are taken and change nothing;
each has the refusals its rule gives (R41, R98, R186, R192, R199). Three values in the reports are the model's choice: the standby while
a change is held outside MIRROR (log entry 84), the orphan beyond the last CURRENT event (log entry 47), and the newest record number
of an empty ring (log entry 79). -/
def Obligations.QueriesReportAndChangeNothing : Prop :=
  ∀ (f : CtlFlow) (h : Head) (i : Instr) (b : ReqBody) (a : Answer) (s : State), i.request = some (f, { head := h, body := b }) →
    Turn f h b s →
    ((∃ c, Names h c ∧
        ((b = .queryChannel ∧ a = (.ok, .channel (channelReport s.graphics (envOf s c) s.chans[c]))) ∨
         (∃ key count, b = .queryEvents key count ∧
            a = (if 1 ≤ count ∧ count ≤ 16 then (.ok, .events (eventsReport key count s.free s.time.rate s.chans[c].store))
                 else (.badValue, .none))) ∨
         (b = .queryMonitor ∧ a = (.ok, .monitor (monitorReport s c))))) ∨
      (7 < h.channel ∧ a = (.badChannel, .none) ∧
        (b = .queryChannel ∨ (∃ key count, b = .queryEvents key count) ∨ (b = .queryMonitor ∧ h.channel ≠ 15))) ∨
      (h.channel = 15 ∧ b = .queryMonitor ∧ a = (.ok, .monitors
        (s.chans.toList.map fun c => (c.mon.state, c.mon.attrs.toList.map (·.flag))) s.beat s.expired)) ∨
      (b = .partStatus ∧ a = (.ok, .part (partReport (afterTurn f s)))) ∨
      (∃ n count, b = .logRead n count ∧
        ((¬ (1 ≤ count ∧ count ≤ 16) ∧ a = (.badValue, .none)) ∨
         (1 ≤ count ∧ count ≤ 16 ∧ (∀ x ∈ s.log.ring, x.number ≠ n) ∧ a = (.notFound, .none)) ∨
         (1 ≤ count ∧ count ≤ 16 ∧ ∃ l m x o y, s.log.ring = l ++ x :: m ∧ x.number = n ∧ (∀ z ∈ l, z.number ≠ n) ∧
            s.log.ring.head? = some o ∧ s.log.ring.getLast? = some y ∧
            a = (.ok, .log ((x :: m).take count) o.number y.number s.log.cursor s.log.unreported s.log.overrun))))) →
    exec i s = .next { afterTurn f s with sent := s.sent ++ replyPackets s f h b a }

/-- TIME_SET with every channel in MIRROR sets HFN to the frame its day and label name, and the time SET (R16); a waiting switch that is
due by the new number starts its JOINING at once (R2, R137; log entry 41). CLEAR_COUNTERS sets the
counts of R81, R99 and, with channel 15, R12 to 0 and leaves runs, flags, FIFOs and assemblies; LOG_FLUSH leaves no record unreported while
the link of the LOCAL_CTL port is UP, and emits nothing while it is DOWN (R187). -/
def Obligations.TimeCountersAndLogAreServed : Prop :=
  (∀ (f : CtlFlow) (h : Head) (day : Nat) (l : Label) (s : State), Turn f h (.timeSet day l) s →
    (labelValid s.time.rate l = true → (∀ c : Ch, s.chans[c].ctl.mode = .mirror) →
      ∃ t, exec (.timeSet f h day l) s = .next t ∧
        t.time = { s.time with hfn := hfnOf s.time.rate day l, timeState := .set } ∧
        PartKept { afterTurn f s with time := t.time } t ∧
        (∀ c : Ch, t.chans[c].intake = s.chans[c].intake ∧ t.chans[c].mon = s.chans[c].mon ∧
          t.chans[c].mirror = s.chans[c].mirror ∧
          (∀ x, s.chans[c].ctl.switch = some x →
            x.target - (s.params.chans[c].lead + s.params.chans[c].margin) ≤ hfnOf s.time.rate day l →
            t.chans[c].ctl.mode = .joining) ∧
          ((∀ x, s.chans[c].ctl.switch = some x →
            (hfnOf s.time.rate day l : Frame) < x.target - (s.params.chans[c].lead + s.params.chans[c].margin)) →
            t.chans[c].ctl.mode = .mirror ∧ t.chans[c].ctl.switch = s.chans[c].ctl.switch)) ∧
        Replies s t f h (.timeSet day l) (if labelExists s.time.rate l then .ok else .adjusted, .none)) ∧
    (labelValid s.time.rate l = true → (∃ c : Ch, s.chans[c].ctl.mode ≠ .mirror) →
      exec (.timeSet f h day l) s = .next { afterTurn f s with
        sent := s.sent ++ replyPackets s f h (.timeSet day l) (.wrongMode, .none) }) ∧
    (labelValid s.time.rate l = false → exec (.timeSet f h day l) s = .next { afterTurn f s with
        sent := s.sent ++ replyPackets s f h (.timeSet day l) (.malformed, .none) })) ∧
  (∀ (f : CtlFlow) (h : Head) (s : State), Turn f h .clearCounters s →
    (∀ c : Ch, Names h c → exec (.clearCounters f h) s = .next {
      (afterTurn f s).setCh c s.chans[c].clearCounts with
      sent := s.sent ++ replyPackets s f h .clearCounters (.ok, .none) }) ∧
    (h.channel = 15 → exec (.clearCounters f h) s = .next { afterTurn f s with
      chans := s.chans.map Chan.clearCounts,
      ports := s.ports.map fun p => { p with unknownTag := 0, badFrame := 0, oversize := 0, overflow := 0 },
      time := { s.time with slips := 0 },
      sent := s.sent ++ replyPackets s f h .clearCounters (.ok, .none) }) ∧
    (7 < h.channel → h.channel ≠ 15 → exec (.clearCounters f h) s = .next { afterTurn f s with
      sent := s.sent ++ replyPackets s f h .clearCounters (.badChannel, .none) })) ∧
  (∀ (x : Chan) (k : SrcId) (n : Fin 8),
    x.clearCounts.intake.source k =
      { x.intake.source k with completed := 0, incomplete := 0, pushedOut := 0, dropped := 0, stray := 0 } ∧
    x.clearCounts.mon.attrs[n] = { x.mon.attrs[n] with total := 0, worst := 0 } ∧
    x.clearCounts.intake.lastTaken = x.intake.lastTaken ∧ x.clearCounts.mon.state = x.mon.state ∧
    x.clearCounts.mon.holdoff = x.mon.holdoff ∧ x.clearCounts.mon.healthy = x.mon.healthy ∧
    x.clearCounts.mon.prevSig = x.mon.prevSig ∧ x.clearCounts.seq = x.seq ∧ x.clearCounts.ctl = x.ctl ∧
    x.clearCounts.store = x.store ∧ x.clearCounts.out = x.out) ∧
  ∀ (f : CtlFlow) (h : Head) (s : State), Turn f h .logFlush s → LogOk s.log →
    (s.localUp = true → ∃ t u, exec (.logFlush f h) s = .next t ∧ t.log = { s.log with unreported := 0, overrun := u } ∧
      u = (if s.log.unreported = 0 then s.log.overrun else 0) ∧ t.chans = s.chans ∧ t.params = s.params ∧
      Replies s t f h .logFlush (.ok, .flushed s.log.unreported 0)) ∧
    (s.localUp = false → exec (.logFlush f h) s = .next (afterTurn f s))

/-- RESET(CHANNEL n) leaves channel n in MIRROR with nothing mirrored, taken, on air, pending or held, its monitor STARTING, its window
disabled, its output counter running on and none taken in the current period (the model's choice, log entry 50); it appends a CHANNEL_RESET record,
behind the TRIGGER records that the channel's period has made (log entry 88, DEDUCED), and answers a running digest scan ABORTED. A player
that holds a cue or an item is STOPPING, with a STOP for now + 2 in flight or queued; a queued CUE is taken off its player instead, and
no CUE or QUERY stays queued; a FAULT player stays so (R108, R125). That a player whose queued CUE is taken off is STOPPING while a STOP of it
is queued or in flight, and IDLE otherwise, is the model's choice (log entry 65), and so is that a player that becomes STOPPING loses its
roll and end frames and keeps its stop frame, now + 2 or, where it was STOPPING already, the one it had (log entry 72). The rest of the part and the other channels are as they were (R40,
R180, R198). -/
def Obligations.ChannelResetsAreWhole : Prop :=
  ∀ (f : CtlFlow) (h : Head) (n : Nat) (s : State), Turn f h (.resetChannel n) s →
    (∀ c : Ch, n = c.val → ∃ t, exec (.resetChannel f h n) s = .next t ∧
      PartKept (afterTurn f s) t ∧ OthersKept c s t ∧ Replies s t f h (.resetChannel n) (.ok, .none) ∧
      t.chans[c].store = Chan.reset.store ∧ t.chans[c].mirror = Chan.reset.mirror ∧ t.chans[c].intake = Intake.reset ∧
      t.chans[c].mon = Monitor.reset ∧ t.chans[c].ctl = Ctl.reset ∧ t.chans[c].trig = Chan.reset.trig ∧
      t.chans[c].out = { s.chans[c].out with
        held := none, holdRun := 0, cues := [], window := { s.chans[c].out.window with enabled := false, phase := 0 } } ∧
      t.chans[c].seq = { Seq.reset with a := t.chans[c].seq.a, b := t.chans[c].seq.b } ∧
      (∀ (p : PlayerId) (x y : Player), x = s.chans[c].seq.player p → y = t.chans[c].seq.player p →
        y.lateRun = 0 ∧ (∀ q ∈ y.queue, q.2.isStop = true) ∧
        ((∀ q ∈ x.queue, q.2.isCue = false) →
          (x.state = .cueing ∨ x.state = .cued ∨ x.state = .playing → y.state = .stopping ∧ y.loaded = none ∧
            y.stopF = some ((s.time.hfn : Frame) + 2) ∧
            ((∃ g, y.flight = some g ∧ g.req = .stop ((s.time.hfn : Frame) + 2)) ∨
              ∃ q ∈ y.queue, q.2 = .stop ((s.time.hfn : Frame) + 2))) ∧
          (x.state = .idle ∨ x.state = .stopping ∨ x.state = .fault → y.state = x.state ∧ y.loaded = x.loaded ∧
            y.flight = x.flight ∧ y.tags = x.tags)) ∧
        ((∃ q ∈ x.queue, q.2.isCue = true) → y.loaded = none ∧ y.flight = x.flight ∧ y.tags = x.tags ∧
          y.state = (if (∃ q ∈ x.queue, q.2.isStop = true) ∨ (∃ g, x.flight = some g ∧ g.req.isStop = true) then .stopping
                     else .idle))) ∧
      (∃ r, t.log.ring.getLast? = some r ∧ r.body.kind = .channelReset ∧ r.body.channel = c.val ∧ r.body.hfn = s.time.hfn ∧
        r.body.detail = .chMode s.chans[c].ctl.mode) ∧ (∀ r ∈ t.log.triggers, r.channel ≠ c.val) ∧
      (∀ x, s.chans[c].store.scan = some x → ∀ o ∈ leaves s x.addr (.reply .main 3 x.tag x.channel .aborted .none), o ∈ t.sent)) ∧
    (7 < n → exec (.resetChannel f h n) s = .next { afterTurn f s with
      sent := s.sent ++ replyPackets s f h (.resetChannel n) (.badChannel, .none) })

/-- Every request stands its checks in order (R190, R191, R192): one behind another request of its flow has no effect, which is the
model's reading of its queue (log entry 8, DESIGN CHOICE); a body that runs past
the end of the packet, or a code that names no request (UNKNOWN_REQUEST_CODE), is refused MALFORMED; a request that its flow may not make is refused
NOT_PERMITTED. A request of one channel that names another channel value is refused BAD_CHANNEL; a batch that is no list of 1 to 32
operations, a label that fails R4, a break-in without a clip, a mode outside the list and an identifier that names no parameter are refused
MALFORMED (R4, R45, R148, R153, R193). The bytes of a body beyond its stated length are disregarded (R190): the field that ends a body,
a batch's operations or a segment's data, is read to that length; that these fields stand last is the model's (log entry 10). -/
def Obligations.RequestsStandTheirChecks : Prop :=
  (∀ (i : Instr) (f : CtlFlow) (h : Head) (b : ReqBody) (s : State), i.request = some (f, { head := h, body := b }) →
    s.powered = true →
    (∀ x, (s.inbound f).head? = some x → x ≠ { head := h, body := b } → exec i s = .next s) ∧
    (s.inbound f = [] ∨ (s.inbound f).head? = some { head := h, body := b } →
      (h.present < h.bodyLen ∨ (∃ code, b = .unknown code) → exec i s = .next { afterTurn f s with
        sent := s.sent ++ replyPackets s f h b (.malformed, .none) }) ∧
      (h.bodyLen ≤ h.present → (∀ code, b ≠ .unknown code) →
        (f = .loc ∧ reqCode b ≤ 6) ∨ (f = .main ∧ 6 < reqCode b) → exec i s = .next { afterTurn f s with
          sent := s.sent ++ replyPackets s f h b (.notPermitted, .none) }))) ∧
  (∀ (h : Head) (k : Nat) (l : List Byte), h.present = k + l.length → h.bodyLen ≤ h.present →
    statedPart h l = l.take (h.bodyLen - k)) ∧
  ∀ (i : Instr) (f : CtlFlow) (h : Head) (b : ReqBody) (st : Status) (s : State), i.request = some (f, { head := h, body := b }) →
    Turn f h b s →
    (st = .badChannel ∧ 7 < h.channel ∧ ((∃ n x, b = .mirrorBatch n x) ∨ (∃ n, b = .refreshOpen n) ∨
        (∃ n k m, b = .refreshClose n k m) ∨ (∃ k n m, b = .digestCheck k n m) ∨ (∃ d l, b = .handover d l) ∨
        (∃ x, b = .handbackAsk x) ∨ (∃ x o, b = .takeover x o) ∨ (∃ x o, b = .handback x o) ∨
        (∃ n k d m, b = .breakIn n k d m) ∨ (∃ m, b = .resume m))) ∨
      (st = .malformed ∧ (∃ c, Names h c) ∧
        ((∃ n x, b = .mirrorBatch n x ∧ ∀ ops, readOps (statedPart h x) = some ops → ops.length = 0 ∨ 32 < ops.length) ∨
          (∃ d l, labelValid s.time.rate l = false ∧
            (b = .handover d l ∨ ∃ o, b = .takeover (.at d l) o ∨ b = .handback (.at d l) o)) ∨
          (∃ n k d m, b = .breakIn n k d m ∧ (n = 0 ∨ d = some 0 ∨ 16777215 < k ∨ m = none)) ∨ b = .resume none)) ∨
      (st = .malformed ∧ (b = .getParam .unknown ∨ ∃ v, b = .setParam .unknown v ∨ ∃ k, b = .setParam (.trigger k) v)) →
    exec i s = .next { afterTurn f s with sent := s.sent ++ replyPackets s f h b (st, .none) }

/-! ## Output frames -/

/-- The takes of a period (R76, R77): the MAIN FIFO is trimmed to the alignment depth and one, its oldest frame taken, the rest
left; of a player's frames the oldest that is stamped with the period is taken, those stamped later stay, and the others are dropped and
counted; a PLAYING player's late-frame run counts the periods without one.
The frame of a period: the MAIN frame in MIRROR and in JOINING before a planned target, the player's in the standby modes; a missing or
late frame repeats the held one below the freeze limit, in silence, and gives fill from the limit on; the counter goes up by one, the cue
list is what was handed, and the standby flag is that of the mode (R164 to R168, R170). Its label and day are those of its number and
its packet count that of its sound (R8, R80, R168). Its position stamp is the MAIN frame's in MIRROR and in JOINING before a planned
target, and the on-air item's in the standby modes (R169). The ident is drawn where its window is enabled, its slot READY and the blink
shows it, over pictures that are not the main return's, and the blink phase goes on by one (R172, R173). The fill is black, or the slate
where its slot is READY (R167). A graphic's samples are drawn at their places inside the picture, and nowhere else (R172).
That a period does so is PeriodDone, which every command that begins a period gives. That a frame with nothing on air carries no stamp is
the model's choice (log entry 54). -/
def Obligations.OutputFramesFollowTheMode : Prop :=
  (∀ (g : Graphic) (x y line pos : Nat) (mix : Nat → Nat → Nat) (p : Picture), Picture.wf p = true → line < 1080 → pos < 3840 →
    (drawGraphic g x y mix p).read (picKey line pos) =
      (if y ≤ line ∧ line < y + g.height ∧ 2 * x ≤ pos ∧ pos < 2 * x + 2 * g.width then
         BitVec.ofNat 10 (mix (graphicSample g ((line - y) * (2 * g.width) + (pos - 2 * x))) (p.read (picKey line pos)).toNat)
       else p.read (picKey line pos))) ∧
  (∀ (gs : Vector Graphic 16) (k : Fin 16),
    fillPicture gs .black = Picture.black ∧
    (gs[k].state ≠ .ready → fillPicture gs (.slate k) = Picture.black) ∧
    (gs[k].state = .ready → fillPicture gs (.slate k) =
      drawGraphic gs[k] (2 * ((1920 - gs[k].width) / 4)) ((1080 - gs[k].height) / 2) (fun s _ => s) Picture.black)) ∧
  (∀ (depth : Nat) (i : Intake) (gone : List EssFrame),
    (gone.length = i.main.fifo.length - (depth + 1) → ∀ f rest, i.main.fifo = gone ++ f :: rest →
      (mainTake depth i).takeMain = some f ∧ (mainTake depth i).main.fifo = rest ∧
      (mainTake depth i).lastTaken = some (f.hdr.label, f.hdr.day) ∧
      (mainTake depth i).main.dropped = min (two32 - 1) (i.main.dropped + gone.length)) ∧
    (i.main.fifo = [] → (mainTake depth i).takeMain = none ∧ (mainTake depth i).main.fifo = [] ∧
      (mainTake depth i).lastTaken = i.lastTaken) ∧
    (mainTake depth i).a = i.a ∧ (mainTake depth i).b = i.b) ∧
  (∀ (n : Nat) (x : Source),
    (playerTake n x).2 = x.fifo.find? (fun f => decide (f.hdr.hfn = some n)) ∧
    (playerTake n x).1.fifo = x.fifo.filter (fun f => f.hdr.hfn.any fun h => decide (n < h)) ∧
    (playerTake n x).1.dropped = min (two32 - 1)
      (x.dropped + (x.fifo.length - (playerTake n x).1.fifo.length - (playerTake n x).2.toList.length))) ∧
  (∀ (env : Env) (w : W) (p : PlayerId),
    (takes env w).ch.intake = w.ch.intake.taken env.cp.alignDepth env.now.toNat ∧
    ((takes env w).player p).lateRun =
      (if (w.player p).state = .playing ∧ ((takes env w).ch.intake.take p).isNone = true then min 65535 ((w.player p).lateRun + 1)
       else 0)) ∧
  ∀ (gs : Vector Graphic 16) (env : Env) (c : Chan) (o : OutFrame) (x : Out), buildOut gs env c = (o, x) →
    o.counter = c.out.counter ∧ x.counter = (c.out.counter + 1) % two32 ∧ o.cues = c.out.cues ∧ x.cues = [] ∧
    x.last = o.source ∧
    (o.hfn = env.now.toNat ∧ o.label = (env.at env.now).label ∧ o.day = (env.at env.now).day ∧
      o.count = 1080 + (o.sound.length + 1919) / 1920) ∧
    (o.standby = true ↔ c.ctl.mode = .takeover ∨ c.ctl.mode = .breakIn ∨ c.ctl.mode = .returning ∨
      (c.ctl.mode = .joining ∧ c.forced = true)) ∧
    x.window = { c.out.window with phase :=
      if c.out.window.enabled = false ∨ c.out.window.blink = 0 then 0
      else (c.out.window.phase + 1) % (2 * c.out.window.blink) } ∧
    (x.lastIdent = true ↔ (∃ g, IdentShows gs c.out.window g) ∧ o.source ≠ .main ∧
      (o.source = .hold → ∃ k, c.out.held = some k ∧ k.origin = .standby)) ∧
    (∀ m, c.ctl.mode = .mirror ∨ (c.ctl.mode = .joining ∧ c.forced = false) → c.intake.takeMain = some m →
      o.source = .main ∧ o.picture = m.picture ∧ o.sound = m.sound ∧ o.stamp = m.hdr.stamp ∧ x.holdRun = 0 ∧
      x.held = some { picture := m.picture, samples := m.sound.length, origin := .main }) ∧
    (∀ a p m, c.ctl.mode = .takeover ∨ c.ctl.mode = .breakIn ∨ c.ctl.mode = .returning → c.seq.onAir = some a →
      a.item.kind = .pass ∨ a.item.kind = .brk → a.fillMark = false → a.item.player = some p → c.intake.take p = some m →
      o.source = (match p with | .a => OutSource.a | .b => OutSource.b) ∧ o.sound = m.sound ∧ x.holdRun = 0 ∧
      x.held = some { picture := m.picture, samples := m.sound.length, origin := .standby } ∧
      Drawn gs c.out.window m.picture o.picture) ∧
    (((c.ctl.mode = .mirror ∨ (c.ctl.mode = .joining ∧ c.forced = false)) ∧ c.intake.takeMain = none) ∨
      (c.ctl.mode = .joining ∧ c.forced = true) ∨
      ((c.ctl.mode = .takeover ∨ c.ctl.mode = .breakIn ∨ c.ctl.mode = .returning) ∧ ∃ a p, c.seq.onAir = some a ∧
        (a.item.kind = .pass ∨ a.item.kind = .brk) ∧ a.fillMark = false ∧ a.item.player = some p ∧ c.intake.take p = none) →
      (∀ k, c.out.held = some k → c.out.holdRun < env.cp.freezeLimit → o.source = .hold ∧ x.held = some k ∧
        x.holdRun = sat16 c.out.holdRun ∧ o.sound = List.replicate k.samples 0#24 ∧
        (k.origin = .main → o.picture = k.picture) ∧ (k.origin = .standby → Drawn gs c.out.window k.picture o.picture)) ∧
      (∀ k, c.out.held = some k → env.cp.freezeLimit ≤ c.out.holdRun → o.source = .fill ∧ x.held = some k ∧
        x.holdRun = c.out.holdRun ∧ o.sound = List.replicate k.samples 0#24 ∧
        Drawn gs c.out.window (fillPicture gs env.cp.fill) o.picture) ∧
      (c.out.held = none → o.source = .fill ∧ x.held = none ∧ x.holdRun = sat16 c.out.holdRun ∧ o.sound = [] ∧
        Drawn gs c.out.window (fillPicture gs env.cp.fill) o.picture)) ∧
    ((c.ctl.mode = .takeover ∨ c.ctl.mode = .breakIn ∨ c.ctl.mode = .returning) ∧
        (c.seq.onAir = none ∨ ∃ a, c.seq.onAir = some a ∧ ((∃ k, a.item.kind = .fill k) ∨ a.fillMark = true)) →
      o.source = .fill ∧ x.holdRun = 0 ∧ o.sound = List.replicate (heldSamples c.out) 0#24 ∧
      x.held = some { picture := fillPicture gs env.cp.fill, samples := heldSamples c.out, origin := .standby } ∧
      Drawn gs c.out.window (fillPicture gs env.cp.fill) o.picture) ∧
    (((c.ctl.mode = .mirror ∨ (c.ctl.mode = .joining ∧ c.forced = false)) ∧ c.intake.takeMain = none) ∨
      (c.ctl.mode = .joining ∧ c.forced = true) → o.stamp = none) ∧
    (c.ctl.mode = .takeover ∨ c.ctl.mode = .breakIn ∨ c.ctl.mode = .returning →
      (c.seq.onAir = none → o.stamp = none) ∧
      ∀ a, c.seq.onAir = some a →
        (∀ q, a.item.kind = .pass → a.item.event ≠ 0 → c.origin a.item.event = some q →
          o.stamp = some { event := a.item.event, offset := (env.now - q).toNat, pass := a.item.pass }) ∧
        (∀ q e, a.item.kind = .fill .blank ∨ a.item.kind = .fill .absent → a.item.event ≠ 0 →
          c.origin a.item.event = some q → c.store.event a.item.event = some e →
          o.stamp = some { event := a.item.event, offset := (env.now - q).toNat,
                           pass := ((env.now - q) / (e.duration : Int)).toNat }) ∧
        (∀ q e, a.item.kind = .fill .wait → a.item.forEvent ≠ 0 →
          c.origin a.item.forEvent = some q → c.store.event a.item.forEvent = some e →
          o.stamp = some { event := a.item.forEvent, offset := (env.now - q).toNat,
                           pass := ((env.now - q) / (e.duration : Int)).toNat }) ∧
        (a.item.kind = .fill .gap ∨ a.item.kind = .fill .scheduleEnd ∨ a.item.kind = .brk ∨
          (a.item.kind = .fill .wait ∧ a.item.forEvent = 0) → o.stamp = none))

/-! ## Batches as bytes -/

/-- The bytes of a batch's operations read back as those operations, for every value of every field that fits its bytes (R44, R200). -/
def Obligations.BatchBytesReadBack : Prop :=
  ∀ ops : List BatchOp, (∀ o ∈ ops, BatchOp.fits o = true) → readOps (ops.flatMap opBytes) = some ops

/-! ## Invariants -/

/-- Every step keeps the Time Base's, the queues', the log's and the configuration's invariants: the relock count at 0 to 8 and only in
FREE_RUN, a slip run only while LOCKED (R10, R11, R12); at most 8 waiting requests and 16-bit notice numbers (R188, R191); at most 1024
records with consecutive numbers (R181); parameters in range, tags and roles unique with the bootstrap entry present, loadable triggers
(R69, R156, R193). -/
def Obligations.StepsKeepThePart : Prop :=
  ∀ s t : State, step s = .next t → TimeOk s.time ∧ FlowsOk s ∧ LogOk s.log ∧ ConfigOk s →
    TimeOk t.time ∧ FlowsOk t ∧ LogOk t.log ∧ ConfigOk t

/-- Every step keeps what the stores hold in its one form: at most 4 frames in a FIFO, an open assembly short of its packet count with no
unit twice, pictures canonical (R73 to R75); graphic bytes at rising positions below bytes expected, all of them when READY (R175,
R176); and in each channel's schedule store the generations in order, the orphan alone with lifecycle ORPHAN, and the REFRESH
generation's records PENDING with the digest pair theirs (R20, R22, R23, R38). The eight channels together never hold more than the
pool's 4,096 records, and an orphan's id stands neither in CURRENT nor in REFRESH (R19, R20, R24); its order key may (R33). -/
def Obligations.StepsKeepTheBuffers : Prop :=
  ∀ s t : State, step s = .next t → (∀ c : Ch, IntakeOk s.chans[c].intake) ∧ (∀ k : Fin 16, GraphicOk s.graphics[k]) →
    ((∀ c : Ch, IntakeOk t.chans[c].intake) ∧ ∀ k : Fin 16, GraphicOk t.graphics[k]) ∧
      ((∀ c : Ch, StoreOk s.chans[c].store) → (∀ c : Ch, StoreOk t.chans[c].store) ∧ (PoolOk s → PoolOk t))

/-- Every step keeps a channel's mode and what goes with it: a saved context exactly in BREAK_IN, a pending break-in only in TAKEOVER,
a resume and an expiry only in BREAK_IN, a TAKEOVER switch only in MIRROR and always in JOINING, a HANDBACK switch exactly in RETURNING
(R127, R143, R148, R150, R153). -/
def Obligations.StepsKeepTheModes : Prop :=
  ∀ s t : State, step s = .next t → (∀ c : Ch, ModeOk s.chans[c].ctl) → ∀ c : Ch, ModeOk t.chans[c].ctl

/-- The state after power-on meets every invariant. The defaults it loads rest on the model's choice of a blank flash (log entry 13). -/
def Obligations.ResetMeetsTheInvariants : Prop :=
  TimeOk State.reset.time ∧ FlowsOk State.reset ∧ LogOk State.reset.log ∧ ConfigOk State.reset ∧
    (∀ c : Ch, IntakeOk State.reset.chans[c].intake ∧ StoreOk State.reset.chans[c].store ∧ ModeOk State.reset.chans[c].ctl) ∧
    (∀ k : Fin 16, GraphicOk State.reset.graphics[k]) ∧ PoolOk State.reset
end

