-- ==== Sys2Proof/Laws/State.lean ====
section
/-! SUPPORT. One lemma for each field under each update, so that no proof unfolds a record update. -/

namespace Sys2Proof.Machine

open Sys2Proof

/-! ## The part -/

@[simp] theorem State.setCh_powered (s : State) (c : Ch) (x : Chan) : (s.setCh c x).powered = s.powered := rfl
@[simp] theorem State.setCh_time (s : State) (c : Ch) (x : Chan) : (s.setCh c x).time = s.time := rfl
@[simp] theorem State.setCh_ports (s : State) (c : Ch) (x : Chan) : (s.setCh c x).ports = s.ports := rfl
@[simp] theorem State.setCh_flows (s : State) (c : Ch) (x : Chan) : (s.setCh c x).flows = s.flows := rfl
@[simp] theorem State.setCh_params (s : State) (c : Ch) (x : Chan) : (s.setCh c x).params = s.params := rfl
@[simp] theorem State.setCh_table (s : State) (c : Ch) (x : Chan) : (s.setCh c x).table = s.table := rfl
@[simp] theorem State.setCh_graphics (s : State) (c : Ch) (x : Chan) : (s.setCh c x).graphics = s.graphics := rfl
@[simp] theorem State.setCh_beat (s : State) (c : Ch) (x : Chan) : (s.setCh c x).beat = s.beat := rfl
@[simp] theorem State.setCh_expired (s : State) (c : Ch) (x : Chan) : (s.setCh c x).expired = s.expired := rfl
@[simp] theorem State.setCh_log (s : State) (c : Ch) (x : Chan) : (s.setCh c x).log = s.log := rfl
@[simp] theorem State.setCh_nextMain (s : State) (c : Ch) (x : Chan) : (s.setCh c x).nextMain = s.nextMain := rfl
@[simp] theorem State.setCh_nextLocal (s : State) (c : Ch) (x : Chan) : (s.setCh c x).nextLocal = s.nextLocal := rfl
@[simp] theorem State.setCh_inMain (s : State) (c : Ch) (x : Chan) : (s.setCh c x).inMain = s.inMain := rfl
@[simp] theorem State.setCh_inLocal (s : State) (c : Ch) (x : Chan) : (s.setCh c x).inLocal = s.inLocal := rfl
@[simp] theorem State.setCh_source (s : State) (c : Ch) (x : Chan) : (s.setCh c x).source = s.source := rfl
@[simp] theorem State.setCh_flash (s : State) (c : Ch) (x : Chan) : (s.setCh c x).flash = s.flash := rfl
@[simp] theorem State.setCh_save (s : State) (c : Ch) (x : Chan) : (s.setCh c x).save = s.save := rfl
@[simp] theorem State.setCh_lastSave (s : State) (c : Ch) (x : Chan) : (s.setCh c x).lastSave = s.lastSave := rfl
@[simp] theorem State.setCh_resetNotices (s : State) (c : Ch) (x : Chan) : (s.setCh c x).resetNotices = s.resetNotices := rfl
@[simp] theorem State.setCh_defaultedNotice (s : State) (c : Ch) (x : Chan) : (s.setCh c x).defaultedNotice = s.defaultedNotice := rfl
@[simp] theorem State.setCh_sent (s : State) (c : Ch) (x : Chan) : (s.setCh c x).sent = s.sent := rfl
@[simp] theorem State.setCh_draws (s : State) (c : Ch) (x : Chan) : (s.setCh c x).draws = s.draws := rfl
@[simp] theorem State.setCh_pending (s : State) (c : Ch) (x : Chan) : (s.setCh c x).pending = s.pending := rfl

@[simp] theorem State.setCh_chans (s : State) (c : Ch) (x : Chan) : (s.setCh c x).chans = s.chans.set c x := rfl

@[simp] theorem State.modPort_powered (s : State) (p : Port) (f : PortState → PortState) : (s.modPort p f).powered = s.powered := rfl
@[simp] theorem State.modPort_time (s : State) (p : Port) (f : PortState → PortState) : (s.modPort p f).time = s.time := rfl
@[simp] theorem State.modPort_flows (s : State) (p : Port) (f : PortState → PortState) : (s.modPort p f).flows = s.flows := rfl
@[simp] theorem State.modPort_params (s : State) (p : Port) (f : PortState → PortState) : (s.modPort p f).params = s.params := rfl
@[simp] theorem State.modPort_table (s : State) (p : Port) (f : PortState → PortState) : (s.modPort p f).table = s.table := rfl
@[simp] theorem State.modPort_chans (s : State) (p : Port) (f : PortState → PortState) : (s.modPort p f).chans = s.chans := rfl
@[simp] theorem State.modPort_graphics (s : State) (p : Port) (f : PortState → PortState) : (s.modPort p f).graphics = s.graphics := rfl
@[simp] theorem State.modPort_beat (s : State) (p : Port) (f : PortState → PortState) : (s.modPort p f).beat = s.beat := rfl
@[simp] theorem State.modPort_expired (s : State) (p : Port) (f : PortState → PortState) : (s.modPort p f).expired = s.expired := rfl
@[simp] theorem State.modPort_log (s : State) (p : Port) (f : PortState → PortState) : (s.modPort p f).log = s.log := rfl
@[simp] theorem State.modPort_nextMain (s : State) (p : Port) (f : PortState → PortState) : (s.modPort p f).nextMain = s.nextMain := rfl
@[simp] theorem State.modPort_nextLocal (s : State) (p : Port) (f : PortState → PortState) : (s.modPort p f).nextLocal = s.nextLocal := rfl
@[simp] theorem State.modPort_inMain (s : State) (p : Port) (f : PortState → PortState) : (s.modPort p f).inMain = s.inMain := rfl
@[simp] theorem State.modPort_inLocal (s : State) (p : Port) (f : PortState → PortState) : (s.modPort p f).inLocal = s.inLocal := rfl
@[simp] theorem State.modPort_source (s : State) (p : Port) (f : PortState → PortState) : (s.modPort p f).source = s.source := rfl
@[simp] theorem State.modPort_flash (s : State) (p : Port) (f : PortState → PortState) : (s.modPort p f).flash = s.flash := rfl
@[simp] theorem State.modPort_save (s : State) (p : Port) (f : PortState → PortState) : (s.modPort p f).save = s.save := rfl
@[simp] theorem State.modPort_lastSave (s : State) (p : Port) (f : PortState → PortState) : (s.modPort p f).lastSave = s.lastSave := rfl
@[simp] theorem State.modPort_resetNotices (s : State) (p : Port) (f : PortState → PortState) : (s.modPort p f).resetNotices = s.resetNotices := rfl
@[simp] theorem State.modPort_defaultedNotice (s : State) (p : Port) (f : PortState → PortState) : (s.modPort p f).defaultedNotice = s.defaultedNotice := rfl
@[simp] theorem State.modPort_sent (s : State) (p : Port) (f : PortState → PortState) : (s.modPort p f).sent = s.sent := rfl
@[simp] theorem State.modPort_draws (s : State) (p : Port) (f : PortState → PortState) : (s.modPort p f).draws = s.draws := rfl
@[simp] theorem State.modPort_pending (s : State) (p : Port) (f : PortState → PortState) : (s.modPort p f).pending = s.pending := rfl

@[simp] theorem State.modPort_ports (s : State) (p : Port) (f : PortState → PortState) : (s.modPort p f).ports = s.ports.set p (f s.ports[p]) := rfl

@[simp] theorem State.modTime_powered (s : State) (f : TimeBase → TimeBase) : (s.modTime f).powered = s.powered := rfl
@[simp] theorem State.modTime_ports (s : State) (f : TimeBase → TimeBase) : (s.modTime f).ports = s.ports := rfl
@[simp] theorem State.modTime_flows (s : State) (f : TimeBase → TimeBase) : (s.modTime f).flows = s.flows := rfl
@[simp] theorem State.modTime_params (s : State) (f : TimeBase → TimeBase) : (s.modTime f).params = s.params := rfl
@[simp] theorem State.modTime_table (s : State) (f : TimeBase → TimeBase) : (s.modTime f).table = s.table := rfl
@[simp] theorem State.modTime_chans (s : State) (f : TimeBase → TimeBase) : (s.modTime f).chans = s.chans := rfl
@[simp] theorem State.modTime_graphics (s : State) (f : TimeBase → TimeBase) : (s.modTime f).graphics = s.graphics := rfl
@[simp] theorem State.modTime_beat (s : State) (f : TimeBase → TimeBase) : (s.modTime f).beat = s.beat := rfl
@[simp] theorem State.modTime_expired (s : State) (f : TimeBase → TimeBase) : (s.modTime f).expired = s.expired := rfl
@[simp] theorem State.modTime_log (s : State) (f : TimeBase → TimeBase) : (s.modTime f).log = s.log := rfl
@[simp] theorem State.modTime_nextMain (s : State) (f : TimeBase → TimeBase) : (s.modTime f).nextMain = s.nextMain := rfl
@[simp] theorem State.modTime_nextLocal (s : State) (f : TimeBase → TimeBase) : (s.modTime f).nextLocal = s.nextLocal := rfl
@[simp] theorem State.modTime_inMain (s : State) (f : TimeBase → TimeBase) : (s.modTime f).inMain = s.inMain := rfl
@[simp] theorem State.modTime_inLocal (s : State) (f : TimeBase → TimeBase) : (s.modTime f).inLocal = s.inLocal := rfl
@[simp] theorem State.modTime_source (s : State) (f : TimeBase → TimeBase) : (s.modTime f).source = s.source := rfl
@[simp] theorem State.modTime_flash (s : State) (f : TimeBase → TimeBase) : (s.modTime f).flash = s.flash := rfl
@[simp] theorem State.modTime_save (s : State) (f : TimeBase → TimeBase) : (s.modTime f).save = s.save := rfl
@[simp] theorem State.modTime_lastSave (s : State) (f : TimeBase → TimeBase) : (s.modTime f).lastSave = s.lastSave := rfl
@[simp] theorem State.modTime_resetNotices (s : State) (f : TimeBase → TimeBase) : (s.modTime f).resetNotices = s.resetNotices := rfl
@[simp] theorem State.modTime_defaultedNotice (s : State) (f : TimeBase → TimeBase) : (s.modTime f).defaultedNotice = s.defaultedNotice := rfl
@[simp] theorem State.modTime_sent (s : State) (f : TimeBase → TimeBase) : (s.modTime f).sent = s.sent := rfl
@[simp] theorem State.modTime_draws (s : State) (f : TimeBase → TimeBase) : (s.modTime f).draws = s.draws := rfl
@[simp] theorem State.modTime_pending (s : State) (f : TimeBase → TimeBase) : (s.modTime f).pending = s.pending := rfl

@[simp] theorem State.modTime_time (s : State) (f : TimeBase → TimeBase) : (s.modTime f).time = f s.time := rfl

@[simp] theorem State.setInbound_powered (s : State) (q : List Request) (f : CtlFlow) : (s.setInbound q f).powered = s.powered := by cases f <;> rfl
@[simp] theorem State.setInbound_time (s : State) (q : List Request) (f : CtlFlow) : (s.setInbound q f).time = s.time := by cases f <;> rfl
@[simp] theorem State.setInbound_ports (s : State) (q : List Request) (f : CtlFlow) : (s.setInbound q f).ports = s.ports := by cases f <;> rfl
@[simp] theorem State.setInbound_flows (s : State) (q : List Request) (f : CtlFlow) : (s.setInbound q f).flows = s.flows := by cases f <;> rfl
@[simp] theorem State.setInbound_params (s : State) (q : List Request) (f : CtlFlow) : (s.setInbound q f).params = s.params := by cases f <;> rfl
@[simp] theorem State.setInbound_table (s : State) (q : List Request) (f : CtlFlow) : (s.setInbound q f).table = s.table := by cases f <;> rfl
@[simp] theorem State.setInbound_chans (s : State) (q : List Request) (f : CtlFlow) : (s.setInbound q f).chans = s.chans := by cases f <;> rfl
@[simp] theorem State.setInbound_graphics (s : State) (q : List Request) (f : CtlFlow) : (s.setInbound q f).graphics = s.graphics := by cases f <;> rfl
@[simp] theorem State.setInbound_beat (s : State) (q : List Request) (f : CtlFlow) : (s.setInbound q f).beat = s.beat := by cases f <;> rfl
@[simp] theorem State.setInbound_expired (s : State) (q : List Request) (f : CtlFlow) : (s.setInbound q f).expired = s.expired := by cases f <;> rfl
@[simp] theorem State.setInbound_log (s : State) (q : List Request) (f : CtlFlow) : (s.setInbound q f).log = s.log := by cases f <;> rfl
@[simp] theorem State.setInbound_nextMain (s : State) (q : List Request) (f : CtlFlow) : (s.setInbound q f).nextMain = s.nextMain := by cases f <;> rfl
@[simp] theorem State.setInbound_nextLocal (s : State) (q : List Request) (f : CtlFlow) : (s.setInbound q f).nextLocal = s.nextLocal := by cases f <;> rfl
@[simp] theorem State.setInbound_source (s : State) (q : List Request) (f : CtlFlow) : (s.setInbound q f).source = s.source := by cases f <;> rfl
@[simp] theorem State.setInbound_flash (s : State) (q : List Request) (f : CtlFlow) : (s.setInbound q f).flash = s.flash := by cases f <;> rfl
@[simp] theorem State.setInbound_save (s : State) (q : List Request) (f : CtlFlow) : (s.setInbound q f).save = s.save := by cases f <;> rfl
@[simp] theorem State.setInbound_lastSave (s : State) (q : List Request) (f : CtlFlow) : (s.setInbound q f).lastSave = s.lastSave := by cases f <;> rfl
@[simp] theorem State.setInbound_resetNotices (s : State) (q : List Request) (f : CtlFlow) : (s.setInbound q f).resetNotices = s.resetNotices := by cases f <;> rfl
@[simp] theorem State.setInbound_defaultedNotice (s : State) (q : List Request) (f : CtlFlow) : (s.setInbound q f).defaultedNotice = s.defaultedNotice := by cases f <;> rfl
@[simp] theorem State.setInbound_sent (s : State) (q : List Request) (f : CtlFlow) : (s.setInbound q f).sent = s.sent := by cases f <;> rfl
@[simp] theorem State.setInbound_draws (s : State) (q : List Request) (f : CtlFlow) : (s.setInbound q f).draws = s.draws := by cases f <;> rfl
@[simp] theorem State.setInbound_pending (s : State) (q : List Request) (f : CtlFlow) : (s.setInbound q f).pending = s.pending := by cases f <;> rfl

@[simp] theorem State.bumpNotice_powered (s : State) (f : CtlFlow) : (s.bumpNotice f).powered = s.powered := by cases f <;> rfl
@[simp] theorem State.bumpNotice_time (s : State) (f : CtlFlow) : (s.bumpNotice f).time = s.time := by cases f <;> rfl
@[simp] theorem State.bumpNotice_ports (s : State) (f : CtlFlow) : (s.bumpNotice f).ports = s.ports := by cases f <;> rfl
@[simp] theorem State.bumpNotice_flows (s : State) (f : CtlFlow) : (s.bumpNotice f).flows = s.flows := by cases f <;> rfl
@[simp] theorem State.bumpNotice_params (s : State) (f : CtlFlow) : (s.bumpNotice f).params = s.params := by cases f <;> rfl
@[simp] theorem State.bumpNotice_table (s : State) (f : CtlFlow) : (s.bumpNotice f).table = s.table := by cases f <;> rfl
@[simp] theorem State.bumpNotice_chans (s : State) (f : CtlFlow) : (s.bumpNotice f).chans = s.chans := by cases f <;> rfl
@[simp] theorem State.bumpNotice_graphics (s : State) (f : CtlFlow) : (s.bumpNotice f).graphics = s.graphics := by cases f <;> rfl
@[simp] theorem State.bumpNotice_beat (s : State) (f : CtlFlow) : (s.bumpNotice f).beat = s.beat := by cases f <;> rfl
@[simp] theorem State.bumpNotice_expired (s : State) (f : CtlFlow) : (s.bumpNotice f).expired = s.expired := by cases f <;> rfl
@[simp] theorem State.bumpNotice_log (s : State) (f : CtlFlow) : (s.bumpNotice f).log = s.log := by cases f <;> rfl
@[simp] theorem State.bumpNotice_inMain (s : State) (f : CtlFlow) : (s.bumpNotice f).inMain = s.inMain := by cases f <;> rfl
@[simp] theorem State.bumpNotice_inLocal (s : State) (f : CtlFlow) : (s.bumpNotice f).inLocal = s.inLocal := by cases f <;> rfl
@[simp] theorem State.bumpNotice_source (s : State) (f : CtlFlow) : (s.bumpNotice f).source = s.source := by cases f <;> rfl
@[simp] theorem State.bumpNotice_flash (s : State) (f : CtlFlow) : (s.bumpNotice f).flash = s.flash := by cases f <;> rfl
@[simp] theorem State.bumpNotice_save (s : State) (f : CtlFlow) : (s.bumpNotice f).save = s.save := by cases f <;> rfl
@[simp] theorem State.bumpNotice_lastSave (s : State) (f : CtlFlow) : (s.bumpNotice f).lastSave = s.lastSave := by cases f <;> rfl
@[simp] theorem State.bumpNotice_resetNotices (s : State) (f : CtlFlow) : (s.bumpNotice f).resetNotices = s.resetNotices := by cases f <;> rfl
@[simp] theorem State.bumpNotice_defaultedNotice (s : State) (f : CtlFlow) : (s.bumpNotice f).defaultedNotice = s.defaultedNotice := by cases f <;> rfl
@[simp] theorem State.bumpNotice_sent (s : State) (f : CtlFlow) : (s.bumpNotice f).sent = s.sent := by cases f <;> rfl
@[simp] theorem State.bumpNotice_draws (s : State) (f : CtlFlow) : (s.bumpNotice f).draws = s.draws := by cases f <;> rfl
@[simp] theorem State.bumpNotice_pending (s : State) (f : CtlFlow) : (s.bumpNotice f).pending = s.pending := by cases f <;> rfl

/-! ## A channel's blocks -/

@[simp] theorem W.modStore_store (w : W) (f : Store → Store) : (w.modStore f).ch.store = f w.ch.store := rfl
@[simp] theorem W.modStore_mirror (w : W) (f : Store → Store) : (w.modStore f).ch.mirror = w.ch.mirror := rfl
@[simp] theorem W.modStore_intake (w : W) (f : Store → Store) : (w.modStore f).ch.intake = w.ch.intake := rfl
@[simp] theorem W.modStore_mon (w : W) (f : Store → Store) : (w.modStore f).ch.mon = w.ch.mon := rfl
@[simp] theorem W.modStore_seq (w : W) (f : Store → Store) : (w.modStore f).ch.seq = w.ch.seq := rfl
@[simp] theorem W.modStore_ctl (w : W) (f : Store → Store) : (w.modStore f).ch.ctl = w.ch.ctl := rfl
@[simp] theorem W.modStore_trig (w : W) (f : Store → Store) : (w.modStore f).ch.trig = w.ch.trig := rfl
@[simp] theorem W.modStore_out (w : W) (f : Store → Store) : (w.modStore f).ch.out = w.ch.out := rfl
@[simp] theorem W.modStore_fx (w : W) (f : Store → Store) : (w.modStore f).fx = w.fx := rfl

@[simp] theorem W.modSeq_store (w : W) (f : Seq → Seq) : (w.modSeq f).ch.store = w.ch.store := rfl
@[simp] theorem W.modSeq_mirror (w : W) (f : Seq → Seq) : (w.modSeq f).ch.mirror = w.ch.mirror := rfl
@[simp] theorem W.modSeq_intake (w : W) (f : Seq → Seq) : (w.modSeq f).ch.intake = w.ch.intake := rfl
@[simp] theorem W.modSeq_mon (w : W) (f : Seq → Seq) : (w.modSeq f).ch.mon = w.ch.mon := rfl
@[simp] theorem W.modSeq_seq (w : W) (f : Seq → Seq) : (w.modSeq f).ch.seq = f w.ch.seq := rfl
@[simp] theorem W.modSeq_ctl (w : W) (f : Seq → Seq) : (w.modSeq f).ch.ctl = w.ch.ctl := rfl
@[simp] theorem W.modSeq_trig (w : W) (f : Seq → Seq) : (w.modSeq f).ch.trig = w.ch.trig := rfl
@[simp] theorem W.modSeq_out (w : W) (f : Seq → Seq) : (w.modSeq f).ch.out = w.ch.out := rfl
@[simp] theorem W.modSeq_fx (w : W) (f : Seq → Seq) : (w.modSeq f).fx = w.fx := rfl

@[simp] theorem W.modCtl_store (w : W) (f : Ctl → Ctl) : (w.modCtl f).ch.store = w.ch.store := rfl
@[simp] theorem W.modCtl_mirror (w : W) (f : Ctl → Ctl) : (w.modCtl f).ch.mirror = w.ch.mirror := rfl
@[simp] theorem W.modCtl_intake (w : W) (f : Ctl → Ctl) : (w.modCtl f).ch.intake = w.ch.intake := rfl
@[simp] theorem W.modCtl_mon (w : W) (f : Ctl → Ctl) : (w.modCtl f).ch.mon = w.ch.mon := rfl
@[simp] theorem W.modCtl_seq (w : W) (f : Ctl → Ctl) : (w.modCtl f).ch.seq = w.ch.seq := rfl
@[simp] theorem W.modCtl_ctl (w : W) (f : Ctl → Ctl) : (w.modCtl f).ch.ctl = f w.ch.ctl := rfl
@[simp] theorem W.modCtl_trig (w : W) (f : Ctl → Ctl) : (w.modCtl f).ch.trig = w.ch.trig := rfl
@[simp] theorem W.modCtl_out (w : W) (f : Ctl → Ctl) : (w.modCtl f).ch.out = w.ch.out := rfl
@[simp] theorem W.modCtl_fx (w : W) (f : Ctl → Ctl) : (w.modCtl f).fx = w.fx := rfl

@[simp] theorem W.modTrig_store (w : W) (f : Triggers → Triggers) : (w.modTrig f).ch.store = w.ch.store := rfl
@[simp] theorem W.modTrig_mirror (w : W) (f : Triggers → Triggers) : (w.modTrig f).ch.mirror = w.ch.mirror := rfl
@[simp] theorem W.modTrig_intake (w : W) (f : Triggers → Triggers) : (w.modTrig f).ch.intake = w.ch.intake := rfl
@[simp] theorem W.modTrig_mon (w : W) (f : Triggers → Triggers) : (w.modTrig f).ch.mon = w.ch.mon := rfl
@[simp] theorem W.modTrig_seq (w : W) (f : Triggers → Triggers) : (w.modTrig f).ch.seq = w.ch.seq := rfl
@[simp] theorem W.modTrig_ctl (w : W) (f : Triggers → Triggers) : (w.modTrig f).ch.ctl = w.ch.ctl := rfl
@[simp] theorem W.modTrig_trig (w : W) (f : Triggers → Triggers) : (w.modTrig f).ch.trig = f w.ch.trig := rfl
@[simp] theorem W.modTrig_out (w : W) (f : Triggers → Triggers) : (w.modTrig f).ch.out = w.ch.out := rfl
@[simp] theorem W.modTrig_fx (w : W) (f : Triggers → Triggers) : (w.modTrig f).fx = w.fx := rfl

@[simp] theorem W.modOut_store (w : W) (f : Out → Out) : (w.modOut f).ch.store = w.ch.store := rfl
@[simp] theorem W.modOut_mirror (w : W) (f : Out → Out) : (w.modOut f).ch.mirror = w.ch.mirror := rfl
@[simp] theorem W.modOut_intake (w : W) (f : Out → Out) : (w.modOut f).ch.intake = w.ch.intake := rfl
@[simp] theorem W.modOut_mon (w : W) (f : Out → Out) : (w.modOut f).ch.mon = w.ch.mon := rfl
@[simp] theorem W.modOut_seq (w : W) (f : Out → Out) : (w.modOut f).ch.seq = w.ch.seq := rfl
@[simp] theorem W.modOut_ctl (w : W) (f : Out → Out) : (w.modOut f).ch.ctl = w.ch.ctl := rfl
@[simp] theorem W.modOut_trig (w : W) (f : Out → Out) : (w.modOut f).ch.trig = w.ch.trig := rfl
@[simp] theorem W.modOut_out (w : W) (f : Out → Out) : (w.modOut f).ch.out = f w.ch.out := rfl
@[simp] theorem W.modOut_fx (w : W) (f : Out → Out) : (w.modOut f).fx = w.fx := rfl

@[simp] theorem W.modMon_store (w : W) (f : Monitor → Monitor) : (w.modMon f).ch.store = w.ch.store := rfl
@[simp] theorem W.modMon_mirror (w : W) (f : Monitor → Monitor) : (w.modMon f).ch.mirror = w.ch.mirror := rfl
@[simp] theorem W.modMon_intake (w : W) (f : Monitor → Monitor) : (w.modMon f).ch.intake = w.ch.intake := rfl
@[simp] theorem W.modMon_mon (w : W) (f : Monitor → Monitor) : (w.modMon f).ch.mon = f w.ch.mon := rfl
@[simp] theorem W.modMon_seq (w : W) (f : Monitor → Monitor) : (w.modMon f).ch.seq = w.ch.seq := rfl
@[simp] theorem W.modMon_ctl (w : W) (f : Monitor → Monitor) : (w.modMon f).ch.ctl = w.ch.ctl := rfl
@[simp] theorem W.modMon_trig (w : W) (f : Monitor → Monitor) : (w.modMon f).ch.trig = w.ch.trig := rfl
@[simp] theorem W.modMon_out (w : W) (f : Monitor → Monitor) : (w.modMon f).ch.out = w.ch.out := rfl
@[simp] theorem W.modMon_fx (w : W) (f : Monitor → Monitor) : (w.modMon f).fx = w.fx := rfl

@[simp] theorem W.modMirror_store (w : W) (f : Mirror → Mirror) : (W.modMirror f w).ch.store = w.ch.store := rfl
@[simp] theorem W.modMirror_mirror (w : W) (f : Mirror → Mirror) : (W.modMirror f w).ch.mirror = f w.ch.mirror := rfl
@[simp] theorem W.modMirror_intake (w : W) (f : Mirror → Mirror) : (W.modMirror f w).ch.intake = w.ch.intake := rfl
@[simp] theorem W.modMirror_mon (w : W) (f : Mirror → Mirror) : (W.modMirror f w).ch.mon = w.ch.mon := rfl
@[simp] theorem W.modMirror_seq (w : W) (f : Mirror → Mirror) : (W.modMirror f w).ch.seq = w.ch.seq := rfl
@[simp] theorem W.modMirror_ctl (w : W) (f : Mirror → Mirror) : (W.modMirror f w).ch.ctl = w.ch.ctl := rfl
@[simp] theorem W.modMirror_trig (w : W) (f : Mirror → Mirror) : (W.modMirror f w).ch.trig = w.ch.trig := rfl
@[simp] theorem W.modMirror_out (w : W) (f : Mirror → Mirror) : (W.modMirror f w).ch.out = w.ch.out := rfl
@[simp] theorem W.modMirror_fx (w : W) (f : Mirror → Mirror) : (W.modMirror f w).fx = w.fx := rfl

@[simp] theorem W.modPlayer_store (w : W) (p : PlayerId) (f : Player → Player) : (w.modPlayer p f).ch.store = w.ch.store := rfl
@[simp] theorem W.modPlayer_mirror (w : W) (p : PlayerId) (f : Player → Player) : (w.modPlayer p f).ch.mirror = w.ch.mirror := rfl
@[simp] theorem W.modPlayer_intake (w : W) (p : PlayerId) (f : Player → Player) : (w.modPlayer p f).ch.intake = w.ch.intake := rfl
@[simp] theorem W.modPlayer_mon (w : W) (p : PlayerId) (f : Player → Player) : (w.modPlayer p f).ch.mon = w.ch.mon := rfl
@[simp] theorem W.modPlayer_ctl (w : W) (p : PlayerId) (f : Player → Player) : (w.modPlayer p f).ch.ctl = w.ch.ctl := rfl
@[simp] theorem W.modPlayer_trig (w : W) (p : PlayerId) (f : Player → Player) : (w.modPlayer p f).ch.trig = w.ch.trig := rfl
@[simp] theorem W.modPlayer_out (w : W) (p : PlayerId) (f : Player → Player) : (w.modPlayer p f).ch.out = w.ch.out := rfl
@[simp] theorem W.modPlayer_fx (w : W) (p : PlayerId) (f : Player → Player) : (w.modPlayer p f).fx = w.fx := rfl
@[simp] theorem W.modPlayer_player (w : W) (p : PlayerId) (f : Player → Player) : (w.modPlayer p f).player p = f (w.player p) := by cases p <;> rfl
@[simp] theorem W.modPlayer_other (w : W) (p q : PlayerId) (f : Player → Player) (h : q ≠ p) : (w.modPlayer p f).player q = w.player q := by
  cases p <;> cases q <;> first | rfl | exact absurd rfl h

@[simp] theorem W.emit_ch (w : W) (e : Effect) : (w.emit e).ch = w.ch := rfl
@[simp] theorem W.emit_fx (w : W) (e : Effect) : (w.emit e).fx = w.fx ++ [e] := rfl
@[simp] theorem W.notice_ch (w : W) (env : Env) (f : CtlFlow) (n : Notice) : (w.notice env f n).ch = w.ch := rfl

/-- A TRIGGER record waits for the end of its period; any other is appended at once (R160, R179). -/
theorem record_trigger {s : State} {r : RecProto} (h : r.kind = .trigger) :
    s.record r = { s with log := { s.log with triggers := s.log.triggers ++ [r] } } := if_pos h
theorem record_other {s : State} {r : RecProto} (h : r.kind ≠ .trigger) : s.record r = s.append r := if_neg h

/-- A period with no TRIGGER record closes as it stands. -/
theorem closePeriod_nil {s : State} (h : s.log.triggers = []) : s.closePeriod = s := by
  cases s with | mk => cases ‹Log› with | mk => simp_all [State.closePeriod, State.appendTriggers]

end Sys2Proof.Machine
end

