-- ==== Sys2Proof/Laws/Part.lean ====
section
/-! SUPPORT. What sending, the As-Run Log and the running of a channel's blocks can do to the part: everything else is
kept. -/

namespace Sys2Proof.Machine

open Sys2Proof

/-! ## The stated body length -/

/-- A field that ends its body behind `k` bytes is read to the stated length. -/
theorem statedPart_behind {h : Head} {l : List Byte} {k : Nat} (p : h.present = k + l.length) (b : h.bodyLen ≤ h.present) :
    statedPart h l = l.take (h.bodyLen - k) := by
  unfold statedPart; congr 1; omega

/-- A field that its body's stated length takes in is read whole. -/
theorem statedPart_whole {h : Head} {l : List Byte} (p : h.present ≤ h.bodyLen) (b : l.length ≤ h.bodyLen) :
    statedPart h l = l := by
  unfold statedPart; exact List.take_of_length_le (by omega)

theorem statedPart_length_le (h : Head) (l : List Byte) : (statedPart h l).length ≤ h.bodyLen := by
  simp only [statedPart, List.length_take]; omega

/-! ## Kept -/

theorem PartKept.refl (s : State) : PartKept s s := by simp [PartKept]

theorem PartKept.trans {s t u : State} (a : PartKept s t) (b : PartKept t u) : PartKept s u := by
  simp only [PartKept] at *; simp_all

theorem OthersKept.refl (c : Ch) (s : State) : OthersKept c s s := fun _ _ => rfl

theorem OthersKept.trans {c : Ch} {s t u : State} (a : OthersKept c s t) (b : OthersKept c t u) : OthersKept c s u :=
  fun d h => (b d h).trans (a d h)

/-- The part and its channels are kept: only the log, the notice numbers and the wire may differ. -/
def Heard (s t : State) : Prop := PartKept s t ∧ t.chans = s.chans

theorem Heard.refl (s : State) : Heard s s := ⟨PartKept.refl s, rfl⟩

theorem Heard.trans {s t u : State} (a : Heard s t) (b : Heard t u) : Heard s u :=
  ⟨a.1.trans b.1, b.2.trans a.2⟩

/-! ## Sending -/

theorem transmit_heard (s : State) (a : Option (Port × Nat)) (o : Outgoing) : Heard s (s.transmit a o) := by
  unfold State.transmit
  split
  · exact Heard.refl s
  · split
    · simp [Heard, PartKept]
    · exact Heard.refl s

@[simp] theorem transmit_log (s : State) (a : Option (Port × Nat)) (o : Outgoing) : (s.transmit a o).log = s.log := by
  unfold State.transmit; split <;> [rfl; (split <;> rfl)]

@[simp] theorem transmit_nextMain (s : State) (a : Option (Port × Nat)) (o : Outgoing) :
    (s.transmit a o).nextMain = s.nextMain := by
  unfold State.transmit; split <;> [rfl; (split <;> rfl)]

@[simp] theorem transmit_nextLocal (s : State) (a : Option (Port × Nat)) (o : Outgoing) :
    (s.transmit a o).nextLocal = s.nextLocal := by
  unfold State.transmit; split <;> [rfl; (split <;> rfl)]

theorem bump_heard (s : State) (f : CtlFlow) : Heard s (s.bumpNotice f) := by
  cases f <;> simp [Heard, PartKept]

theorem notice_heard (s : State) (f : CtlFlow) (ch : Nat) (n : Notice) : Heard s (s.notice f ch n) :=
  (bump_heard s f).trans (transmit_heard _ _ _)

@[simp] theorem notice_log (s : State) (f : CtlFlow) (ch : Nat) (n : Notice) : (s.notice f ch n).log = s.log := by
  simp [State.notice]

/-! ## The As-Run Log -/

theorem setLog_heard (s : State) (l : Log) : Heard s { s with log := l } := by simp [Heard, PartKept]

theorem emitAsRun_heard (n : Nat) (s : State) : Heard s (emitAsRun n s) :=
  (setLog_heard s _).trans (notice_heard _ _ _ _)

theorem asRunTest_heard (n : Nat) (s : State) : Heard s (asRunTest n s) := by
  induction n generalizing s with
  | zero => exact Heard.refl s
  | succ n ih =>
    unfold asRunTest
    split
    · exact (emitAsRun_heard _ s).trans (ih _)
    · exact Heard.refl s

theorem testAsRun_heard (s : State) : Heard s s.testAsRun := asRunTest_heard _ s

theorem append_heard (s : State) (r : RecProto) : Heard s (s.append r) :=
  (setLog_heard s _).trans (testAsRun_heard _)

theorem record_heard (s : State) (r : RecProto) : Heard s (s.record r) := by
  unfold State.record; split
  · exact setLog_heard s _
  · exact append_heard s r

theorem appendAll_heard (l : List RecProto) (s : State) : Heard s (l.foldl State.append s) := by
  induction l generalizing s with
  | nil => exact Heard.refl s
  | cons r l ih => exact (append_heard s r).trans (ih _)

theorem appendTriggers_heard (pick : RecProto → Bool) (s : State) : Heard s (s.appendTriggers pick) :=
  (setLog_heard s _).trans (appendAll_heard _ _)

theorem closePeriod_heard (s : State) : Heard s s.closePeriod := appendTriggers_heard _ s

/-! ## A channel's blocks -/

theorem applyEffect_heard (c : Ch) (s : State) (e : Effect) : Heard s (applyEffect c s e) := by
  cases e with
  | record r => exact record_heard s r
  | notice f ch n => exact notice_heard s f ch n
  | request p tag req => exact transmit_heard s _ _
  | reply addr f code tag ch st body => exact transmit_heard s _ _

theorem applyAll_heard (c : Ch) (l : List Effect) (s : State) : Heard s (l.foldl (applyEffect c) s) := by
  induction l generalizing s with
  | nil => exact Heard.refl s
  | cons e l ih => exact (applyEffect_heard c s e).trans (ih _)

theorem setCh_kept (s : State) (c : Ch) (x : Chan) : PartKept s (s.setCh c x) := by simp [PartKept]

theorem setCh_others (s : State) (c : Ch) (x : Chan) : OthersKept c s (s.setCh c x) := by
  intro d h
  have : c.val ≠ d.val := fun e => h (Fin.ext e.symm)
  simp [this]

@[simp] theorem setCh_here (s : State) (c : Ch) (x : Chan) : (s.setCh c x).chans[c] = x := by simp

theorem runCh_chans (c : Ch) (op : Env → W → W) (s : State) : (runCh c op s).chans = s.chans.set c (ranCh c op s).ch :=
  (applyAll_heard c _ _).2

theorem runCh_here (c : Ch) (op : Env → W → W) (s : State) : (runCh c op s).chans[c] = (ranCh c op s).ch := by
  simp [runCh_chans]

theorem runCh_kept (c : Ch) (op : Env → W → W) (s : State) : PartKept s (runCh c op s) :=
  (setCh_kept s c _).trans (applyAll_heard c _ _).1

theorem runCh_others (c : Ch) (op : Env → W → W) (s : State) : OthersKept c s (runCh c op s) := by
  intro d h
  have : c.val ≠ d.val := fun e => h (Fin.ext e.symm)
  simp [runCh_chans, this]

/-- The same of a request's operation on a channel. -/
theorem askCh_fst (c : Ch) (op : Env → W → W × Answer) (s : State) :
    (askCh c op s).1 = runCh c (fun env w => (op env w).1) s := rfl

theorem askCh_snd (c : Ch) (op : Env → W → W × Answer) (s : State) :
    (askCh c op s).2 = (op (envOf s c) { ch := s.chans[c], fx := [] }).2 := rfl

/-- Running over all the channels keeps the part. -/
theorem foldCh_kept (op : Ch → Env → W → W) (l : List Ch) (s : State) :
    PartKept s (l.foldl (fun s c => runCh c (op c) s) s) := by
  induction l generalizing s with
  | nil => exact PartKept.refl s
  | cons c l ih => exact (runCh_kept c _ s).trans (ih _)

theorem runAll_kept (op : Env → W → W) (s : State) : PartKept s (runAll op s) := foldCh_kept (fun _ => op) _ s

/-! ## Taking a request -/

/-- A request whose turn has come is acted on, with its flow's address as it stood and its place in the queue free. -/
theorem takeRequest_turn {f : CtlFlow} {h : Head} {b : ReqBody} {s : State} (act : Option (Port × Nat) → State → State)
    (t : Turn f h b s) : takeRequest f h b act s = act (s.ctlAddr f) (afterTurn f s) := by
  obtain ⟨hp, hl, hf, hk, hq⟩ := t
  have pop : s.popRequest f { head := h, body := b } = some (afterTurn f s) := by
    unfold State.popRequest afterTurn
    rcases hq with hq | hq
    · rw [hq]; cases f <;> simp_all [State.setInbound, State.inbound] <;> cases s <;> simp_all
    · cases hl : s.inbound f with
      | nil => simp [hl] at hq
      | cons x rest => simp [hl] at hq; simp [hq]
  have addr : (afterTurn f s).ctlAddr f = s.ctlAddr f := by
    simp [afterTurn, State.ctlAddr]
  have chk : headCheck f h b = none := by
    simp [headCheck, hf, hk, Nat.not_lt.mpr hl]
  simp [takeRequest, hp, pop, chk, addr]

/-- A reply leaves everything but the wire, and puts its packet there. -/
theorem reply_heard (s : State) (a : Option (Port × Nat)) (f : CtlFlow) (h : Head) (b : ReqBody) (x : Answer) :
    Heard s (s.reply a f h b x) := transmit_heard s _ _

/-- A reply to the address its flow had puts its packet on the wire, and does nothing else. -/
theorem reply_eq {s t : State} {f : CtlFlow} {h : Head} {b : ReqBody} (x : Answer)
    (hp : ∀ p : Port, t.ports[p].up = s.ports[p].up) :
    t.reply (s.ctlAddr f) f h b x = { t with sent := t.sent ++ replyPackets s f h b x } := by
  unfold State.reply State.transmit replyPackets leaves
  cases s.ctlAddr f with
  | none => simp
  | some a =>
    obtain ⟨p, tag⟩ := a
    dsimp only
    rw [hp p]
    split <;> simp

/-- A notice takes its flow's next number and leaves on its flow's entry. -/
theorem notice_local_eq (s : State) (ch : Nat) (n : Notice) :
    s.notice .loc ch n =
      { s with nextLocal := (s.nextLocal + 1) % two16, sent := s.sent ++ noticePackets s .loc s.nextLocal ch n } := by
  unfold State.notice State.transmit noticePackets leaves State.bumpNotice State.nextNotice
  cases s.ctlAddr .loc with
  | none => simp
  | some a => obtain ⟨p, tag⟩ := a; simp only; split <;> simp

theorem notice_main_eq (s : State) (ch : Nat) (n : Notice) :
    s.notice .main ch n =
      { s with nextMain := (s.nextMain + 1) % two16, sent := s.sent ++ noticePackets s .main s.nextMain ch n } := by
  unfold State.notice State.transmit noticePackets leaves State.bumpNotice State.nextNotice
  cases s.ctlAddr .main with
  | none => simp
  | some a => obtain ⟨p, tag⟩ := a; simp only; split <;> simp

/-- A request whose turn has come and that ends with its reply: what its operation leaves, and one packet more. -/
theorem answered_turn {f : CtlFlow} {h : Head} {b : ReqBody} {s : State} {op : State → State × Answer} (t : Turn f h b s)
    (hp : ∀ p : Port, (op (afterTurn f s)).1.ports[p].up = s.ports[p].up) :
    takeRequest f h b (answered f h b op) s =
      { (op (afterTurn f s)).1 with
        sent := (op (afterTurn f s)).1.sent ++ replyPackets s f h b (op (afterTurn f s)).2 } := by
  rw [takeRequest_turn _ t]; unfold answered; exact reply_eq _ hp

/-- With power a command acts. -/
theorem live_on {f : State → State} {s : State} (h : s.powered = true) : live f s = f s := by unfold live; rw [if_pos h]

theorem afterTurn_kept (f : CtlFlow) (s : State) :
    (afterTurn f s).chans = s.chans ∧ (afterTurn f s).ports = s.ports ∧ (afterTurn f s).sent = s.sent := by
  simp [afterTurn]

end Sys2Proof.Machine
end

