-- ==== Sys2Proof/Laws/Calm.lean ====
section
/-! SUPPORT. No command touches the queue of waiting commands or takes back what has been sent. -/

namespace Sys2Proof.Machine

open Sys2Proof

/-- The queue stands and what has been sent stays sent. -/
def Calm (s t : State) : Prop := t.pending = s.pending ∧ s.sent <+: t.sent

theorem Calm.refl (s : State) : Calm s s := ⟨rfl, List.prefix_refl _⟩

theorem Calm.trans {s t u : State} (a : Calm s t) (b : Calm t u) : Calm s u := ⟨b.1.trans a.1, a.2.trans b.2⟩

/-- A change that leaves both fields alone. -/
theorem Calm.of_eq {s t : State} (a : t.pending = s.pending) (b : t.sent = s.sent) : Calm s t :=
  ⟨a, b ▸ List.prefix_refl _⟩

theorem foldl_calm {α : Type} (f : State → α → State) (hf : ∀ s x, Calm s (f s x)) (l : List α) (s : State) :
    Calm s (l.foldl f s) := by
  induction l generalizing s with
  | nil => exact Calm.refl s
  | cons x l ih => exact (hf s x).trans (ih _)

theorem transmit_calm (s : State) (a : Option (Port × Nat)) (o : Outgoing) : Calm s (s.transmit a o) := by
  unfold State.transmit
  split
  · exact Calm.refl s
  · split
    · exact ⟨rfl, List.prefix_append _ _⟩
    · exact Calm.refl s

theorem notice_calm (s : State) (f : CtlFlow) (ch : Nat) (n : Notice) : Calm s (s.notice f ch n) :=
  (Calm.of_eq (by simp) (by simp)).trans (transmit_calm (s.bumpNotice f) _ _)

theorem emitAsRun_calm (n : Nat) (s : State) : Calm s (emitAsRun n s) :=
  (Calm.of_eq rfl rfl).trans (notice_calm _ _ _ _)

theorem asRunTest_calm (n : Nat) (s : State) : Calm s (asRunTest n s) := by
  induction n generalizing s with
  | zero => exact Calm.refl s
  | succ n ih =>
    unfold asRunTest
    split
    · exact (emitAsRun_calm _ s).trans (ih _)
    · exact Calm.refl s

theorem append_calm (s : State) (r : RecProto) : Calm s (s.append r) :=
  Calm.trans (t := { s with log := s.log.append r }) (Calm.of_eq rfl rfl) (asRunTest_calm _ _)

theorem record_calm (s : State) (r : RecProto) : Calm s (s.record r) := by
  unfold State.record; split
  · exact Calm.of_eq rfl rfl
  · exact append_calm s r

theorem appendTriggers_calm (pick : RecProto → Bool) (s : State) : Calm s (s.appendTriggers pick) :=
  Calm.trans (t := { s with log := { s.log with triggers := s.log.triggers.filter fun r => !pick r } })
    (Calm.of_eq rfl rfl) (foldl_calm _ append_calm _ _)

theorem applyEffect_calm (c : Ch) (s : State) (e : Effect) : Calm s (applyEffect c s e) := by
  cases e with
  | record r => exact record_calm s r
  | notice f ch n => exact notice_calm s f ch n
  | request p tag req => exact transmit_calm s _ _
  | reply addr f code tag ch st body => exact transmit_calm s _ _

theorem runCh_calm (c : Ch) (op : Env → W → W) (s : State) : Calm s (runCh c op s) :=
  Calm.trans (t := s.setCh c (op (envOf s c) { ch := s.chans[c], fx := [] }).ch) (Calm.of_eq rfl rfl)
    (foldl_calm _ (applyEffect_calm c) _ _)

theorem runAll_calm (op : Env → W → W) (s : State) : Calm s (runAll op s) :=
  foldl_calm _ (fun s c => runCh_calm c op s) _ s

theorem live_calm {f : State → State} {s : State} (h : Calm s (f s)) : Calm s (live f s) := by
  unfold live; split
  · exact h
  · exact Calm.refl s

/-! ## Boundaries, links and the image -/

theorem buildFrame_calm (c : Ch) (s : State) : Calm s (buildFrame c s) :=
  Calm.trans (t := s.setCh c _) (Calm.of_eq rfl rfl) (transmit_calm _ _ _)

theorem siteBeatExpiry_calm (s : State) : Calm s (siteBeatExpiry s) := by
  unfold siteBeatExpiry; split
  · exact Calm.trans (t := { s with expired := true, beat := s.params.part.siteBeatTimeout }) (Calm.of_eq rfl rfl)
      (runAll_calm _ _)
  · exact Calm.refl s

theorem tickLog_calm (s : State) : Calm s (tickLog s) :=
  Calm.trans (t := { s with log := { s.log with tick := (s.log.tick + 1) % two32 } }) (Calm.of_eq rfl rfl)
    (asRunTest_calm _ _)

theorem tickBeat_calm (s : State) : Calm s (tickBeat s) := by
  unfold tickBeat
  exact Calm.trans (t := if s.expired then s else { s with beat := s.beat + 1 })
    (by split <;> exact Calm.of_eq rfl rfl) (siteBeatExpiry_calm _)

theorem periodChans_calm (s : State) : Calm s (periodChans s) :=
  foldl_calm (fun s c => runCh c (chanPeriod (badReport s c)) s) (fun s c => runCh_calm c _ s) _ s

theorem buildFrames_calm (s : State) : Calm s (buildFrames s) :=
  foldl_calm (fun s c => buildFrame c s) (fun s c => buildFrame_calm c s) _ s

theorem modTime_calm (s : State) (f : TimeBase → TimeBase) : Calm s (s.modTime f) := Calm.of_eq rfl rfl

theorem buildAll_calm (s : State) : Calm s (buildAll s) := (buildFrames_calm s).trans (modTime_calm _ _)

theorem clearMarks_calm (s : State) : Calm s (clearMarks s) := Calm.of_eq rfl rfl

theorem periodWork_calm (s : State) : Calm s (periodWork s) :=
  ((((tickLog_calm s).trans (tickBeat_calm _)).trans (periodChans_calm _)).trans (clearMarks_calm _)).trans (buildAll_calm _)

theorem boundaryAt_calm (n : Nat) (s : State) : Calm s (boundaryAt n s) := by
  refine ((appendTriggers_calm _ s).trans (t := s.closePeriod) (u := nextHfn s.closePeriod) ?_).trans (modTime_calm _ _)
  unfold nextHfn; split <;> exact Calm.of_eq rfl rfl

theorem refNotice_calm (why : RefReason) (l : Option RefLabel) (o : Option Label) (s : State) :
    Calm s (refNotice why l o s) := notice_calm _ _ _ _

theorem compareLabel_calm (l : RefLabel) (s : State) : Calm s (compareLabel l s) := by
  unfold compareLabel; dsimp only
  split
  · exact modTime_calm _ _
  · split
    · exact (modTime_calm s _).trans (refNotice_calm _ _ _ _)
    · exact modTime_calm s _

theorem timeBaseStart_calm (now : Nat) (l : Option RefLabel) (s : State) : Calm s (timeBaseStart now l s) := by
  unfold timeBaseStart
  split
  · exact Calm.refl s
  · split
    · split
      · exact ((appendTriggers_calm _ s).trans (modTime_calm _ _)).trans (periodWork_calm _)
      · exact Calm.refl s
    · split
      · exact (((appendTriggers_calm _ s).trans (modTime_calm _ _)).trans (refNotice_calm _ _ _ _)).trans (periodWork_calm _)
      · exact Calm.refl s

theorem periodBoundary_calm (now : Nat) (l : Option RefLabel) (s : State) : Calm s (periodBoundary now l s) := by
  unfold periodBoundary; dsimp only
  split
  · exact Calm.refl s
  · split
    · split
      · exact ((boundaryAt_calm _ s).trans (compareLabel_calm _ _)).trans (periodWork_calm _)
      · exact Calm.refl s
    · exact Calm.refl s
    · split
      · exact (boundaryAt_calm _ s).trans (periodWork_calm _)
      · exact Calm.refl s

theorem referenceLoss_calm (now : Nat) (s : State) : Calm s (referenceLoss now s) := by
  unfold referenceLoss; dsimp only
  split
  · exact (((boundaryAt_calm _ s).trans (modTime_calm _ _)).trans (refNotice_calm _ _ _ _)).trans (periodWork_calm _)
  · exact Calm.refl s

theorem referenceRelock_calm (now : Nat) (l : RefLabel) (s : State) : Calm s (referenceRelock now l s) := by
  unfold referenceRelock; dsimp only
  split
  · exact ((((boundaryAt_calm _ s).trans (modTime_calm _ _)).trans (refNotice_calm _ _ _ _)).trans
      (compareLabel_calm _ _)).trans (periodWork_calm _)
  · exact Calm.refl s

theorem relockTimeout_calm (now : Nat) (s : State) : Calm s (relockTimeout now s) := by
  unfold relockTimeout; dsimp only
  split
  · exact ((boundaryAt_calm _ s).trans (modTime_calm _ _)).trans (periodWork_calm _)
  · exact Calm.refl s

theorem relockPulse_calm (now : Nat) (s : State) : Calm s (relockPulse now s) := by
  unfold relockPulse; dsimp only
  split
  · exact Calm.refl s
  · exact modTime_calm _ _

theorem releaseReset_calm (s : State) : Calm s (releaseReset s) := by
  unfold releaseReset; split
  · exact Calm.trans (t := { s with resetNotices := false }) (Calm.of_eq rfl rfl) (runAll_calm _ _)
  · exact Calm.refl s

theorem defaultedNotice_calm (s : State) : Calm s (defaultedNotice s) := by
  unfold defaultedNotice; split
  · exact notice_calm _ _ _ _
  · exact Calm.refl s

theorem releaseDefaulted_calm (s : State) : Calm s (releaseDefaulted s) := by
  unfold releaseDefaulted; split
  · exact Calm.trans (t := { s with defaultedNotice := false }) (Calm.of_eq rfl rfl) (defaultedNotice_calm _)
  · exact Calm.refl s

theorem linkUp_calm (p : Port) (s : State) : Calm s (linkUp p s) := by
  have h : Calm s (releaseReset (s.modPort p fun x => { x with up := true })) :=
    Calm.trans (t := s.modPort p fun x => { x with up := true }) (Calm.of_eq rfl rfl) (releaseReset_calm _)
  unfold linkUp; dsimp only
  repeat' split
  · exact Calm.refl s
  · exact (h.trans (releaseDefaulted_calm _)).trans (asRunTest_calm _ _)
  · exact h

theorem linkDown_calm (p : Port) (s : State) : Calm s (linkDown p s) := by
  unfold linkDown; split
  · exact Calm.trans (t := s.modPort p fun x => { x with up := false }) (Calm.of_eq rfl rfl)
      (foldl_calm (fun s (x : Ch × SrcId) => s.modSource x.1 x.2 Source.discard) (fun _ _ => Calm.of_eq rfl rfl) _ _)
  · exact Calm.refl s

theorem saveComplete_calm (good : Bool) (s : State) : Calm s (saveComplete good s) := by
  unfold saveComplete; split
  · exact Calm.refl s
  · dsimp only
    exact Calm.trans (by exact Calm.of_eq rfl rfl) (notice_calm _ _ _ _)

theorem abandonSave_calm (s : State) : Calm s (abandonSave s) := by
  unfold abandonSave; split <;> exact Calm.of_eq rfl rfl

theorem partReset_calm (up : Port → Bool) (s : State) : Calm s (partReset up s) :=
  (abandonSave_calm s).trans (Calm.of_eq rfl rfl)

theorem softReset_calm (s : State) : Calm s (softReset s) := by
  have h : Calm s (partReset (fun p => s.ports[p].up) s) := partReset_calm _ s
  unfold softReset
  generalize partReset (fun p => s.ports[p].up) s = u at h
  refine (h.trans ?_).trans (releaseReset_calm _)
  split
  · exact Calm.trans (t := { u with defaultedNotice := false }) (Calm.of_eq rfl rfl) (defaultedNotice_calm _)
  · exact Calm.refl _

/-! ## Arrivals -/

theorem dropped_calm (s : State) (e : Eth) (x : Checked) : Calm s (dropped s e x) := by
  cases x <;> exact Calm.of_eq rfl rfl

theorem arrives_calm {f : FlowEntry → State → State} (hf : ∀ x s, Calm s (f x s)) (s : State) (e : Eth) (spelt : Bool) :
    Calm s (arrives s e spelt f) := by
  unfold arrives; split
  · split
    · exact hf _ _
    · exact Calm.refl s
  · exact dropped_calm _ _ _

theorem toSource_calm (s : State) (x : FlowEntry) (f : Source → Source) : Calm s (toSource s x f) := by
  unfold toSource; split <;> exact Calm.of_eq rfl rfl

theorem essence_calm (s : State) (e : Eth) (t : Nat) (f : Source → Source) : Calm s (essence s e t f) :=
  arrives_calm (fun x s => toSource_calm s x f) s e _

theorem requestArrives_calm (e : Eth) (present : Nat) (b : ReqBody) (s : State) : Calm s (requestArrives e present b s) := by
  refine arrives_calm (fun x s => ?_) s e _
  dsimp only
  split <;> split <;> exact Calm.of_eq rfl rfl

theorem playerReply_calm (e : Eth) (act : PlayerId → Flight → Env → W → W) (s : State) :
    Calm s (playerReply e act s) := by
  refine arrives_calm (fun x s => ?_) s e _
  split
  · exact runCh_calm _ _ _
  · exact Calm.refl s

/-! ## Requests -/

theorem reply_calm (s : State) (a : Option (Port × Nat)) (f : CtlFlow) (h : Head) (b : ReqBody) (x : Answer) :
    Calm s (s.reply a f h b x) := transmit_calm _ _ _

theorem takeRequest_calm {f : CtlFlow} {h : Head} {b : ReqBody} {act : Option (Port × Nat) → State → State}
    (hact : ∀ a s, Calm s (act a s)) (s : State) : Calm s (takeRequest f h b act s) := by
  unfold takeRequest
  split
  · exact Calm.refl s
  · split
    · exact Calm.refl s
    · rename_i u hu
      have h1 : Calm s u := by
        revert hu; unfold State.popRequest; repeat' split
        · intro h; cases h; exact Calm.refl s
        · intro h; cases h; exact Calm.of_eq (by simp) (by simp)
        · intro h; cases h
      refine h1.trans ?_
      dsimp only; split
      · exact reply_calm _ _ _ _ _ _
      · exact hact _ _

theorem answered_calm {f : CtlFlow} {h : Head} {b : ReqBody} {op : State → State × Answer}
    (hop : ∀ s, Calm s (op s).1) (a : Option (Port × Nat)) (s : State) : Calm s (answered f h b op a s) :=
  (hop s).trans (reply_calm _ _ _ _ _ _)

theorem onChannel_calm (h : Head) (op : Env → W → W × Answer) (s : State) : Calm s (onChannel h op s).1 := by
  unfold onChannel; split
  · exact Calm.refl s
  · exact runCh_calm _ (fun env w => (op env w).1) s

theorem digestCheckAct_calm (f : CtlFlow) (h : Head) (key count sum : Nat) (a : Option (Port × Nat)) (s : State) :
    Calm s (digestCheckAct f h key count sum a s) := by
  unfold digestCheckAct; split
  · exact reply_calm _ _ _ _ _ _
  · exact runCh_calm _ _ _

theorem stepHfn_calm (n : Nat) (s : State) : Calm s (stepHfn n s) := by
  have h : Calm s { s with time := { s.time with hfn := n, timeState := .set } } := Calm.of_eq rfl rfl
  unfold stepHfn
  generalize { s with time := { s.time with hfn := n, timeState := .set } } = u at h ⊢
  exact h.trans (runAll_calm _ _)

theorem timeSetOn_calm (day : Nat) (l : Label) (s : State) : Calm s (timeSetOn day l s).1 := by
  unfold timeSetOn; dsimp only
  by_cases h : labelValid s.time.rate l = false
  · rw [if_pos h]; exact Calm.refl s
  · rw [if_neg h]
    by_cases h2 : s.allMirror = false
    · rw [if_pos h2]; exact Calm.refl s
    · rw [if_neg h2]; dsimp only; exact stepHfn_calm _ _

theorem setDay_calm (day : Nat) (l : Label) (s : State) : Calm s (setDay day l s).1 := by
  unfold setDay
  by_cases h : s.time.timeState = .unset ∧ s.allMirror = true
  · rw [if_pos h]; dsimp only; exact stepHfn_calm _ _
  · rw [if_neg h]; exact Calm.refl s

theorem siteBeatOn_calm (day : Nat) (l : Label) (s : State) : Calm s (siteBeatOn day l s).1 := by
  have hd := setDay_calm day l s
  unfold siteBeatOn; dsimp only
  by_cases h : labelValid s.time.rate l = false
  · rw [if_pos h]; exact Calm.refl s
  · rw [if_neg h]; dsimp only
    generalize (setDay day l s).1 = u at hd ⊢
    have h2 : Calm u { u with beat := 0, expired := false } := Calm.of_eq rfl rfl
    generalize { u with beat := 0, expired := false } = v at h2 ⊢
    exact (hd.trans h2).trans (runAll_calm _ _)

theorem putPart_calm (p : PartParam) (v : Nat) (s : State) : Calm s (putPart p v s) := by
  unfold putPart; dsimp only; split
  · exact Calm.trans (t := { s with params := { s.params with part := s.params.part.put v p } }) (Calm.of_eq rfl rfl)
      (asRunTest_calm _ _)
  · exact Calm.of_eq rfl rfl

theorem putChan_calm (p : ChanParam) (v : Nat) (s : State) (c : Ch) : Calm s (putChan p v s c) :=
  Calm.trans (t := s.modParams c fun x => x.put v p) (Calm.of_eq rfl rfl) (runCh_calm _ _ _)

theorem setParamOn_calm (h : Head) (id : ParamId) (v : Nat) (s : State) : Calm s (setParamOn h id v s).1 := by
  have hc : ∀ (p : ChanParam) (cs : List Ch), Calm s (cs.foldl (putChan p v) s) :=
    fun p cs => foldl_calm (putChan p v) (fun s c => putChan_calm _ _ s c) _ _
  cases id with
  | unknown => exact Calm.refl s
  | trigger _ => exact Calm.refl s
  | part p =>
    unfold setParamOn deny; dsimp only
    split
    · exact Calm.refl s
    · split
      · split <;> exact Calm.of_eq rfl rfl
      · exact putPart_calm _ _ _
  | chan p =>
    unfold setParamOn deny; dsimp only
    split
    · exact Calm.refl s
    · split
      · exact Calm.refl s
      · split
        · exact Calm.refl s
        · exact hc _ _

theorem getParamOn_calm (h : Head) (id : ParamId) (s : State) : (getParamOn h id s).1 = s := by
  unfold getParamOn deny; repeat' split
  all_goals rfl

theorem flowLoaded_calm (r : Role) (s : State) : Calm s (flowLoaded r s) := by
  cases r <;> first | exact Calm.refl s | exact releaseReset_calm s | exact asRunTest_calm _ s

theorem loadEntry_calm (e : FlowEntry) (s : State) : Calm s (loadEntry e s).1 := by
  have hf : ∀ (l : List (Ch × SrcId)) (u : State), Calm u (l.foldl clearFeedOf u) :=
    fun l u => foldl_calm clearFeedOf (fun _ _ => Calm.of_eq rfl rfl) _ _
  have hl : ∀ fl : List FlowEntry, Calm s { s with flows := fl } := fun _ => Calm.of_eq rfl rfl
  unfold loadEntry deny
  split
  · split
    · exact Calm.refl s
    · split
      · exact Calm.refl s
      · exact ((hl _).trans (hf _ _)).trans (flowLoaded_calm _ _)
  · split
    · exact Calm.refl s
    · split
      · exact Calm.refl s
      · exact (hl _).trans (flowLoaded_calm _ _)

theorem flowLoadOn_calm (tag port : Nat) (r : Option Role) (ch : Nat) (s : State) :
    Calm s (flowLoadOn tag port r ch s).1 := by
  have hl : ∀ fl : List FlowEntry, Calm s { s with flows := fl } := fun _ => Calm.of_eq rfl rfl
  unfold flowLoadOn loadBootstrap deny
  split
  · split
    · exact Calm.refl s
    · split
      · split
        · exact Calm.refl s
        · exact loadEntry_calm _ _
      · split
        · split
          · exact Calm.refl s
          · exact (hl _).trans (flowLoaded_calm .localCtl _)
        · exact loadEntry_calm _ _
  · exact Calm.refl s

theorem flowClearOn_calm (tag : Nat) (s : State) : Calm s (flowClearOn tag s).1 := by
  unfold flowClearOn; repeat' split
  all_goals first
    | exact Calm.refl s
    | exact Calm.trans (t := { s with flows := _ }) (Calm.of_eq rfl rfl) (foldl_calm clearFeedOf (fun _ _ => Calm.of_eq rfl rfl) _ _)

theorem flushAll_calm (n k : Nat) (s : State) : Calm s (flushAll n k s) := by
  induction k generalizing s with
  | zero => exact Calm.refl s
  | succ k ih =>
    unfold flushAll; split
    · exact Calm.refl s
    · exact (emitAsRun_calm _ s).trans (ih _)

theorem logFlushOn_calm (s : State) : Calm s (logFlushOn s).1 := by
  unfold logFlushOn; split
  · exact flushAll_calm _ _ _
  · exact Calm.refl s

theorem clearCountersOn_calm (h : Head) (s : State) : Calm s (clearCountersOn h s).1 := by
  unfold clearCountersOn deny; repeat' split
  all_goals exact Calm.of_eq rfl rfl

theorem resetChannelReq_calm (n : Nat) (s : State) : Calm s (resetChannelReq n s).1 := by
  unfold resetChannelReq; split
  · exact Calm.refl s
  · dsimp only
    exact (appendTriggers_calm _ s).trans (runCh_calm _ _ _)

/-- The other requests change one field or none. -/
theorem simple_calm (s : State) :
    (∀ code a, Calm s (triggerLoadOn code a s).1) ∧ (∀ code, Calm s (triggerClearOn code s).1) ∧
    (∀ n w h, Calm s (graphicBeginOn n w h s).1) ∧ (∀ n o d, Calm s (graphicSegmentOn n o d s).1) ∧
    (∀ n, Calm s (graphicEndOn n s).1) ∧ (∀ h, Calm s (queryChannelOn h s).1) ∧
    (∀ h k n, Calm s (queryEventsOn h k n s).1) ∧ (∀ h, Calm s (queryMonitorOn h s).1) ∧
    (∀ n k, Calm s (logReadOn n k s).1) ∧ (∀ h, Calm s (saveConfigOn h s).1) := by
  refine ⟨?_, ?_, ?_, ?_, ?_, ?_, ?_, ?_, ?_, ?_⟩ <;> intros
  · unfold triggerLoadOn deny; repeat' split
    all_goals exact Calm.of_eq rfl rfl
  · unfold triggerClearOn deny; repeat' split
    all_goals exact Calm.of_eq rfl rfl
  · unfold graphicBeginOn deny; repeat' split
    all_goals exact Calm.of_eq rfl rfl
  · unfold graphicSegmentOn deny; dsimp only; repeat' split
    all_goals exact Calm.of_eq rfl rfl
  · unfold graphicEndOn deny; dsimp only; repeat' split
    all_goals exact Calm.of_eq rfl rfl
  · unfold queryChannelOn deny; repeat' split
    all_goals exact Calm.of_eq rfl rfl
  · unfold queryEventsOn deny; repeat' split
    all_goals exact Calm.of_eq rfl rfl
  · unfold queryMonitorOn deny; repeat' split
    all_goals exact Calm.of_eq rfl rfl
  · unfold logReadOn deny; dsimp only; repeat' split
    all_goals exact Calm.of_eq rfl rfl
  · unfold saveConfigOn deny; repeat' split
    all_goals exact Calm.of_eq rfl rfl

end Sys2Proof.Machine
end

