-- ==== Sys2Proof/Laws/Still.lean ====
section
/-! SUPPORT. The Sequencer, the players and the Trigger Unit never write the mirror record, the intake, the monitor, the
output but for its window and cues, nor the Channel Controller's state but for the handed landing. -/

namespace Sys2Proof.Machine

open Sys2Proof

set_option linter.all false

/-- The two together. -/
def W.base (w : W) := (w.still, w.rule)

theorem W.base_still {w v : W} (h : w.base = v.base) : w.still = v.still := congrArg Prod.fst h
theorem W.base_rule {w v : W} (h : w.base = v.base) : w.rule = v.rule := congrArg Prod.snd h

theorem foldl_base {α : Type} (f : W → α → W) (hf : ∀ w x, (f w x).base = w.base) (l : List α) (w : W) :
    (l.foldl f w).base = w.base := by
  induction l generalizing w with
  | nil => rfl
  | cons x l ih => rw [List.foldl_cons, ih, hf]

@[simp] theorem modStore_base (w : W) (f : Store → Store) : (w.modStore f).base = w.base := rfl
@[simp] theorem modSeq_base (w : W) (f : Seq → Seq) : (w.modSeq f).base = w.base := rfl
@[simp] theorem modTrig_base (w : W) (f : Triggers → Triggers) : (w.modTrig f).base = w.base := rfl
@[simp] theorem modPlayer_base (w : W) (p : PlayerId) (f : Player → Player) : (w.modPlayer p f).base = w.base := rfl
@[simp] theorem modHanded_base (w : W) (h : Option Handed) : (w.modCtl fun c => { c with handed := h }).base = w.base := rfl
@[simp] theorem emit_base (w : W) (e : Effect) : (w.emit e).base = w.base := rfl
@[simp] theorem notice_base (w : W) (env : Env) (f : CtlFlow) (n : Notice) : (w.notice env f n).base = w.base := rfl
@[simp] theorem record_base (env : Env) (kind : AsRunKind) (event pass : Nat) (offset : Int) (source : AsRunSource) (detail : Detail) (trigger : Option Nat) (w : W) : (W.record env kind event pass offset source detail trigger w).base = w.base := by
  unfold W.record
  (try dsimp only)
  (repeat' split) <;> first | simp | rfl

@[simp] theorem itemRecord_base (env : Env) (kind : AsRunKind) (event pass : Nat) (offset : Int) (source : AsRunSource) (detail : Detail) (w : W) : (W.itemRecord env kind event pass offset source detail w).base = w.base := by
  unfold W.itemRecord
  (try dsimp only)
  (repeat' split) <;> first | simp | rfl

@[simp] theorem modeNotice_base (env : Env) (before after : Mode) (cause : ModeCause) (landing : Option Handed) (w : W) : (W.modeNotice env before after cause landing w).base = w.base := by
  unfold W.modeNotice
  (try dsimp only)
  (repeat' split) <;> first | simp | rfl

@[simp] theorem setMark_base (event i : Nat) (m : Option Frame) (w : W) : (W.setMark event i m w).base = w.base := by
  unfold W.setMark
  (try dsimp only)
  (repeat' split) <;> first | simp | rfl

@[simp] theorem dropPending_base (leaves : PendTrig → Bool) (w : W) : (W.dropPending leaves w).base = w.base := by
  unfold W.dropPending
  dsimp only
  rw [foldl_base _ (fun w x => by simp)]
  simp

@[simp] theorem dropOwner_base (i : Item) (w : W) : (W.dropOwner i w).base = w.base := by
  unfold W.dropOwner
  (try dsimp only)
  (repeat' split) <;> first | simp | rfl

@[simp] theorem trigRecord_base (env : Env) (event pass offset : Nat) (source : AsRunSource) (o : TrigOutcome) (code : Nat) (w : W) : (W.trigRecord env event pass offset source o code w).base = w.base := by
  unfold W.trigRecord
  (try dsimp only)
  (repeat' split) <;> first | simp | rfl

@[simp] theorem judgeOne_base (env : Env) (it : Item) (aired : Frame) (e : Event) (index : Nat) (t : Trig) (frame : Frame) (w : W) : (judgeOne env it aired e index t frame w).base = w.base := by
  unfold judgeOne
  (try dsimp only)
  (repeat' split) <;> first | simp | rfl

@[simp] theorem judgeAgain_base (env : Env) (old : List PendTrig) (it : Item) (aired : Frame) (e : Event) (index : Nat) (t : Trig) (frame : Frame) (w : W) :
    (judgeAgain env old it aired e index t frame w).base = w.base := by
  unfold judgeAgain
  split <;> simp

@[simp] theorem judgeTriggers_base (env : Env) (old : List PendTrig) (it : Item) (aired : Frame) (w : W) :
    (judgeTriggers env old it aired w).base = w.base := by
  unfold judgeTriggers
  (repeat' split) <;> first | rfl | (rw [foldl_base _ (fun w x => by (try dsimp only); split <;> simp)])

@[simp] theorem judgeItem_base (env : Env) (it : Item) (aired : Frame) (w : W) : (judgeItem env it aired w).base = w.base :=
  judgeTriggers_base env [] it aired w

@[simp] theorem rejudge_base (env : Env) (w : W) : (rejudge env w).base = w.base := by
  unfold rejudge
  (try dsimp only)
  (repeat' split) <;> first | simp | rfl

@[simp] theorem modWindow_base (f : Window → Window) (w : W) : (W.modWindow f w).base = w.base := by
  unfold W.modWindow
  (try dsimp only)
  (repeat' split) <;> first | simp | rfl

@[simp] theorem actTrigger_base (env : Env) (t : PendTrig) (late : Bool) (w : W) : (actTrigger env t late w).base = w.base := by
  unfold actTrigger
  (try dsimp only)
  (repeat' split) <;> first | simp | rfl

@[simp] theorem actEntry_base (env : Env) (w : W) (t : PendTrig) : (actEntry env w t).base = w.base := by
  unfold actEntry
  (try dsimp only)
  (repeat' split) <;> first | simp | rfl

@[simp] theorem triggerAct_base (env : Env) (w : W) : (triggerAct env w).base = w.base := by
  unfold triggerAct
  dsimp only
  split <;> first | simp | (rw [foldl_base _ (fun w x => by simp)])

@[simp] theorem judgeHeld_base (env : Env) (r : Frame) (w : W) : (judgeHeld env r w).base = w.base := by
  unfold judgeHeld
  dsimp only
  rw [foldl_base _ (fun w x => by (try dsimp only); (repeat' split) <;> simp)]
  simp

@[simp] theorem sendNext_base (env : Env) (p : PlayerId) (w : W) : (sendNext env p w).base = w.base := by
  unfold sendNext
  (try dsimp only)
  (repeat' split) <;> first | simp | rfl

@[simp] theorem submit_base (env : Env) (p : PlayerId) (req : PReq) (w : W) : (submit env p req w).base = w.base := by
  unfold submit
  (try dsimp only)
  (repeat' split) <;> first | simp | rfl

@[simp] theorem makeRoom_base (p : PlayerId) (w : W) : (makeRoom p w).base = w.base := by
  unfold makeRoom
  (try dsimp only)
  (repeat' split) <;> first | simp | rfl

@[simp] theorem addSpent_base (i : Item) (due : Option (Frame × Frame)) (w : W) : (W.addSpent i due w).base = w.base := by
  unfold W.addSpent
  (try dsimp only)
  (repeat' split) <;> first | simp | rfl

@[simp] theorem modLanding_base (f : Item → Item) (w : W) : (W.modLanding f w).base = w.base := by
  unfold W.modLanding
  (try dsimp only)
  (repeat' split) <;> first | simp | rfl

@[simp] theorem uncueLanding_base (f : Item → Item) (w : W) : (W.uncueLanding f w).base = w.base := by
  unfold W.uncueLanding
  (try dsimp only)
  (repeat' split) <;> first | simp | rfl

@[simp] theorem itemAgain_base (again : Bool) (p : PlayerId) (avoid : Option PlayerId) (i : Item) (w : W) : (itemAgain again p avoid i w).base = w.base := by
  unfold itemAgain
  (try dsimp only)
  (repeat' split) <;> first | simp | rfl

@[simp] theorem itemReturned_base (p : PlayerId) (avoid : Option PlayerId) (i : Item) (w : W) : (itemReturned p avoid i w).base = w.base := by
  unfold itemReturned
  (try dsimp only)
  (repeat' split) <;> first | simp | rfl

@[simp] theorem clearCue_base (p : PlayerId) (st : PState) (w : W) : (clearCue p st w).base = w.base := by
  unfold clearCue
  (try dsimp only)
  (repeat' split) <;> first | simp | rfl

@[simp] theorem failQueuedCue_base (p : PlayerId) (w : W) : (failQueuedCue p w).base = w.base := by
  unfold failQueuedCue
  (try dsimp only)
  (repeat' split) <;> first | simp | rfl

@[simp] theorem issueStop_base (env : Env) (p : PlayerId) (frame : Frame) (w : W) : (issueStop env p frame w).base = w.base := by
  unfold issueStop
  (try dsimp only)
  (repeat' split) <;> first | simp | rfl

@[simp] theorem stopAtOnce_base (env : Env) (p : PlayerId) (frame : Frame) (w : W) : (stopAtOnce env p frame w).base = w.base := by
  unfold stopAtOnce
  (try dsimp only)
  (repeat' split) <;> first | simp | rfl

@[simp] theorem cancelCue_base (env : Env) (p : PlayerId) (w : W) : (cancelCue env p w).base = w.base := by
  unfold cancelCue
  (try dsimp only)
  (repeat' split) <;> first | simp | rfl

@[simp] theorem cancelItem_base (env : Env) (i : Item) (w : W) : (cancelItem env i w).base = w.base := by
  unfold cancelItem
  (try dsimp only)
  (repeat' split) <;> first | simp | rfl

@[simp] theorem leaveRecord_base (env : Env) (o : OnAir) (w : W) : (leaveRecord env o w).base = w.base := by
  unfold leaveRecord
  (try dsimp only)
  (repeat' split) <;> first | simp | rfl

@[simp] theorem leaveAir_base (env : Env) (w : W) : (leaveAir env w).base = w.base := by
  unfold leaveAir
  (try dsimp only)
  (repeat' split) <;> first | simp | rfl

@[simp] theorem playerEnd_base (env : Env) (p : PlayerId) (w : W) : (playerEnd env p w).base = w.base := by
  unfold playerEnd
  (try dsimp only)
  (repeat' split) <;> first | simp | rfl

@[simp] theorem stopFrame_base (env : Env) (p : PlayerId) (w : W) : (stopFrame env p w).base = w.base := by
  unfold stopFrame
  (try dsimp only)
  (repeat' split) <;> first | simp | rfl

@[simp] theorem playersLeave_base (env : Env) (w : W) : (playersLeave env w).base = w.base := by
  unfold playersLeave
  (try dsimp only)
  (repeat' split) <;> first | simp | rfl

@[simp] theorem returnItems_base (env : Env) (p : PlayerId) (i : Item) (w : W) : (returnItems env p i w).base = w.base := by
  unfold returnItems
  (try dsimp only)
  (repeat' split) <;> first | simp | rfl

@[simp] theorem enterFault_base (env : Env) (p : PlayerId) (cause : PlayerCause) (w : W) : (enterFault env p cause w).base = w.base := by
  unfold enterFault
  (try dsimp only)
  (repeat' split) <;> first | simp | rfl

@[simp] theorem replyTimeout_base (env : Env) (p : PlayerId) (w : W) : (replyTimeout env p w).base = w.base := by
  unfold replyTimeout
  (try dsimp only)
  (repeat' split) <;> first | simp | rfl

@[simp] theorem stall_base (env : Env) (p : PlayerId) (w : W) : (stall env p w).base = w.base := by
  unfold stall
  (try dsimp only)
  (repeat' split) <;> first | simp | rfl

@[simp] theorem probe_base (env : Env) (p : PlayerId) (w : W) : (probe env p w).base = w.base := by
  unfold probe
  (try dsimp only)
  (repeat' split) <;> first | simp | rfl

@[simp] theorem takePointer_base (env : Env) (w : W) : (takePointer env w).base = w.base := by
  unfold takePointer
  (try dsimp only)
  (repeat' split) <;> first | simp | rfl

@[simp] theorem loadCue_base (env : Env) (p : PlayerId) (i : Item) (handle : Nat) (roll : Frame) (w : W) : (loadCue env p i handle roll w).base = w.base := by
  unfold loadCue
  (try dsimp only)
  (repeat' split) <;> first | simp | rfl

@[simp] theorem loseWhole_base (env : Env) (i : Item) (w : W) : (loseWhole env i w).base = w.base := by
  unfold loseWhole
  (try dsimp only)
  (repeat' split) <;> first | simp | rfl

@[simp] theorem cueLanding_base (env : Env) (w : W) : (cueLanding env w).base = w.base := by
  unfold cueLanding
  (try dsimp only)
  (repeat' split) <;> first | simp | rfl

@[simp] theorem cuePreroll_base (env : Env) (p : PlayerId) (i : Item) (w : W) : (cuePreroll env p i w).base = w.base := by
  unfold cuePreroll
  (try dsimp only)
  (repeat' split) <;> first | simp | rfl

@[simp] theorem cueBreak_base (env : Env) (w : W) : (cueBreak env w).base = w.base := by
  unfold cueBreak
  (try dsimp only)
  (repeat' split) <;> first | simp | rfl

@[simp] theorem lateCue_base (env : Env) (w : W) : (lateCue env w).base = w.base := by
  unfold lateCue
  (try dsimp only)
  (repeat' split) <;> first | simp | rfl

theorem breakLost_base (edge : Frame) (w : W) : ∀ v, breakLost edge w = some v → v.base = w.base := by
  intro v h
  unfold breakLost at h
  (repeat' split at h) <;> simp at h <;> (try subst h) <;> simp

theorem landingLost_base (env : Env) (edge : Frame) (w : W) : ∀ v, landingLost env edge w = some v → v.base = w.base := by
  intro v h
  unfold landingLost at h
  (repeat' split at h) <;> simp at h <;> (try subst h) <;> simp

theorem pointerLost_base (env : Env) (edge : Frame) (w : W) : ∀ v, pointerLost env edge w = some v → v.base = w.base := by
  intro v h
  unfold pointerLost at h
  (repeat' split at h) <;> simp at h <;> (try subst h) <;> simp

theorem itemLostOnce_base (env : Env) (w : W) : ∀ v, itemLostOnce env w = some v → v.base = w.base := by
  intro v h
  unfold itemLostOnce at h
  dsimp only at h
  split at h
  · rename_i h'; cases h; exact breakLost_base _ w v h'
  · split at h
    · rename_i h'; cases h; exact landingLost_base env _ w v h'
    · exact pointerLost_base env _ w v h

@[simp] theorem loseItems_base (env : Env) (n : Nat) (w : W) : (loseItems env n w).base = w.base := by
  induction n generalizing w with
  | zero => rfl
  | succ n ih =>
    unfold loseItems
    split
    · rename_i v h; rw [ih, itemLostOnce_base env w v h]
    · rfl

@[simp] theorem cueWindow_base (env : Env) (w : W) : (cueWindow env w).base = w.base := by
  unfold cueWindow
  (try dsimp only)
  (repeat' split) <;> first | simp | rfl

@[simp] theorem startRecords_base (env : Env) (i : Item) (w : W) : (startRecords env i w).base = w.base := by
  unfold startRecords
  (try dsimp only)
  (repeat' split) <;> first | simp | rfl

@[simp] theorem setAnchorFrom_base (env : Env) (i : Item) (w : W) : (setAnchorFrom env i w).base = w.base := by
  unfold setAnchorFrom
  (try dsimp only)
  (repeat' split) <;> first | simp | rfl

@[simp] theorem putOnAir_base (env : Env) (i : Item) (w : W) : (putOnAir env i w).base = w.base := by
  unfold putOnAir
  (try dsimp only)
  (repeat' split) <;> first | simp | rfl

@[simp] theorem putWait_base (env : Env) (i : Option Item) (w : W) : (putWait env i w).base = w.base := by
  unfold putWait
  (try dsimp only)
  (repeat' split) <;> first | simp | rfl

@[simp] theorem playerRoll_base (env : Env) (p : PlayerId) (w : W) : (playerRoll env p w).base = w.base := by
  unfold playerRoll
  (try dsimp only)
  (repeat' split) <;> first | simp | rfl

@[simp] theorem nextBreak_base (env : Env) (w : W) : (nextBreak env w).base = w.base := by
  unfold nextBreak
  (try dsimp only)
  (repeat' split) <;> first | simp | rfl

@[simp] theorem nextItem_base (env : Env) (w : W) : (nextItem env w).base = w.base := by
  unfold nextItem
  (try dsimp only)
  (repeat' split) <;> first | simp | rfl

@[simp] theorem landingOver_base (env : Env) (w : W) : (landingOver env w).base = w.base := by
  unfold landingOver
  (try dsimp only)
  (repeat' split) <;> first | simp | rfl

theorem landPlaying_base (env : Env) (w : W) : ∀ v, landPlaying env w = some v → v.base = w.base := by
  intro v h
  unfold landPlaying at h
  (repeat' split at h) <;> simp at h <;> (try subst h) <;> simp

@[simp] theorem landNow_base (env : Env) (l : Landing) (w : W) : (landNow env l w).base = w.base := by
  unfold landNow
  split
  · rename_i v h; exact landPlaying_base env w v h
  · (repeat' split) <;> first | simp | rfl

@[simp] theorem nextOnAir_base (env : Env) (w : W) : (nextOnAir env w).base = w.base := by
  unfold nextOnAir
  (try dsimp only)
  (repeat' split) <;> first | simp | rfl

@[simp] theorem othersLeave_base (env : Env) (w : W) : (othersLeave env w).base = w.base := by
  unfold othersLeave
  (try dsimp only)
  (repeat' split) <;> first | simp | rfl

@[simp] theorem droppedRecords_base (env : Env) (w : W) : (droppedRecords env w).base = w.base := by
  unfold droppedRecords
  split
  · rw [foldl_base _ (fun w x => by simp)]
  · rfl

@[simp] theorem spentRecords_base (env : Env) (w : W) : (spentRecords env w).base = w.base := by
  unfold spentRecords
  dsimp only
  simp only [modSeq_base]
  rw [foldl_base _ (fun w x => by split <;> simp)]

@[simp] theorem syncWait_base (w : W) : (syncWait w).base = w.base := by
  unfold syncWait
  (try dsimp only)
  (repeat' split) <;> first | simp | rfl

@[simp] theorem syncPasses_base (w : W) : (syncPasses w).base = w.base := by
  unfold syncPasses
  (try dsimp only)
  (repeat' split) <;> first | simp | rfl

@[simp] theorem syncLife_base (w : W) : (syncLife w).base = w.base := by
  unfold syncLife
  (try dsimp only)
  (repeat' split) <;> first | simp | rfl

@[simp] theorem joinOnAir_base (env : Env) (why : JoinFor) (carrier : Option PlayerId) (target : Frame) (w : W) : (joinOnAir env why carrier target w).base = w.base := by
  unfold joinOnAir
  (try dsimp only)
  (repeat' split) <;> first | simp | rfl

@[simp] theorem joinBreak_base (env : Env) (target : Frame) (w : W) : (joinBreak env target w).base = w.base := by
  unfold joinBreak
  (try dsimp only)
  (repeat' split) <;> first | simp | rfl

@[simp] theorem joinOldLanding_base (env : Env) (carrier : Option PlayerId) (w : W) : (joinOldLanding env carrier w).base = w.base := by
  unfold joinOldLanding
  (try dsimp only)
  (repeat' split) <;> first | simp | rfl

@[simp] theorem joinCued_base (env : Env) (carrier : Option PlayerId) (land : Item) (after : Frame) (w : W) : (joinCued env carrier land after w).base = w.base := by
  unfold joinCued
  (try dsimp only)
  (repeat' split) <;> first | simp | rfl

@[simp] theorem carryLanding_base (carrier : Option PlayerId) (land : Item) (w : W) : (carryLanding carrier land w).base = w.base := by
  unfold carryLanding
  split <;> first | simp | rfl

@[simp] theorem handJoin_base (env : Env) (why : JoinFor) (target : Frame) (w : W) : (handJoin env why target w).base = w.base := by
  unfold handJoin
  (try dsimp only)
  (repeat' split) <;> first | simp | rfl

@[simp] theorem cutPlayer_base (env : Env) (p : PlayerId) (stop : Frame) (w : W) : (cutPlayer env p stop w).base = w.base := by
  unfold cutPlayer
  (try dsimp only)
  (repeat' split) <;> first | simp | rfl

@[simp] theorem reactOnAir_base (env : Env) (w : W) : (reactOnAir env w).base = w.base := by
  unfold reactOnAir
  (try dsimp only)
  (repeat' split) <;> first | simp | rfl

@[simp] theorem reactCued_base (env : Env) (w : W) : (reactCued env w).base = w.base := by
  unfold reactCued
  (try dsimp only)
  (repeat' split) <;> first | simp | rfl

@[simp] theorem keepLanding_base (env : Env) (l : Landing) (fresh : Item) (q q' : Int) (w : W) : (keepLanding env l fresh q q' w).base = w.base := by
  unfold keepLanding
  (try dsimp only)
  (repeat' split) <;> first | simp | rfl

@[simp] theorem reactLanding_base (env : Env) (w : W) : (reactLanding env w).base = w.base := by
  unfold reactLanding
  (try dsimp only)
  (repeat' split) <;> first | simp | rfl

@[simp] theorem abandonSweep_base (w : W) : (abandonSweep w).base = w.base := by
  unfold abandonSweep
  (try dsimp only)
  (repeat' split) <;> first | simp | rfl

@[simp] theorem resolveStore_base (env : Env) (w : W) : (resolveStore env w).base = w.base := by
  unfold resolveStore
  (try dsimp only)
  (repeat' split) <;> first | simp | rfl

@[simp] theorem settleOnce_base (env : Env) (w : W) : (settleOnce env w).base = w.base := by
  unfold settleOnce
  (try dsimp only)
  (repeat' split) <;> first | simp | rfl

@[simp] theorem settleLoop_base (env : Env) (n : Nat) (w : W) : (settleLoop env n w).base = w.base := by
  induction n generalizing w with
  | zero => rfl
  | succ n ih =>
    unfold settleLoop
    dsimp only
    split
    · simp
    · rw [ih]; simp

@[simp] theorem settle_base (env : Env) (w : W) : (settle env w).base = w.base := by
  unfold settle
  (try dsimp only)
  (repeat' split) <;> first | simp | rfl

@[simp] theorem joinSettled_base (env : Env) (why : JoinFor) (target : Frame) (w : W) : (joinSettled env why target w).base = w.base := by
  unfold joinSettled
  (try dsimp only)
  (repeat' split) <;> first | simp | rfl

@[simp] theorem sweepQuery_base (env : Env) (w : W) : (sweepQuery env w).base = w.base := by
  unfold sweepQuery
  (try dsimp only)
  (repeat' split) <;> first | simp | rfl

@[simp] theorem itemLost_base (env : Env) (w : W) : (itemLost env w).base = w.base := by
  unfold itemLost
  (try dsimp only)
  (repeat' split) <;> first | simp | rfl

@[simp] theorem cueAll_base (env : Env) (n : Nat) (w : W) : (cueAll env n w).base = w.base := by
  induction n generalizing w with
  | zero => rfl
  | succ n ih =>
    unfold cueAll
    dsimp only
    split
    · simp
    · rw [ih]; simp

@[simp] theorem pump_base (env : Env) (w : W) : (pump env w).base = w.base := by
  unfold pump
  (try dsimp only)
  (repeat' split) <;> first | simp | rfl

@[simp] theorem settled_base (env : Env) (w : W) : (settled env w).base = w.base := by
  unfold settled
  (try dsimp only)
  (repeat' split) <;> first | simp | rfl

@[simp] theorem shadowStart_base (env : Env) (w : W) : (shadowStart env w).base = w.base := by
  unfold shadowStart
  (try dsimp only)
  (repeat' split) <;> first | simp | rfl

@[simp] theorem realignCompare_base (env : Env) (w : W) : (realignCompare env w).base = w.base := by
  unfold realignCompare
  (try dsimp only)
  (repeat' split) <;> first | simp | rfl

@[simp] theorem shadowRejoin_base (env : Env) (w : W) : (shadowRejoin env w).base = w.base := by
  unfold shadowRejoin
  (try dsimp only)
  (repeat' split) <;> first | simp | rfl

@[simp] theorem stopHolder_base (env : Env) (frame : Frame) (p : PlayerId) (w : W) : (stopHolder env frame p w).base = w.base := by
  unfold stopHolder
  (try dsimp only)
  (repeat' split) <;> first | simp | rfl

@[simp] theorem endContext_base (w : W) : (endContext w).base = w.base := by
  unfold endContext
  (try dsimp only)
  (repeat' split) <;> first | simp | rfl

@[simp] theorem shadowEnd_base (env : Env) (w : W) : (shadowEnd env w).base = w.base := by
  unfold shadowEnd
  (try dsimp only)
  (repeat' split) <;> first | simp | rfl

end Sys2Proof.Machine
end

