-- ==== Sys2Proof/Laws/Kept.lean ====
section
/-! SUPPORT. What each block of a channel leaves alone: the mirror record, the Feed Monitor, the intake with the output but
for its window and cues, and the Channel Controller's state but for the handed landing. -/

namespace Sys2Proof.Machine

open Sys2Proof

set_option linter.all false

/-- The intake, and the output but for its window and cues. -/
def W.rest (w : W) := (w.ch.intake, w.ch.out.counter, w.ch.out.held, w.ch.out.holdRun, w.ch.out.last, w.ch.out.lastIdent,
  w.ch.out.lastCues)

theorem base_parts {w v : W} (h : w.base = v.base) :
    w.ch.mirror = v.ch.mirror ∧ w.ch.mon = v.ch.mon ∧ w.rest = v.rest ∧ w.rule = v.rule := by
  have h1 := W.base_still h
  have h2 := W.base_rule h
  simp only [W.still, Prod.mk.injEq] at h1
  simp [W.rest, h1, h2]

theorem foldl_keeps {α β : Type} (π : W → β) (f : W → α → W) (hf : ∀ w x, π (f w x) = π w) (l : List α) (w : W) :
    π (l.foldl f w) = π w := by
  induction l generalizing w with
  | nil => rfl
  | cons x l ih => rw [List.foldl_cons, ih, hf]

@[simp] theorem modStore_rest (w : W) (f : Store → Store) : (w.modStore f).rest = w.rest := rfl
@[simp] theorem modStore_rule (w : W) (f : Store → Store) : (w.modStore f).rule = w.rule := rfl
@[simp] theorem modSeq_rest (w : W) (f : Seq → Seq) : (w.modSeq f).rest = w.rest := rfl
@[simp] theorem modSeq_rule (w : W) (f : Seq → Seq) : (w.modSeq f).rule = w.rule := rfl
@[simp] theorem modTrig_rest (w : W) (f : Triggers → Triggers) : (w.modTrig f).rest = w.rest := rfl
@[simp] theorem modTrig_rule (w : W) (f : Triggers → Triggers) : (w.modTrig f).rule = w.rule := rfl
@[simp] theorem modPlayer_rest (w : W) (p : PlayerId) (f : Player → Player) : (w.modPlayer p f).rest = w.rest := rfl
@[simp] theorem emit_rest (w : W) (e : Effect) : (w.emit e).rest = w.rest := rfl
@[simp] theorem noticeW_rest (w : W) (env : Env) (f : CtlFlow) (n : Notice) : (w.notice env f n).rest = w.rest := rfl
@[simp] theorem modMon_rest (w : W) (f : Monitor → Monitor) : (w.modMon f).rest = w.rest := rfl
@[simp] theorem modMirror_rest (w : W) (f : Mirror → Mirror) : (W.modMirror f w).rest = w.rest := rfl
@[simp] theorem modPlayer_rule (w : W) (p : PlayerId) (f : Player → Player) : (w.modPlayer p f).rule = w.rule := rfl
@[simp] theorem emit_rule (w : W) (e : Effect) : (w.emit e).rule = w.rule := rfl
@[simp] theorem noticeW_rule (w : W) (env : Env) (f : CtlFlow) (n : Notice) : (w.notice env f n).rule = w.rule := rfl
@[simp] theorem modMon_rule (w : W) (f : Monitor → Monitor) : (w.modMon f).rule = w.rule := rfl
@[simp] theorem modMirror_rule (w : W) (f : Mirror → Mirror) : (W.modMirror f w).rule = w.rule := rfl
@[simp] theorem modCtl_rest (w : W) (f : Ctl → Ctl) : (w.modCtl f).rest = w.rest := rfl
@[simp] theorem modHanded_rule (w : W) (h : Option Handed) : (w.modCtl fun c => { c with handed := h }).rule = w.rule := rfl

/-! ## The Sequencer, the players and the Trigger Unit -/

@[simp] theorem record_mirror (env : Env) (kind : AsRunKind) (event pass : Nat) (offset : Int) (source : AsRunSource) (detail : Detail) (trigger : Option Nat) (w : W) : (W.record env kind event pass offset source detail trigger w).ch.mirror = w.ch.mirror := (base_parts (record_base _ _ _ _ _ _ _ _ _)).1
@[simp] theorem record_mon (env : Env) (kind : AsRunKind) (event pass : Nat) (offset : Int) (source : AsRunSource) (detail : Detail) (trigger : Option Nat) (w : W) : (W.record env kind event pass offset source detail trigger w).ch.mon = w.ch.mon := (base_parts (record_base _ _ _ _ _ _ _ _ _)).2.1
@[simp] theorem record_rest (env : Env) (kind : AsRunKind) (event pass : Nat) (offset : Int) (source : AsRunSource) (detail : Detail) (trigger : Option Nat) (w : W) : (W.record env kind event pass offset source detail trigger w).rest = w.rest := (base_parts (record_base _ _ _ _ _ _ _ _ _)).2.2.1
@[simp] theorem record_rule (env : Env) (kind : AsRunKind) (event pass : Nat) (offset : Int) (source : AsRunSource) (detail : Detail) (trigger : Option Nat) (w : W) : (W.record env kind event pass offset source detail trigger w).rule = w.rule := (base_parts (record_base _ _ _ _ _ _ _ _ _)).2.2.2

@[simp] theorem modeNotice_mirror (env : Env) (before after : Mode) (cause : ModeCause) (landing : Option Handed) (w : W) : (W.modeNotice env before after cause landing w).ch.mirror = w.ch.mirror := (base_parts (modeNotice_base _ _ _ _ _ _)).1
@[simp] theorem modeNotice_mon (env : Env) (before after : Mode) (cause : ModeCause) (landing : Option Handed) (w : W) : (W.modeNotice env before after cause landing w).ch.mon = w.ch.mon := (base_parts (modeNotice_base _ _ _ _ _ _)).2.1
@[simp] theorem modeNotice_rest (env : Env) (before after : Mode) (cause : ModeCause) (landing : Option Handed) (w : W) : (W.modeNotice env before after cause landing w).rest = w.rest := (base_parts (modeNotice_base _ _ _ _ _ _)).2.2.1
@[simp] theorem modeNotice_rule (env : Env) (before after : Mode) (cause : ModeCause) (landing : Option Handed) (w : W) : (W.modeNotice env before after cause landing w).rule = w.rule := (base_parts (modeNotice_base _ _ _ _ _ _)).2.2.2

@[simp] theorem dropPending_mirror (leaves : PendTrig → Bool) (w : W) : (W.dropPending leaves w).ch.mirror = w.ch.mirror := (base_parts (dropPending_base _ _)).1
@[simp] theorem dropPending_mon (leaves : PendTrig → Bool) (w : W) : (W.dropPending leaves w).ch.mon = w.ch.mon := (base_parts (dropPending_base _ _)).2.1
@[simp] theorem dropPending_rest (leaves : PendTrig → Bool) (w : W) : (W.dropPending leaves w).rest = w.rest := (base_parts (dropPending_base _ _)).2.2.1
@[simp] theorem dropPending_rule (leaves : PendTrig → Bool) (w : W) : (W.dropPending leaves w).rule = w.rule := (base_parts (dropPending_base _ _)).2.2.2

@[simp] theorem dropOwner_mirror (i : Item) (w : W) : (W.dropOwner i w).ch.mirror = w.ch.mirror := (base_parts (dropOwner_base _ _)).1
@[simp] theorem dropOwner_mon (i : Item) (w : W) : (W.dropOwner i w).ch.mon = w.ch.mon := (base_parts (dropOwner_base _ _)).2.1
@[simp] theorem dropOwner_rest (i : Item) (w : W) : (W.dropOwner i w).rest = w.rest := (base_parts (dropOwner_base _ _)).2.2.1
@[simp] theorem dropOwner_rule (i : Item) (w : W) : (W.dropOwner i w).rule = w.rule := (base_parts (dropOwner_base _ _)).2.2.2

@[simp] theorem rejudge_mirror (env : Env) (w : W) : (rejudge env w).ch.mirror = w.ch.mirror := (base_parts (rejudge_base _ _)).1
@[simp] theorem rejudge_mon (env : Env) (w : W) : (rejudge env w).ch.mon = w.ch.mon := (base_parts (rejudge_base _ _)).2.1
@[simp] theorem rejudge_rest (env : Env) (w : W) : (rejudge env w).rest = w.rest := (base_parts (rejudge_base _ _)).2.2.1
@[simp] theorem rejudge_rule (env : Env) (w : W) : (rejudge env w).rule = w.rule := (base_parts (rejudge_base _ _)).2.2.2

@[simp] theorem modWindow_mirror (f : Window → Window) (w : W) : (W.modWindow f w).ch.mirror = w.ch.mirror := (base_parts (modWindow_base _ _)).1
@[simp] theorem modWindow_mon (f : Window → Window) (w : W) : (W.modWindow f w).ch.mon = w.ch.mon := (base_parts (modWindow_base _ _)).2.1
@[simp] theorem modWindow_rest (f : Window → Window) (w : W) : (W.modWindow f w).rest = w.rest := (base_parts (modWindow_base _ _)).2.2.1
@[simp] theorem modWindow_rule (f : Window → Window) (w : W) : (W.modWindow f w).rule = w.rule := (base_parts (modWindow_base _ _)).2.2.2

@[simp] theorem triggerAct_mirror (env : Env) (w : W) : (triggerAct env w).ch.mirror = w.ch.mirror := (base_parts (triggerAct_base _ _)).1
@[simp] theorem triggerAct_mon (env : Env) (w : W) : (triggerAct env w).ch.mon = w.ch.mon := (base_parts (triggerAct_base _ _)).2.1
@[simp] theorem triggerAct_rest (env : Env) (w : W) : (triggerAct env w).rest = w.rest := (base_parts (triggerAct_base _ _)).2.2.1
@[simp] theorem triggerAct_rule (env : Env) (w : W) : (triggerAct env w).rule = w.rule := (base_parts (triggerAct_base _ _)).2.2.2

@[simp] theorem judgeHeld_mirror (env : Env) (r : Frame) (w : W) : (judgeHeld env r w).ch.mirror = w.ch.mirror := (base_parts (judgeHeld_base _ _ _)).1
@[simp] theorem judgeHeld_mon (env : Env) (r : Frame) (w : W) : (judgeHeld env r w).ch.mon = w.ch.mon := (base_parts (judgeHeld_base _ _ _)).2.1
@[simp] theorem judgeHeld_rest (env : Env) (r : Frame) (w : W) : (judgeHeld env r w).rest = w.rest := (base_parts (judgeHeld_base _ _ _)).2.2.1
@[simp] theorem judgeHeld_rule (env : Env) (r : Frame) (w : W) : (judgeHeld env r w).rule = w.rule := (base_parts (judgeHeld_base _ _ _)).2.2.2

@[simp] theorem sendNext_mirror (env : Env) (p : PlayerId) (w : W) : (sendNext env p w).ch.mirror = w.ch.mirror := (base_parts (sendNext_base _ _ _)).1
@[simp] theorem sendNext_mon (env : Env) (p : PlayerId) (w : W) : (sendNext env p w).ch.mon = w.ch.mon := (base_parts (sendNext_base _ _ _)).2.1
@[simp] theorem sendNext_rest (env : Env) (p : PlayerId) (w : W) : (sendNext env p w).rest = w.rest := (base_parts (sendNext_base _ _ _)).2.2.1
@[simp] theorem sendNext_rule (env : Env) (p : PlayerId) (w : W) : (sendNext env p w).rule = w.rule := (base_parts (sendNext_base _ _ _)).2.2.2

@[simp] theorem modLanding_mirror (f : Item → Item) (w : W) : (W.modLanding f w).ch.mirror = w.ch.mirror := (base_parts (modLanding_base _ _)).1
@[simp] theorem modLanding_mon (f : Item → Item) (w : W) : (W.modLanding f w).ch.mon = w.ch.mon := (base_parts (modLanding_base _ _)).2.1
@[simp] theorem modLanding_rest (f : Item → Item) (w : W) : (W.modLanding f w).rest = w.rest := (base_parts (modLanding_base _ _)).2.2.1
@[simp] theorem modLanding_rule (f : Item → Item) (w : W) : (W.modLanding f w).rule = w.rule := (base_parts (modLanding_base _ _)).2.2.2

@[simp] theorem uncueLanding_mirror (f : Item → Item) (w : W) : (W.uncueLanding f w).ch.mirror = w.ch.mirror := (base_parts (uncueLanding_base _ _)).1
@[simp] theorem uncueLanding_mon (f : Item → Item) (w : W) : (W.uncueLanding f w).ch.mon = w.ch.mon := (base_parts (uncueLanding_base _ _)).2.1
@[simp] theorem uncueLanding_rest (f : Item → Item) (w : W) : (W.uncueLanding f w).rest = w.rest := (base_parts (uncueLanding_base _ _)).2.2.1
@[simp] theorem uncueLanding_rule (f : Item → Item) (w : W) : (W.uncueLanding f w).rule = w.rule := (base_parts (uncueLanding_base _ _)).2.2.2

@[simp] theorem itemAgain_mirror (again : Bool) (p : PlayerId) (avoid : Option PlayerId) (i : Item) (w : W) : (itemAgain again p avoid i w).ch.mirror = w.ch.mirror := (base_parts (itemAgain_base _ _ _ _ _)).1
@[simp] theorem itemAgain_mon (again : Bool) (p : PlayerId) (avoid : Option PlayerId) (i : Item) (w : W) : (itemAgain again p avoid i w).ch.mon = w.ch.mon := (base_parts (itemAgain_base _ _ _ _ _)).2.1
@[simp] theorem itemAgain_rest (again : Bool) (p : PlayerId) (avoid : Option PlayerId) (i : Item) (w : W) : (itemAgain again p avoid i w).rest = w.rest := (base_parts (itemAgain_base _ _ _ _ _)).2.2.1
@[simp] theorem itemAgain_rule (again : Bool) (p : PlayerId) (avoid : Option PlayerId) (i : Item) (w : W) : (itemAgain again p avoid i w).rule = w.rule := (base_parts (itemAgain_base _ _ _ _ _)).2.2.2

@[simp] theorem itemReturned_mirror (p : PlayerId) (avoid : Option PlayerId) (i : Item) (w : W) : (itemReturned p avoid i w).ch.mirror = w.ch.mirror := (base_parts (itemReturned_base _ _ _ _)).1
@[simp] theorem itemReturned_mon (p : PlayerId) (avoid : Option PlayerId) (i : Item) (w : W) : (itemReturned p avoid i w).ch.mon = w.ch.mon := (base_parts (itemReturned_base _ _ _ _)).2.1
@[simp] theorem itemReturned_rest (p : PlayerId) (avoid : Option PlayerId) (i : Item) (w : W) : (itemReturned p avoid i w).rest = w.rest := (base_parts (itemReturned_base _ _ _ _)).2.2.1
@[simp] theorem itemReturned_rule (p : PlayerId) (avoid : Option PlayerId) (i : Item) (w : W) : (itemReturned p avoid i w).rule = w.rule := (base_parts (itemReturned_base _ _ _ _)).2.2.2

@[simp] theorem clearCue_mirror (p : PlayerId) (st : PState) (w : W) : (clearCue p st w).ch.mirror = w.ch.mirror := (base_parts (clearCue_base _ _ _)).1
@[simp] theorem clearCue_mon (p : PlayerId) (st : PState) (w : W) : (clearCue p st w).ch.mon = w.ch.mon := (base_parts (clearCue_base _ _ _)).2.1
@[simp] theorem clearCue_rest (p : PlayerId) (st : PState) (w : W) : (clearCue p st w).rest = w.rest := (base_parts (clearCue_base _ _ _)).2.2.1
@[simp] theorem clearCue_rule (p : PlayerId) (st : PState) (w : W) : (clearCue p st w).rule = w.rule := (base_parts (clearCue_base _ _ _)).2.2.2

@[simp] theorem issueStop_mirror (env : Env) (p : PlayerId) (frame : Frame) (w : W) : (issueStop env p frame w).ch.mirror = w.ch.mirror := (base_parts (issueStop_base _ _ _ _)).1
@[simp] theorem issueStop_mon (env : Env) (p : PlayerId) (frame : Frame) (w : W) : (issueStop env p frame w).ch.mon = w.ch.mon := (base_parts (issueStop_base _ _ _ _)).2.1
@[simp] theorem issueStop_rest (env : Env) (p : PlayerId) (frame : Frame) (w : W) : (issueStop env p frame w).rest = w.rest := (base_parts (issueStop_base _ _ _ _)).2.2.1
@[simp] theorem issueStop_rule (env : Env) (p : PlayerId) (frame : Frame) (w : W) : (issueStop env p frame w).rule = w.rule := (base_parts (issueStop_base _ _ _ _)).2.2.2

@[simp] theorem stopAtOnce_mirror (env : Env) (p : PlayerId) (frame : Frame) (w : W) : (stopAtOnce env p frame w).ch.mirror = w.ch.mirror := (base_parts (stopAtOnce_base _ _ _ _)).1
@[simp] theorem stopAtOnce_mon (env : Env) (p : PlayerId) (frame : Frame) (w : W) : (stopAtOnce env p frame w).ch.mon = w.ch.mon := (base_parts (stopAtOnce_base _ _ _ _)).2.1
@[simp] theorem stopAtOnce_rest (env : Env) (p : PlayerId) (frame : Frame) (w : W) : (stopAtOnce env p frame w).rest = w.rest := (base_parts (stopAtOnce_base _ _ _ _)).2.2.1
@[simp] theorem stopAtOnce_rule (env : Env) (p : PlayerId) (frame : Frame) (w : W) : (stopAtOnce env p frame w).rule = w.rule := (base_parts (stopAtOnce_base _ _ _ _)).2.2.2

@[simp] theorem cancelCue_mirror (env : Env) (p : PlayerId) (w : W) : (cancelCue env p w).ch.mirror = w.ch.mirror := (base_parts (cancelCue_base _ _ _)).1
@[simp] theorem cancelCue_mon (env : Env) (p : PlayerId) (w : W) : (cancelCue env p w).ch.mon = w.ch.mon := (base_parts (cancelCue_base _ _ _)).2.1
@[simp] theorem cancelCue_rest (env : Env) (p : PlayerId) (w : W) : (cancelCue env p w).rest = w.rest := (base_parts (cancelCue_base _ _ _)).2.2.1
@[simp] theorem cancelCue_rule (env : Env) (p : PlayerId) (w : W) : (cancelCue env p w).rule = w.rule := (base_parts (cancelCue_base _ _ _)).2.2.2

@[simp] theorem cancelItem_mirror (env : Env) (i : Item) (w : W) : (cancelItem env i w).ch.mirror = w.ch.mirror := (base_parts (cancelItem_base _ _ _)).1
@[simp] theorem cancelItem_mon (env : Env) (i : Item) (w : W) : (cancelItem env i w).ch.mon = w.ch.mon := (base_parts (cancelItem_base _ _ _)).2.1
@[simp] theorem cancelItem_rest (env : Env) (i : Item) (w : W) : (cancelItem env i w).rest = w.rest := (base_parts (cancelItem_base _ _ _)).2.2.1
@[simp] theorem cancelItem_rule (env : Env) (i : Item) (w : W) : (cancelItem env i w).rule = w.rule := (base_parts (cancelItem_base _ _ _)).2.2.2

@[simp] theorem leaveAir_mirror (env : Env) (w : W) : (leaveAir env w).ch.mirror = w.ch.mirror := (base_parts (leaveAir_base _ _)).1
@[simp] theorem leaveAir_mon (env : Env) (w : W) : (leaveAir env w).ch.mon = w.ch.mon := (base_parts (leaveAir_base _ _)).2.1
@[simp] theorem leaveAir_rest (env : Env) (w : W) : (leaveAir env w).rest = w.rest := (base_parts (leaveAir_base _ _)).2.2.1
@[simp] theorem leaveAir_rule (env : Env) (w : W) : (leaveAir env w).rule = w.rule := (base_parts (leaveAir_base _ _)).2.2.2

@[simp] theorem playersLeave_mirror (env : Env) (w : W) : (playersLeave env w).ch.mirror = w.ch.mirror := (base_parts (playersLeave_base _ _)).1
@[simp] theorem playersLeave_mon (env : Env) (w : W) : (playersLeave env w).ch.mon = w.ch.mon := (base_parts (playersLeave_base _ _)).2.1
@[simp] theorem playersLeave_rest (env : Env) (w : W) : (playersLeave env w).rest = w.rest := (base_parts (playersLeave_base _ _)).2.2.1
@[simp] theorem playersLeave_rule (env : Env) (w : W) : (playersLeave env w).rule = w.rule := (base_parts (playersLeave_base _ _)).2.2.2

@[simp] theorem replyTimeout_mirror (env : Env) (p : PlayerId) (w : W) : (replyTimeout env p w).ch.mirror = w.ch.mirror := (base_parts (replyTimeout_base _ _ _)).1
@[simp] theorem replyTimeout_mon (env : Env) (p : PlayerId) (w : W) : (replyTimeout env p w).ch.mon = w.ch.mon := (base_parts (replyTimeout_base _ _ _)).2.1
@[simp] theorem replyTimeout_rest (env : Env) (p : PlayerId) (w : W) : (replyTimeout env p w).rest = w.rest := (base_parts (replyTimeout_base _ _ _)).2.2.1
@[simp] theorem replyTimeout_rule (env : Env) (p : PlayerId) (w : W) : (replyTimeout env p w).rule = w.rule := (base_parts (replyTimeout_base _ _ _)).2.2.2

@[simp] theorem stall_mirror (env : Env) (p : PlayerId) (w : W) : (stall env p w).ch.mirror = w.ch.mirror := (base_parts (stall_base _ _ _)).1
@[simp] theorem stall_mon (env : Env) (p : PlayerId) (w : W) : (stall env p w).ch.mon = w.ch.mon := (base_parts (stall_base _ _ _)).2.1
@[simp] theorem stall_rest (env : Env) (p : PlayerId) (w : W) : (stall env p w).rest = w.rest := (base_parts (stall_base _ _ _)).2.2.1
@[simp] theorem stall_rule (env : Env) (p : PlayerId) (w : W) : (stall env p w).rule = w.rule := (base_parts (stall_base _ _ _)).2.2.2

@[simp] theorem probe_mirror (env : Env) (p : PlayerId) (w : W) : (probe env p w).ch.mirror = w.ch.mirror := (base_parts (probe_base _ _ _)).1
@[simp] theorem probe_mon (env : Env) (p : PlayerId) (w : W) : (probe env p w).ch.mon = w.ch.mon := (base_parts (probe_base _ _ _)).2.1
@[simp] theorem probe_rest (env : Env) (p : PlayerId) (w : W) : (probe env p w).rest = w.rest := (base_parts (probe_base _ _ _)).2.2.1
@[simp] theorem probe_rule (env : Env) (p : PlayerId) (w : W) : (probe env p w).rule = w.rule := (base_parts (probe_base _ _ _)).2.2.2

@[simp] theorem takePointer_mirror (env : Env) (w : W) : (takePointer env w).ch.mirror = w.ch.mirror := (base_parts (takePointer_base _ _)).1
@[simp] theorem takePointer_mon (env : Env) (w : W) : (takePointer env w).ch.mon = w.ch.mon := (base_parts (takePointer_base _ _)).2.1
@[simp] theorem takePointer_rest (env : Env) (w : W) : (takePointer env w).rest = w.rest := (base_parts (takePointer_base _ _)).2.2.1
@[simp] theorem takePointer_rule (env : Env) (w : W) : (takePointer env w).rule = w.rule := (base_parts (takePointer_base _ _)).2.2.2

@[simp] theorem loadCue_mirror (env : Env) (p : PlayerId) (i : Item) (handle : Nat) (roll : Frame) (w : W) : (loadCue env p i handle roll w).ch.mirror = w.ch.mirror := (base_parts (loadCue_base _ _ _ _ _ _)).1
@[simp] theorem loadCue_mon (env : Env) (p : PlayerId) (i : Item) (handle : Nat) (roll : Frame) (w : W) : (loadCue env p i handle roll w).ch.mon = w.ch.mon := (base_parts (loadCue_base _ _ _ _ _ _)).2.1
@[simp] theorem loadCue_rest (env : Env) (p : PlayerId) (i : Item) (handle : Nat) (roll : Frame) (w : W) : (loadCue env p i handle roll w).rest = w.rest := (base_parts (loadCue_base _ _ _ _ _ _)).2.2.1
@[simp] theorem loadCue_rule (env : Env) (p : PlayerId) (i : Item) (handle : Nat) (roll : Frame) (w : W) : (loadCue env p i handle roll w).rule = w.rule := (base_parts (loadCue_base _ _ _ _ _ _)).2.2.2

@[simp] theorem putOnAir_mirror (env : Env) (i : Item) (w : W) : (putOnAir env i w).ch.mirror = w.ch.mirror := (base_parts (putOnAir_base _ _ _)).1
@[simp] theorem putOnAir_mon (env : Env) (i : Item) (w : W) : (putOnAir env i w).ch.mon = w.ch.mon := (base_parts (putOnAir_base _ _ _)).2.1
@[simp] theorem putOnAir_rest (env : Env) (i : Item) (w : W) : (putOnAir env i w).rest = w.rest := (base_parts (putOnAir_base _ _ _)).2.2.1
@[simp] theorem putOnAir_rule (env : Env) (i : Item) (w : W) : (putOnAir env i w).rule = w.rule := (base_parts (putOnAir_base _ _ _)).2.2.2

@[simp] theorem playerRoll_mirror (env : Env) (p : PlayerId) (w : W) : (playerRoll env p w).ch.mirror = w.ch.mirror := (base_parts (playerRoll_base _ _ _)).1
@[simp] theorem playerRoll_mon (env : Env) (p : PlayerId) (w : W) : (playerRoll env p w).ch.mon = w.ch.mon := (base_parts (playerRoll_base _ _ _)).2.1
@[simp] theorem playerRoll_rest (env : Env) (p : PlayerId) (w : W) : (playerRoll env p w).rest = w.rest := (base_parts (playerRoll_base _ _ _)).2.2.1
@[simp] theorem playerRoll_rule (env : Env) (p : PlayerId) (w : W) : (playerRoll env p w).rule = w.rule := (base_parts (playerRoll_base _ _ _)).2.2.2

@[simp] theorem nextBreak_mirror (env : Env) (w : W) : (nextBreak env w).ch.mirror = w.ch.mirror := (base_parts (nextBreak_base _ _)).1
@[simp] theorem nextBreak_mon (env : Env) (w : W) : (nextBreak env w).ch.mon = w.ch.mon := (base_parts (nextBreak_base _ _)).2.1
@[simp] theorem nextBreak_rest (env : Env) (w : W) : (nextBreak env w).rest = w.rest := (base_parts (nextBreak_base _ _)).2.2.1
@[simp] theorem nextBreak_rule (env : Env) (w : W) : (nextBreak env w).rule = w.rule := (base_parts (nextBreak_base _ _)).2.2.2

@[simp] theorem nextOnAir_mirror (env : Env) (w : W) : (nextOnAir env w).ch.mirror = w.ch.mirror := (base_parts (nextOnAir_base _ _)).1
@[simp] theorem nextOnAir_mon (env : Env) (w : W) : (nextOnAir env w).ch.mon = w.ch.mon := (base_parts (nextOnAir_base _ _)).2.1
@[simp] theorem nextOnAir_rest (env : Env) (w : W) : (nextOnAir env w).rest = w.rest := (base_parts (nextOnAir_base _ _)).2.2.1
@[simp] theorem nextOnAir_rule (env : Env) (w : W) : (nextOnAir env w).rule = w.rule := (base_parts (nextOnAir_base _ _)).2.2.2

@[simp] theorem othersLeave_mirror (env : Env) (w : W) : (othersLeave env w).ch.mirror = w.ch.mirror := (base_parts (othersLeave_base _ _)).1
@[simp] theorem othersLeave_mon (env : Env) (w : W) : (othersLeave env w).ch.mon = w.ch.mon := (base_parts (othersLeave_base _ _)).2.1
@[simp] theorem othersLeave_rest (env : Env) (w : W) : (othersLeave env w).rest = w.rest := (base_parts (othersLeave_base _ _)).2.2.1
@[simp] theorem othersLeave_rule (env : Env) (w : W) : (othersLeave env w).rule = w.rule := (base_parts (othersLeave_base _ _)).2.2.2

@[simp] theorem droppedRecords_mirror (env : Env) (w : W) : (droppedRecords env w).ch.mirror = w.ch.mirror := (base_parts (droppedRecords_base _ _)).1
@[simp] theorem droppedRecords_mon (env : Env) (w : W) : (droppedRecords env w).ch.mon = w.ch.mon := (base_parts (droppedRecords_base _ _)).2.1
@[simp] theorem droppedRecords_rest (env : Env) (w : W) : (droppedRecords env w).rest = w.rest := (base_parts (droppedRecords_base _ _)).2.2.1
@[simp] theorem droppedRecords_rule (env : Env) (w : W) : (droppedRecords env w).rule = w.rule := (base_parts (droppedRecords_base _ _)).2.2.2

@[simp] theorem spentRecords_mirror (env : Env) (w : W) : (spentRecords env w).ch.mirror = w.ch.mirror := (base_parts (spentRecords_base _ _)).1
@[simp] theorem spentRecords_mon (env : Env) (w : W) : (spentRecords env w).ch.mon = w.ch.mon := (base_parts (spentRecords_base _ _)).2.1
@[simp] theorem spentRecords_rest (env : Env) (w : W) : (spentRecords env w).rest = w.rest := (base_parts (spentRecords_base _ _)).2.2.1
@[simp] theorem spentRecords_rule (env : Env) (w : W) : (spentRecords env w).rule = w.rule := (base_parts (spentRecords_base _ _)).2.2.2

@[simp] theorem syncLife_mirror (w : W) : (syncLife w).ch.mirror = w.ch.mirror := (base_parts (syncLife_base _)).1
@[simp] theorem syncLife_mon (w : W) : (syncLife w).ch.mon = w.ch.mon := (base_parts (syncLife_base _)).2.1
@[simp] theorem syncLife_rest (w : W) : (syncLife w).rest = w.rest := (base_parts (syncLife_base _)).2.2.1
@[simp] theorem syncLife_rule (w : W) : (syncLife w).rule = w.rule := (base_parts (syncLife_base _)).2.2.2

@[simp] theorem handJoin_mirror (env : Env) (why : JoinFor) (target : Frame) (w : W) : (handJoin env why target w).ch.mirror = w.ch.mirror := (base_parts (handJoin_base _ _ _ _)).1
@[simp] theorem handJoin_mon (env : Env) (why : JoinFor) (target : Frame) (w : W) : (handJoin env why target w).ch.mon = w.ch.mon := (base_parts (handJoin_base _ _ _ _)).2.1
@[simp] theorem handJoin_rest (env : Env) (why : JoinFor) (target : Frame) (w : W) : (handJoin env why target w).rest = w.rest := (base_parts (handJoin_base _ _ _ _)).2.2.1
@[simp] theorem handJoin_rule (env : Env) (why : JoinFor) (target : Frame) (w : W) : (handJoin env why target w).rule = w.rule := (base_parts (handJoin_base _ _ _ _)).2.2.2

@[simp] theorem settle_mirror (env : Env) (w : W) : (settle env w).ch.mirror = w.ch.mirror := (base_parts (settle_base _ _)).1
@[simp] theorem settle_mon (env : Env) (w : W) : (settle env w).ch.mon = w.ch.mon := (base_parts (settle_base _ _)).2.1
@[simp] theorem settle_rest (env : Env) (w : W) : (settle env w).rest = w.rest := (base_parts (settle_base _ _)).2.2.1
@[simp] theorem settle_rule (env : Env) (w : W) : (settle env w).rule = w.rule := (base_parts (settle_base _ _)).2.2.2

@[simp] theorem joinSettled_mirror (env : Env) (why : JoinFor) (target : Frame) (w : W) : (joinSettled env why target w).ch.mirror = w.ch.mirror := (base_parts (joinSettled_base _ _ _ _)).1
@[simp] theorem joinSettled_mon (env : Env) (why : JoinFor) (target : Frame) (w : W) : (joinSettled env why target w).ch.mon = w.ch.mon := (base_parts (joinSettled_base _ _ _ _)).2.1
@[simp] theorem joinSettled_rest (env : Env) (why : JoinFor) (target : Frame) (w : W) : (joinSettled env why target w).rest = w.rest := (base_parts (joinSettled_base _ _ _ _)).2.2.1
@[simp] theorem joinSettled_rule (env : Env) (why : JoinFor) (target : Frame) (w : W) : (joinSettled env why target w).rule = w.rule := (base_parts (joinSettled_base _ _ _ _)).2.2.2

@[simp] theorem abandonSweep_mirror (w : W) : (abandonSweep w).ch.mirror = w.ch.mirror := (base_parts (abandonSweep_base _)).1
@[simp] theorem abandonSweep_mon (w : W) : (abandonSweep w).ch.mon = w.ch.mon := (base_parts (abandonSweep_base _)).2.1
@[simp] theorem abandonSweep_rest (w : W) : (abandonSweep w).rest = w.rest := (base_parts (abandonSweep_base _)).2.2.1
@[simp] theorem abandonSweep_rule (w : W) : (abandonSweep w).rule = w.rule := (base_parts (abandonSweep_base _)).2.2.2

@[simp] theorem pump_mirror (env : Env) (w : W) : (pump env w).ch.mirror = w.ch.mirror := (base_parts (pump_base _ _)).1
@[simp] theorem pump_mon (env : Env) (w : W) : (pump env w).ch.mon = w.ch.mon := (base_parts (pump_base _ _)).2.1
@[simp] theorem pump_rest (env : Env) (w : W) : (pump env w).rest = w.rest := (base_parts (pump_base _ _)).2.2.1
@[simp] theorem pump_rule (env : Env) (w : W) : (pump env w).rule = w.rule := (base_parts (pump_base _ _)).2.2.2

@[simp] theorem shadowStart_mirror (env : Env) (w : W) : (shadowStart env w).ch.mirror = w.ch.mirror := (base_parts (shadowStart_base _ _)).1
@[simp] theorem shadowStart_mon (env : Env) (w : W) : (shadowStart env w).ch.mon = w.ch.mon := (base_parts (shadowStart_base _ _)).2.1
@[simp] theorem shadowStart_rest (env : Env) (w : W) : (shadowStart env w).rest = w.rest := (base_parts (shadowStart_base _ _)).2.2.1
@[simp] theorem shadowStart_rule (env : Env) (w : W) : (shadowStart env w).rule = w.rule := (base_parts (shadowStart_base _ _)).2.2.2

@[simp] theorem realignCompare_mirror (env : Env) (w : W) : (realignCompare env w).ch.mirror = w.ch.mirror := (base_parts (realignCompare_base _ _)).1
@[simp] theorem realignCompare_mon (env : Env) (w : W) : (realignCompare env w).ch.mon = w.ch.mon := (base_parts (realignCompare_base _ _)).2.1
@[simp] theorem realignCompare_rest (env : Env) (w : W) : (realignCompare env w).rest = w.rest := (base_parts (realignCompare_base _ _)).2.2.1
@[simp] theorem realignCompare_rule (env : Env) (w : W) : (realignCompare env w).rule = w.rule := (base_parts (realignCompare_base _ _)).2.2.2

@[simp] theorem shadowRejoin_mirror (env : Env) (w : W) : (shadowRejoin env w).ch.mirror = w.ch.mirror := (base_parts (shadowRejoin_base _ _)).1
@[simp] theorem shadowRejoin_mon (env : Env) (w : W) : (shadowRejoin env w).ch.mon = w.ch.mon := (base_parts (shadowRejoin_base _ _)).2.1
@[simp] theorem shadowRejoin_rest (env : Env) (w : W) : (shadowRejoin env w).rest = w.rest := (base_parts (shadowRejoin_base _ _)).2.2.1
@[simp] theorem shadowRejoin_rule (env : Env) (w : W) : (shadowRejoin env w).rule = w.rule := (base_parts (shadowRejoin_base _ _)).2.2.2

@[simp] theorem stopHolder_mirror (env : Env) (frame : Frame) (p : PlayerId) (w : W) : (stopHolder env frame p w).ch.mirror = w.ch.mirror := (base_parts (stopHolder_base _ _ _ _)).1
@[simp] theorem stopHolder_mon (env : Env) (frame : Frame) (p : PlayerId) (w : W) : (stopHolder env frame p w).ch.mon = w.ch.mon := (base_parts (stopHolder_base _ _ _ _)).2.1
@[simp] theorem stopHolder_rest (env : Env) (frame : Frame) (p : PlayerId) (w : W) : (stopHolder env frame p w).rest = w.rest := (base_parts (stopHolder_base _ _ _ _)).2.2.1
@[simp] theorem stopHolder_rule (env : Env) (frame : Frame) (p : PlayerId) (w : W) : (stopHolder env frame p w).rule = w.rule := (base_parts (stopHolder_base _ _ _ _)).2.2.2

@[simp] theorem endContext_mirror (w : W) : (endContext w).ch.mirror = w.ch.mirror := (base_parts (endContext_base _)).1
@[simp] theorem endContext_mon (w : W) : (endContext w).ch.mon = w.ch.mon := (base_parts (endContext_base _)).2.1
@[simp] theorem endContext_rest (w : W) : (endContext w).rest = w.rest := (base_parts (endContext_base _)).2.2.1
@[simp] theorem endContext_rule (w : W) : (endContext w).rule = w.rule := (base_parts (endContext_base _)).2.2.2

@[simp] theorem shadowEnd_mirror (env : Env) (w : W) : (shadowEnd env w).ch.mirror = w.ch.mirror := (base_parts (shadowEnd_base _ _)).1
@[simp] theorem shadowEnd_mon (env : Env) (w : W) : (shadowEnd env w).ch.mon = w.ch.mon := (base_parts (shadowEnd_base _ _)).2.1
@[simp] theorem shadowEnd_rest (env : Env) (w : W) : (shadowEnd env w).rest = w.rest := (base_parts (shadowEnd_base _ _)).2.2.1
@[simp] theorem shadowEnd_rule (env : Env) (w : W) : (shadowEnd env w).rule = w.rule := (base_parts (shadowEnd_base _ _)).2.2.2

/-! ## The Channel Controller -/

@[simp] theorem refuse_mirror (st : Status) (w : W) : (refuse st w).1.ch.mirror = w.ch.mirror := rfl

@[simp] theorem refuse_mon (st : Status) (w : W) : (refuse st w).1.ch.mon = w.ch.mon := rfl

@[simp] theorem refuse_rest (st : Status) (w : W) : (refuse st w).1.rest = w.rest := rfl

@[simp] theorem startJoining_mirror (env : Env) (sw : Switch) (least : Frame) (w : W) : (startJoining env sw least w).ch.mirror = w.ch.mirror := by
  unfold startJoining
  (try dsimp only)
  (repeat' split) <;> first | simp | rfl

@[simp] theorem startJoining_mon (env : Env) (sw : Switch) (least : Frame) (w : W) : (startJoining env sw least w).ch.mon = w.ch.mon := by
  unfold startJoining
  (try dsimp only)
  (repeat' split) <;> first | simp | rfl

@[simp] theorem startJoining_rest (env : Env) (sw : Switch) (least : Frame) (w : W) : (startJoining env sw least w).rest = w.rest := by
  unfold startJoining
  (try dsimp only)
  (repeat' split) <;> first | simp | rfl

@[simp] theorem joiningStart_mirror (env : Env) (w : W) : (joiningStart env w).ch.mirror = w.ch.mirror := by
  unfold joiningStart
  (try dsimp only)
  (repeat' split) <;> first | simp | rfl

@[simp] theorem joiningStart_mon (env : Env) (w : W) : (joiningStart env w).ch.mon = w.ch.mon := by
  unfold joiningStart
  (try dsimp only)
  (repeat' split) <;> first | simp | rfl

@[simp] theorem joiningStart_rest (env : Env) (w : W) : (joiningStart env w).rest = w.rest := by
  unfold joiningStart
  (try dsimp only)
  (repeat' split) <;> first | simp | rfl

@[simp] theorem autoTakeover_mirror (env : Env) (w : W) : (autoTakeover env w).ch.mirror = w.ch.mirror := by
  unfold autoTakeover
  (try dsimp only)
  (repeat' split) <;> first | simp | rfl

@[simp] theorem autoTakeover_mon (env : Env) (w : W) : (autoTakeover env w).ch.mon = w.ch.mon := by
  unfold autoTakeover
  (try dsimp only)
  (repeat' split) <;> first | simp | rfl

@[simp] theorem autoTakeover_rest (env : Env) (w : W) : (autoTakeover env w).rest = w.rest := by
  unfold autoTakeover
  (try dsimp only)
  (repeat' split) <;> first | simp | rfl

@[simp] theorem failureJoin_mirror (env : Env) (w : W) : (failureJoin env w).ch.mirror = w.ch.mirror := by
  unfold failureJoin
  (try dsimp only)
  (repeat' split) <;> first | simp | rfl

@[simp] theorem failureJoin_mon (env : Env) (w : W) : (failureJoin env w).ch.mon = w.ch.mon := by
  unfold failureJoin
  (try dsimp only)
  (repeat' split) <;> first | simp | rfl

@[simp] theorem failureJoin_rest (env : Env) (w : W) : (failureJoin env w).rest = w.rest := by
  unfold failureJoin
  (try dsimp only)
  (repeat' split) <;> first | simp | rfl

@[simp] theorem cancelRecord_mirror (env : Env) (why : Detail) (w : W) : (cancelRecord env why w).ch.mirror = w.ch.mirror := by
  unfold cancelRecord
  (try dsimp only)
  (repeat' split) <;> first | simp | rfl

@[simp] theorem cancelRecord_mon (env : Env) (why : Detail) (w : W) : (cancelRecord env why w).ch.mon = w.ch.mon := by
  unfold cancelRecord
  (try dsimp only)
  (repeat' split) <;> first | simp | rfl

@[simp] theorem cancelRecord_rest (env : Env) (why : Detail) (w : W) : (cancelRecord env why w).rest = w.rest := by
  unfold cancelRecord
  (try dsimp only)
  (repeat' split) <;> first | simp | rfl

@[simp] theorem releasePlayer_mirror (env : Env) (target : Frame) (p : PlayerId) (w : W) : (releasePlayer env target p w).ch.mirror = w.ch.mirror := by
  unfold releasePlayer
  (try dsimp only)
  (repeat' split) <;> first | simp | rfl

@[simp] theorem releasePlayer_mon (env : Env) (target : Frame) (p : PlayerId) (w : W) : (releasePlayer env target p w).ch.mon = w.ch.mon := by
  unfold releasePlayer
  (try dsimp only)
  (repeat' split) <;> first | simp | rfl

@[simp] theorem releasePlayer_rest (env : Env) (target : Frame) (p : PlayerId) (w : W) : (releasePlayer env target p w).rest = w.rest := by
  unfold releasePlayer
  (try dsimp only)
  (repeat' split) <;> first | simp | rfl

@[simp] theorem cancelHandback_mirror (env : Env) (why : Detail) (w : W) : (cancelHandback env why w).ch.mirror = w.ch.mirror := by
  unfold cancelHandback
  (try dsimp only)
  (repeat' split) <;> first | simp | rfl

@[simp] theorem cancelHandback_mon (env : Env) (why : Detail) (w : W) : (cancelHandback env why w).ch.mon = w.ch.mon := by
  unfold cancelHandback
  (try dsimp only)
  (repeat' split) <;> first | simp | rfl

@[simp] theorem cancelHandback_rest (env : Env) (why : Detail) (w : W) : (cancelHandback env why w).rest = w.rest := by
  unfold cancelHandback
  (try dsimp only)
  (repeat' split) <;> first | simp | rfl

@[simp] theorem withdrawBreak_mirror (env : Env) (target : Frame) (w : W) : (withdrawBreak env target w).ch.mirror = w.ch.mirror := by
  unfold withdrawBreak
  dsimp only
  (repeat' split) <;> first | simp | rfl

@[simp] theorem withdrawBreak_mon (env : Env) (target : Frame) (w : W) : (withdrawBreak env target w).ch.mon = w.ch.mon := by
  unfold withdrawBreak
  dsimp only
  (repeat' split) <;> first | simp | rfl

@[simp] theorem withdrawBreak_rest (env : Env) (target : Frame) (w : W) : (withdrawBreak env target w).rest = w.rest := by
  unfold withdrawBreak
  dsimp only
  (repeat' split) <;> first | simp | rfl

@[simp] theorem stopAtTarget_mirror (env : Env) (target : Frame) (p : PlayerId) (w : W) : (stopAtTarget env target p w).ch.mirror = w.ch.mirror := by
  unfold stopAtTarget
  (try dsimp only)
  (repeat' split) <;> first | simp | rfl

@[simp] theorem stopAtTarget_mon (env : Env) (target : Frame) (p : PlayerId) (w : W) : (stopAtTarget env target p w).ch.mon = w.ch.mon := by
  unfold stopAtTarget
  (try dsimp only)
  (repeat' split) <;> first | simp | rfl

@[simp] theorem stopAtTarget_rest (env : Env) (target : Frame) (p : PlayerId) (w : W) : (stopAtTarget env target p w).rest = w.rest := by
  unfold stopAtTarget
  (try dsimp only)
  (repeat' split) <;> first | simp | rfl

@[simp] theorem startReturning_mirror (env : Env) (s : Switch) (w : W) : (startReturning env s w).ch.mirror = w.ch.mirror := by
  unfold startReturning
  (try dsimp only)
  (repeat' split) <;> first | simp | rfl

@[simp] theorem startReturning_mon (env : Env) (s : Switch) (w : W) : (startReturning env s w).ch.mon = w.ch.mon := by
  unfold startReturning
  (try dsimp only)
  (repeat' split) <;> first | simp | rfl

@[simp] theorem startReturning_rest (env : Env) (s : Switch) (w : W) : (startReturning env s w).rest = w.rest := by
  unfold startReturning
  (try dsimp only)
  (repeat' split) <;> first | simp | rfl

@[simp] theorem handbackOn_mirror (cause : SwitchCause) (target : Target) (force : Bool) (env : Env) (w : W) : (handbackOn cause target force env w).1.ch.mirror = w.ch.mirror := by
  unfold handbackOn
  (try dsimp only)
  (repeat' split) <;> first | simp | rfl

@[simp] theorem handbackOn_mon (cause : SwitchCause) (target : Target) (force : Bool) (env : Env) (w : W) : (handbackOn cause target force env w).1.ch.mon = w.ch.mon := by
  unfold handbackOn
  (try dsimp only)
  (repeat' split) <;> first | simp | rfl

@[simp] theorem handbackOn_rest (cause : SwitchCause) (target : Target) (force : Bool) (env : Env) (w : W) : (handbackOn cause target force env w).1.rest = w.rest := by
  unfold handbackOn
  (try dsimp only)
  (repeat' split) <;> first | simp | rfl

@[simp] theorem handbackAskOn_mirror (target : Target) (env : Env) (w : W) : (handbackAskOn target env w).1.ch.mirror = w.ch.mirror := by
  unfold handbackAskOn
  (try dsimp only)
  (repeat' split) <;> first | simp | rfl

@[simp] theorem handbackAskOn_mon (target : Target) (env : Env) (w : W) : (handbackAskOn target env w).1.ch.mon = w.ch.mon := by
  unfold handbackAskOn
  (try dsimp only)
  (repeat' split) <;> first | simp | rfl

@[simp] theorem handbackAskOn_rest (target : Target) (env : Env) (w : W) : (handbackAskOn target env w).1.rest = w.rest := by
  unfold handbackAskOn
  (try dsimp only)
  (repeat' split) <;> first | simp | rfl

@[simp] theorem recordSwitch_mirror (env : Env) (s : Switch) (w : W) : (recordSwitch env s w).ch.mirror = w.ch.mirror := by
  unfold recordSwitch
  (try dsimp only)
  (repeat' split) <;> first | simp | rfl

@[simp] theorem recordSwitch_mon (env : Env) (s : Switch) (w : W) : (recordSwitch env s w).ch.mon = w.ch.mon := by
  unfold recordSwitch
  (try dsimp only)
  (repeat' split) <;> first | simp | rfl

@[simp] theorem recordSwitch_rest (env : Env) (s : Switch) (w : W) : (recordSwitch env s w).rest = w.rest := by
  unfold recordSwitch
  (try dsimp only)
  (repeat' split) <;> first | simp | rfl

@[simp] theorem takeoverOn_mirror (target : Target) (force : Bool) (env : Env) (w : W) : (takeoverOn target force env w).1.ch.mirror = w.ch.mirror := by
  unfold takeoverOn
  (try dsimp only)
  (repeat' split) <;> first | simp | rfl

@[simp] theorem takeoverOn_mon (target : Target) (force : Bool) (env : Env) (w : W) : (takeoverOn target force env w).1.ch.mon = w.ch.mon := by
  unfold takeoverOn
  (try dsimp only)
  (repeat' split) <;> first | simp | rfl

@[simp] theorem takeoverOn_rest (target : Target) (force : Bool) (env : Env) (w : W) : (takeoverOn target force env w).1.rest = w.rest := by
  unfold takeoverOn
  (try dsimp only)
  (repeat' split) <;> first | simp | rfl

@[simp] theorem handoverOn_mirror (day : Nat) (l : Label) (env : Env) (w : W) : (handoverOn day l env w).1.ch.mirror = w.ch.mirror := by
  unfold handoverOn
  (try dsimp only)
  (repeat' split) <;> first | simp | rfl

@[simp] theorem handoverOn_mon (day : Nat) (l : Label) (env : Env) (w : W) : (handoverOn day l env w).1.ch.mon = w.ch.mon := by
  unfold handoverOn
  (try dsimp only)
  (repeat' split) <;> first | simp | rfl

@[simp] theorem handoverOn_rest (day : Nat) (l : Label) (env : Env) (w : W) : (handoverOn day l env w).1.rest = w.rest := by
  unfold handoverOn
  (try dsimp only)
  (repeat' split) <;> first | simp | rfl

@[simp] theorem landingRecord_mirror (env : Env) (kind : AsRunKind) (detail : Detail) (w : W) : (landingRecord env kind detail w).ch.mirror = w.ch.mirror := by
  unfold landingRecord
  (try dsimp only)
  (repeat' split) <;> first | simp | rfl

@[simp] theorem landingRecord_mon (env : Env) (kind : AsRunKind) (detail : Detail) (w : W) : (landingRecord env kind detail w).ch.mon = w.ch.mon := by
  unfold landingRecord
  (try dsimp only)
  (repeat' split) <;> first | simp | rfl

@[simp] theorem landingRecord_rest (env : Env) (kind : AsRunKind) (detail : Detail) (w : W) : (landingRecord env kind detail w).rest = w.rest := by
  unfold landingRecord
  (try dsimp only)
  (repeat' split) <;> first | simp | rfl

@[simp] theorem landOnAir_mirror (env : Env) (w : W) : (landOnAir env w).ch.mirror = w.ch.mirror := by
  unfold landOnAir
  split
  · rename_i v h; exact (base_parts (landPlaying_base env w v h)).1
  · (repeat' split) <;> first | simp | rfl

@[simp] theorem landOnAir_mon (env : Env) (w : W) : (landOnAir env w).ch.mon = w.ch.mon := by
  unfold landOnAir
  split
  · rename_i v h; exact (base_parts (landPlaying_base env w v h)).2.1
  · (repeat' split) <;> first | simp | rfl

@[simp] theorem landOnAir_rest (env : Env) (w : W) : (landOnAir env w).rest = w.rest := by
  unfold landOnAir
  split
  · rename_i v h; exact (base_parts (landPlaying_base env w v h)).2.2.1
  · (repeat' split) <;> first | simp | rfl

@[simp] theorem joiningTarget_mirror (env : Env) (w : W) : (joiningTarget env w).ch.mirror = w.ch.mirror := by
  unfold joiningTarget
  (try dsimp only)
  (repeat' split) <;> first | simp | rfl

@[simp] theorem joiningTarget_mon (env : Env) (w : W) : (joiningTarget env w).ch.mon = w.ch.mon := by
  unfold joiningTarget
  (try dsimp only)
  (repeat' split) <;> first | simp | rfl

@[simp] theorem joiningTarget_rest (env : Env) (w : W) : (joiningTarget env w).rest = w.rest := by
  unfold joiningTarget
  (try dsimp only)
  (repeat' split) <;> first | simp | rfl

@[simp] theorem dropCue_mirror (env : Env) (p : PlayerId) (w : W) : (dropCue env p w).ch.mirror = w.ch.mirror := by
  unfold dropCue
  (try dsimp only)
  (repeat' split) <;> first | simp | rfl

@[simp] theorem dropCue_mon (env : Env) (p : PlayerId) (w : W) : (dropCue env p w).ch.mon = w.ch.mon := by
  unfold dropCue
  (try dsimp only)
  (repeat' split) <;> first | simp | rfl

@[simp] theorem dropCue_rest (env : Env) (p : PlayerId) (w : W) : (dropCue env p w).rest = w.rest := by
  unfold dropCue
  (try dsimp only)
  (repeat' split) <;> first | simp | rfl

@[simp] theorem handbackTarget_mirror (env : Env) (w : W) : (handbackTarget env w).ch.mirror = w.ch.mirror := by
  unfold handbackTarget
  (try dsimp only)
  (repeat' split) <;> first | simp | rfl

@[simp] theorem handbackTarget_mon (env : Env) (w : W) : (handbackTarget env w).ch.mon = w.ch.mon := by
  unfold handbackTarget
  (try dsimp only)
  (repeat' split) <;> first | simp | rfl

@[simp] theorem handbackTarget_rest (env : Env) (w : W) : (handbackTarget env w).rest = w.rest := by
  unfold handbackTarget
  (try dsimp only)
  (repeat' split) <;> first | simp | rfl

@[simp] theorem clearForBreak_mirror (env : Env) (p : PlayerId) (w : W) : (clearForBreak env p w).ch.mirror = w.ch.mirror := by
  unfold clearForBreak
  (try dsimp only)
  (repeat' split) <;> first | simp | rfl

@[simp] theorem clearForBreak_mon (env : Env) (p : PlayerId) (w : W) : (clearForBreak env p w).ch.mon = w.ch.mon := by
  unfold clearForBreak
  (try dsimp only)
  (repeat' split) <;> first | simp | rfl

@[simp] theorem clearForBreak_rest (env : Env) (p : PlayerId) (w : W) : (clearForBreak env p w).rest = w.rest := by
  unfold clearForBreak
  (try dsimp only)
  (repeat' split) <;> first | simp | rfl

@[simp] theorem acceptBreak_mirror (handle inPoint : Nat) (duration : Option Nat) (m : ResumeMode) (env : Env) (w : W) : (acceptBreak handle inPoint duration m env w).1.ch.mirror = w.ch.mirror := by
  unfold acceptBreak
  (try dsimp only)
  (repeat' split) <;> first | simp | rfl

@[simp] theorem acceptBreak_mon (handle inPoint : Nat) (duration : Option Nat) (m : ResumeMode) (env : Env) (w : W) : (acceptBreak handle inPoint duration m env w).1.ch.mon = w.ch.mon := by
  unfold acceptBreak
  (try dsimp only)
  (repeat' split) <;> first | simp | rfl

@[simp] theorem acceptBreak_rest (handle inPoint : Nat) (duration : Option Nat) (m : ResumeMode) (env : Env) (w : W) : (acceptBreak handle inPoint duration m env w).1.rest = w.rest := by
  unfold acceptBreak
  (try dsimp only)
  (repeat' split) <;> first | simp | rfl

@[simp] theorem breakInOn_mirror (handle inPoint : Nat) (duration : Option Nat) (mode : Option BreakMode) (env : Env) (w : W) : (breakInOn handle inPoint duration mode env w).1.ch.mirror = w.ch.mirror := by
  unfold breakInOn
  (try dsimp only)
  (repeat' split) <;> first | simp | rfl

@[simp] theorem breakInOn_mon (handle inPoint : Nat) (duration : Option Nat) (mode : Option BreakMode) (env : Env) (w : W) : (breakInOn handle inPoint duration mode env w).1.ch.mon = w.ch.mon := by
  unfold breakInOn
  (try dsimp only)
  (repeat' split) <;> first | simp | rfl

@[simp] theorem breakInOn_rest (handle inPoint : Nat) (duration : Option Nat) (mode : Option BreakMode) (env : Env) (w : W) : (breakInOn handle inPoint duration mode env w).1.rest = w.rest := by
  unfold breakInOn
  (try dsimp only)
  (repeat' split) <;> first | simp | rfl

@[simp] theorem breakStart_mirror (env : Env) (w : W) : (breakStart env w).ch.mirror = w.ch.mirror := by
  unfold breakStart
  (try dsimp only)
  (repeat' split) <;> first | simp | rfl

@[simp] theorem breakStart_mon (env : Env) (w : W) : (breakStart env w).ch.mon = w.ch.mon := by
  unfold breakStart
  (try dsimp only)
  (repeat' split) <;> first | simp | rfl

@[simp] theorem breakStart_rest (env : Env) (w : W) : (breakStart env w).rest = w.rest := by
  unfold breakStart
  (try dsimp only)
  (repeat' split) <;> first | simp | rfl

@[simp] theorem beginResume_mirror (env : Env) (cause : ResumeCause) (mode : ResumeMode) (r : Frame) (w : W) : (beginResume env cause mode r w).ch.mirror = w.ch.mirror := by
  unfold beginResume
  (try dsimp only)
  (repeat' split) <;> first | simp | rfl

@[simp] theorem beginResume_mon (env : Env) (cause : ResumeCause) (mode : ResumeMode) (r : Frame) (w : W) : (beginResume env cause mode r w).ch.mon = w.ch.mon := by
  unfold beginResume
  (try dsimp only)
  (repeat' split) <;> first | simp | rfl

@[simp] theorem beginResume_rest (env : Env) (cause : ResumeCause) (mode : ResumeMode) (r : Frame) (w : W) : (beginResume env cause mode r w).rest = w.rest := by
  unfold beginResume
  (try dsimp only)
  (repeat' split) <;> first | simp | rfl

@[simp] theorem resumeOn_mirror (mode : Option ResumeReq) (env : Env) (w : W) : (resumeOn mode env w).1.ch.mirror = w.ch.mirror := by
  unfold resumeOn
  (try dsimp only)
  (repeat' split) <;> first | simp | rfl

@[simp] theorem resumeOn_mon (mode : Option ResumeReq) (env : Env) (w : W) : (resumeOn mode env w).1.ch.mon = w.ch.mon := by
  unfold resumeOn
  (try dsimp only)
  (repeat' split) <;> first | simp | rfl

@[simp] theorem resumeOn_rest (mode : Option ResumeReq) (env : Env) (w : W) : (resumeOn mode env w).1.rest = w.rest := by
  unfold resumeOn
  (try dsimp only)
  (repeat' split) <;> first | simp | rfl

@[simp] theorem breakExpiry_mirror (env : Env) (w : W) : (breakExpiry env w).ch.mirror = w.ch.mirror := by
  unfold breakExpiry
  (try dsimp only)
  (repeat' split) <;> first | simp | rfl

@[simp] theorem breakExpiry_mon (env : Env) (w : W) : (breakExpiry env w).ch.mon = w.ch.mon := by
  unfold breakExpiry
  (try dsimp only)
  (repeat' split) <;> first | simp | rfl

@[simp] theorem breakExpiry_rest (env : Env) (w : W) : (breakExpiry env w).rest = w.rest := by
  unfold breakExpiry
  (try dsimp only)
  (repeat' split) <;> first | simp | rfl

@[simp] theorem dropBreakClip_mirror (env : Env) (w : W) : (dropBreakClip env w).ch.mirror = w.ch.mirror := by
  unfold dropBreakClip
  (try dsimp only)
  (repeat' split) <;> first | simp | rfl

@[simp] theorem dropBreakClip_mon (env : Env) (w : W) : (dropBreakClip env w).ch.mon = w.ch.mon := by
  unfold dropBreakClip
  (try dsimp only)
  (repeat' split) <;> first | simp | rfl

@[simp] theorem dropBreakClip_rest (env : Env) (w : W) : (dropBreakClip env w).rest = w.rest := by
  unfold dropBreakClip
  (try dsimp only)
  (repeat' split) <;> first | simp | rfl

@[simp] theorem breakEnd_mirror (env : Env) (w : W) : (breakEnd env w).ch.mirror = w.ch.mirror := by
  unfold breakEnd
  (try dsimp only)
  (repeat' split) <;> first | simp | rfl

@[simp] theorem breakEnd_mon (env : Env) (w : W) : (breakEnd env w).ch.mon = w.ch.mon := by
  unfold breakEnd
  (try dsimp only)
  (repeat' split) <;> first | simp | rfl

@[simp] theorem breakEnd_rest (env : Env) (w : W) : (breakEnd env w).rest = w.rest := by
  unfold breakEnd
  (try dsimp only)
  (repeat' split) <;> first | simp | rfl

/-! ## The Feed Monitor -/

@[simp] theorem countPeriod_mirror (env : Env) (bad : Bool) (w : W) : (countPeriod env bad w).ch.mirror = w.ch.mirror := by
  unfold countPeriod
  (try dsimp only)
  (repeat' split) <;> first | simp | rfl

@[simp] theorem countPeriod_rest (env : Env) (bad : Bool) (w : W) : (countPeriod env bad w).rest = w.rest := by
  unfold countPeriod
  (try dsimp only)
  (repeat' split) <;> first | simp | rfl

@[simp] theorem advisoryNotice_mirror (env : Env) (i : Fin 8) (raised : Bool) (w : W) : (advisoryNotice env i raised w).ch.mirror = w.ch.mirror := by
  unfold advisoryNotice
  (try dsimp only)
  (repeat' split) <;> first | simp | rfl

@[simp] theorem advisoryNotice_rest (env : Env) (i : Fin 8) (raised : Bool) (w : W) : (advisoryNotice env i raised w).rest = w.rest := by
  unfold advisoryNotice
  (try dsimp only)
  (repeat' split) <;> first | simp | rfl

@[simp] theorem setFlag_mirror (i : Fin 8) (b : Bool) (w : W) : (setFlag i b w).ch.mirror = w.ch.mirror := by
  unfold setFlag
  (try dsimp only)
  (repeat' split) <;> first | simp | rfl

@[simp] theorem setFlag_rest (i : Fin 8) (b : Bool) (w : W) : (setFlag i b w).rest = w.rest := by
  unfold setFlag
  (try dsimp only)
  (repeat' split) <;> first | simp | rfl

@[simp] theorem advisoryRaise_mirror (env : Env) (i : Fin 8) (w : W) : (advisoryRaise env i w).ch.mirror = w.ch.mirror := by
  unfold advisoryRaise
  (try dsimp only)
  (repeat' split) <;> first | simp | rfl

@[simp] theorem advisoryRaise_rest (env : Env) (i : Fin 8) (w : W) : (advisoryRaise env i w).rest = w.rest := by
  unfold advisoryRaise
  (try dsimp only)
  (repeat' split) <;> first | simp | rfl

@[simp] theorem advisoryClear_mirror (env : Env) (i : Fin 8) (w : W) : (advisoryClear env i w).ch.mirror = w.ch.mirror := by
  unfold advisoryClear
  (try dsimp only)
  (repeat' split) <;> first | simp | rfl

@[simp] theorem advisoryClear_rest (env : Env) (i : Fin 8) (w : W) : (advisoryClear env i w).rest = w.rest := by
  unfold advisoryClear
  (try dsimp only)
  (repeat' split) <;> first | simp | rfl

@[simp] theorem monitorChanged_mirror (env : Env) (before after : MonState) (w : W) : (monitorChanged env before after w).ch.mirror = w.ch.mirror := by
  unfold monitorChanged
  (try dsimp only)
  (repeat' split) <;> first | simp | rfl

@[simp] theorem monitorChanged_rest (env : Env) (before after : MonState) (w : W) : (monitorChanged env before after w).rest = w.rest := by
  unfold monitorChanged
  (try dsimp only)
  (repeat' split) <;> first | simp | rfl

@[simp] theorem changeMon_mirror (env : Env) (after : MonState) (w : W) : (changeMon env after w).ch.mirror = w.ch.mirror := by
  unfold changeMon
  (try dsimp only)
  (repeat' split) <;> first | simp | rfl

@[simp] theorem changeMon_rest (env : Env) (after : MonState) (w : W) : (changeMon env after w).rest = w.rest := by
  unfold changeMon
  (try dsimp only)
  (repeat' split) <;> first | simp | rfl

@[simp] theorem monitorFailed_mirror (env : Env) (w : W) : (monitorFailed env w).ch.mirror = w.ch.mirror := by
  unfold monitorFailed
  (try dsimp only)
  (repeat' split) <;> first | simp | rfl

@[simp] theorem monitorFailed_rest (env : Env) (w : W) : (monitorFailed env w).rest = w.rest := by
  unfold monitorFailed
  (try dsimp only)
  (repeat' split) <;> first | simp | rfl

@[simp] theorem monitorSuspect_mirror (env : Env) (w : W) : (monitorSuspect env w).ch.mirror = w.ch.mirror := by
  unfold monitorSuspect
  (try dsimp only)
  (repeat' split) <;> first | simp | rfl

@[simp] theorem monitorSuspect_rest (env : Env) (w : W) : (monitorSuspect env w).rest = w.rest := by
  unfold monitorSuspect
  (try dsimp only)
  (repeat' split) <;> first | simp | rfl

@[simp] theorem monitorHealthy_mirror (env : Env) (w : W) : (monitorHealthy env w).ch.mirror = w.ch.mirror := by
  unfold monitorHealthy
  (try dsimp only)
  (repeat' split) <;> first | simp | rfl

@[simp] theorem monitorHealthy_rest (env : Env) (w : W) : (monitorHealthy env w).rest = w.rest := by
  unfold monitorHealthy
  (try dsimp only)
  (repeat' split) <;> first | simp | rfl

@[simp] theorem stateTests_mirror (env : Env) (w : W) : (stateTests env w).ch.mirror = w.ch.mirror := by
  unfold stateTests
  (try dsimp only)
  (repeat' split) <;> first | simp | rfl

@[simp] theorem stateTests_rest (env : Env) (w : W) : (stateTests env w).rest = w.rest := by
  unfold stateTests
  (try dsimp only)
  (repeat' split) <;> first | simp | rfl

@[simp] theorem evaluate_mirror (env : Env) (bad : Bool) (w : W) : (evaluate env bad w).ch.mirror = w.ch.mirror := by
  unfold evaluate
  dsimp only
  rw [stateTests_mirror, foldl_keeps (fun w => w.ch.mirror) _ (fun w x => by simp)]
  simp

@[simp] theorem evaluate_rest (env : Env) (bad : Bool) (w : W) : (evaluate env bad w).rest = w.rest := by
  unfold evaluate
  dsimp only
  rw [stateTests_rest, foldl_keeps (fun w => w.rest) _ (fun w x => by simp)]
  simp

/-! ## The Mirror Engine -/

@[simp] theorem refreshNeeded_mon (env : Env) (cause : NeedCause) (w : W) : (refreshNeeded env cause w).ch.mon = w.ch.mon := by
  unfold refreshNeeded
  (try dsimp only)
  (repeat' split) <;> first | simp | rfl

@[simp] theorem refreshNeeded_rest (env : Env) (cause : NeedCause) (w : W) : (refreshNeeded env cause w).rest = w.rest := by
  unfold refreshNeeded
  (try dsimp only)
  (repeat' split) <;> first | simp | rfl

@[simp] theorem refreshNeeded_rule (env : Env) (cause : NeedCause) (w : W) : (refreshNeeded env cause w).rule = w.rule := by
  unfold refreshNeeded
  (try dsimp only)
  (repeat' split) <;> first | simp | rfl

@[simp] theorem setMirror_mon (env : Env) (after : MirrorState) (cause : MirrorCause) (w : W) : (setMirror env after cause w).ch.mon = w.ch.mon := by
  unfold setMirror
  (try dsimp only)
  (repeat' split) <;> first | simp | rfl

@[simp] theorem setMirror_rest (env : Env) (after : MirrorState) (cause : MirrorCause) (w : W) : (setMirror env after cause w).rest = w.rest := by
  unfold setMirror
  (try dsimp only)
  (repeat' split) <;> first | simp | rfl

@[simp] theorem setMirror_rule (env : Env) (after : MirrorState) (cause : MirrorCause) (w : W) : (setMirror env after cause w).rule = w.rule := by
  unfold setMirror
  (try dsimp only)
  (repeat' split) <;> first | simp | rfl

@[simp] theorem freeRefresh_mon (w : W) : (freeRefresh w).ch.mon = w.ch.mon := by
  unfold freeRefresh
  (try dsimp only)
  (repeat' split) <;> first | simp | rfl

@[simp] theorem freeRefresh_rest (w : W) : (freeRefresh w).rest = w.rest := by
  unfold freeRefresh
  (try dsimp only)
  (repeat' split) <;> first | simp | rfl

@[simp] theorem freeRefresh_rule (w : W) : (freeRefresh w).rule = w.rule := by
  unfold freeRefresh
  (try dsimp only)
  (repeat' split) <;> first | simp | rfl

@[simp] theorem giveUp_mon (env : Env) (after : MirrorState) (cause : MirrorCause) (need : NeedCause) (w : W) : (giveUp env after cause need w).ch.mon = w.ch.mon := by
  unfold giveUp
  (try dsimp only)
  (repeat' split) <;> first | simp | rfl

@[simp] theorem giveUp_rest (env : Env) (after : MirrorState) (cause : MirrorCause) (need : NeedCause) (w : W) : (giveUp env after cause need w).rest = w.rest := by
  unfold giveUp
  (try dsimp only)
  (repeat' split) <;> first | simp | rfl

@[simp] theorem giveUp_rule (env : Env) (after : MirrorState) (cause : MirrorCause) (need : NeedCause) (w : W) : (giveUp env after cause need w).rule = w.rule := by
  unfold giveUp
  (try dsimp only)
  (repeat' split) <;> first | simp | rfl

@[simp] theorem pinClose_mon (env : Env) (id duration : Nat) (w : W) : (pinClose env id duration w).ch.mon = w.ch.mon := by
  unfold pinClose
  (try dsimp only)
  (repeat' split) <;> first | simp | rfl

@[simp] theorem pinClose_rest (env : Env) (id duration : Nat) (w : W) : (pinClose env id duration w).rest = w.rest := by
  unfold pinClose
  (try dsimp only)
  (repeat' split) <;> first | simp | rfl

@[simp] theorem pinClose_rule (env : Env) (id duration : Nat) (w : W) : (pinClose env id duration w).rule = w.rule := by
  unfold pinClose
  (try dsimp only)
  (repeat' split) <;> first | simp | rfl

@[simp] theorem cancelCued_mon (env : Env) (test : Item → Bool) (w : W) : (cancelCued env test w).ch.mon = w.ch.mon := by
  unfold cancelCued
  (try dsimp only)
  (repeat' split) <;> first | simp | rfl

@[simp] theorem cancelCued_rest (env : Env) (test : Item → Bool) (w : W) : (cancelCued env test w).rest = w.rest := by
  unfold cancelCued
  (try dsimp only)
  (repeat' split) <;> first | simp | rfl

@[simp] theorem cancelCued_rule (env : Env) (test : Item → Bool) (w : W) : (cancelCued env test w).rule = w.rule := by
  unfold cancelCued
  (try dsimp only)
  (repeat' split) <;> first | simp | rfl

@[simp] theorem forgetTries_mon (test : Item → Bool) (w : W) : (forgetTries test w).ch.mon = w.ch.mon := by
  unfold forgetTries
  simp

@[simp] theorem forgetTries_rest (test : Item → Bool) (w : W) : (forgetTries test w).rest = w.rest := by
  unfold forgetTries
  simp

@[simp] theorem forgetTries_rule (test : Item → Bool) (w : W) : (forgetTries test w).rule = w.rule := by
  unfold forgetTries
  simp

@[simp] theorem cancelLanding_mon (env : Env) (test : Item → Bool) (w : W) : (cancelLanding env test w).ch.mon = w.ch.mon := by
  unfold cancelLanding
  (try dsimp only)
  (repeat' split) <;> first | simp | rfl

@[simp] theorem cancelLanding_rest (env : Env) (test : Item → Bool) (w : W) : (cancelLanding env test w).rest = w.rest := by
  unfold cancelLanding
  (try dsimp only)
  (repeat' split) <;> first | simp | rfl

@[simp] theorem cancelLanding_rule (env : Env) (test : Item → Bool) (w : W) : (cancelLanding env test w).rule = w.rule := by
  unfold cancelLanding
  (try dsimp only)
  (repeat' split) <;> first | simp | rfl

@[simp] theorem cancelTouched_mon (env : Env) (id : Nat) (onAir held : Bool) (w : W) : (cancelTouched env id onAir held w).ch.mon = w.ch.mon := by
  unfold cancelTouched
  (try dsimp only)
  (repeat' split) <;> first | simp | rfl

@[simp] theorem cancelTouched_rest (env : Env) (id : Nat) (onAir held : Bool) (w : W) : (cancelTouched env id onAir held w).rest = w.rest := by
  unfold cancelTouched
  (try dsimp only)
  (repeat' split) <;> first | simp | rfl

@[simp] theorem cancelTouched_rule (env : Env) (id : Nat) (onAir held : Bool) (w : W) : (cancelTouched env id onAir held w).rule = w.rule := by
  unfold cancelTouched
  (try dsimp only)
  (repeat' split) <;> first | simp | rfl

@[simp] theorem sweepChange_mon (env : Env) (before : Chan) (id : Nat) (changed : Bool) (w : W) : (sweepChange env before id changed w).ch.mon = w.ch.mon := by
  unfold sweepChange
  (try dsimp only)
  (repeat' split) <;> first | simp | rfl

@[simp] theorem sweepChange_rest (env : Env) (before : Chan) (id : Nat) (changed : Bool) (w : W) : (sweepChange env before id changed w).rest = w.rest := by
  unfold sweepChange
  (try dsimp only)
  (repeat' split) <;> first | simp | rfl

@[simp] theorem sweepChange_rule (env : Env) (before : Chan) (id : Nat) (changed : Bool) (w : W) : (sweepChange env before id changed w).rule = w.rule := by
  unfold sweepChange
  (try dsimp only)
  (repeat' split) <;> first | simp | rfl

@[simp] theorem currentChanged_mon (env : Env) (before : Chan) (id : Nat) (onAir held changed : Bool) (w : W) : (currentChanged env before id onAir held changed w).ch.mon = w.ch.mon := by
  unfold currentChanged
  (try dsimp only)
  (repeat' split) <;> first | simp | rfl

@[simp] theorem currentChanged_rest (env : Env) (before : Chan) (id : Nat) (onAir held changed : Bool) (w : W) : (currentChanged env before id onAir held changed w).rest = w.rest := by
  unfold currentChanged
  (try dsimp only)
  (repeat' split) <;> first | simp | rfl

@[simp] theorem currentChanged_rule (env : Env) (before : Chan) (id : Nat) (onAir held changed : Bool) (w : W) : (currentChanged env before id onAir held changed w).rule = w.rule := by
  unfold currentChanged
  (try dsimp only)
  (repeat' split) <;> first | simp | rfl

@[simp] theorem putCurrent_mon (env : Env) (p : Put) (w : W) : (putCurrent env p w).1.ch.mon = w.ch.mon := by
  unfold putCurrent
  (try dsimp only)
  (repeat' split) <;> first | simp | rfl

@[simp] theorem putCurrent_rest (env : Env) (p : Put) (w : W) : (putCurrent env p w).1.rest = w.rest := by
  unfold putCurrent
  (try dsimp only)
  (repeat' split) <;> first | simp | rfl

@[simp] theorem putCurrent_rule (env : Env) (p : Put) (w : W) : (putCurrent env p w).1.rule = w.rule := by
  unfold putCurrent
  (try dsimp only)
  (repeat' split) <;> first | simp | rfl

@[simp] theorem removeCurrent_mon (env : Env) (id : Nat) (w : W) : (removeCurrent env id w).1.ch.mon = w.ch.mon := by
  unfold removeCurrent
  (try dsimp only)
  (repeat' split) <;> first | simp | rfl

@[simp] theorem removeCurrent_rest (env : Env) (id : Nat) (w : W) : (removeCurrent env id w).1.rest = w.rest := by
  unfold removeCurrent
  (try dsimp only)
  (repeat' split) <;> first | simp | rfl

@[simp] theorem removeCurrent_rule (env : Env) (id : Nat) (w : W) : (removeCurrent env id w).1.rule = w.rule := by
  unfold removeCurrent
  (try dsimp only)
  (repeat' split) <;> first | simp | rfl

@[simp] theorem opCurrent_mon (env : Env) (op : BatchOp) (w : W) : (opCurrent env op w).1.ch.mon = w.ch.mon := by
  unfold opCurrent
  (try dsimp only)
  (repeat' split) <;> first | simp | rfl

@[simp] theorem opCurrent_rest (env : Env) (op : BatchOp) (w : W) : (opCurrent env op w).1.rest = w.rest := by
  unfold opCurrent
  (try dsimp only)
  (repeat' split) <;> first | simp | rfl

@[simp] theorem opCurrent_rule (env : Env) (op : BatchOp) (w : W) : (opCurrent env op w).1.rule = w.rule := by
  unfold opCurrent
  (try dsimp only)
  (repeat' split) <;> first | simp | rfl

@[simp] theorem opRefresh_mon (env : Env) (op : BatchOp) (w : W) : (opRefresh env op w).1.ch.mon = w.ch.mon := by
  unfold opRefresh
  (try dsimp only)
  (repeat' split) <;> first | simp | rfl

@[simp] theorem opRefresh_rest (env : Env) (op : BatchOp) (w : W) : (opRefresh env op w).1.rest = w.rest := by
  unfold opRefresh
  (try dsimp only)
  (repeat' split) <;> first | simp | rfl

@[simp] theorem opRefresh_rule (env : Env) (op : BatchOp) (w : W) : (opRefresh env op w).1.rule = w.rule := by
  unfold opRefresh
  (try dsimp only)
  (repeat' split) <;> first | simp | rfl

@[simp] theorem runRefreshOps_mon (env : Env) (ops : List BatchOp) (w : W) : (runRefreshOps env ops w).1.ch.mon = w.ch.mon := by
  induction ops generalizing w with
  | nil => rfl
  | cons op ops ih => unfold runRefreshOps; dsimp only; (repeat' split) <;> simp [ih]

@[simp] theorem runRefreshOps_rest (env : Env) (ops : List BatchOp) (w : W) : (runRefreshOps env ops w).1.rest = w.rest := by
  induction ops generalizing w with
  | nil => rfl
  | cons op ops ih => unfold runRefreshOps; dsimp only; (repeat' split) <;> simp [ih]

@[simp] theorem runRefreshOps_rule (env : Env) (ops : List BatchOp) (w : W) : (runRefreshOps env ops w).1.rule = w.rule := by
  induction ops generalizing w with
  | nil => rfl
  | cons op ops ih => unfold runRefreshOps; dsimp only; (repeat' split) <;> simp [ih]

@[simp] theorem runCurrentOps_mon (env : Env) (ops : List BatchOp) (w : W) : (runCurrentOps env ops w).1.ch.mon = w.ch.mon := by
  induction ops generalizing w with
  | nil => rfl
  | cons op ops ih => unfold runCurrentOps; dsimp only; (repeat' split) <;> simp [ih]

@[simp] theorem runCurrentOps_rest (env : Env) (ops : List BatchOp) (w : W) : (runCurrentOps env ops w).1.rest = w.rest := by
  induction ops generalizing w with
  | nil => rfl
  | cons op ops ih => unfold runCurrentOps; dsimp only; (repeat' split) <;> simp [ih]

@[simp] theorem runCurrentOps_rule (env : Env) (ops : List BatchOp) (w : W) : (runCurrentOps env ops w).1.rule = w.rule := by
  induction ops generalizing w with
  | nil => rfl
  | cons op ops ih => unfold runCurrentOps; dsimp only; (repeat' split) <;> simp [ih]

/-! ## Batches, refreshes and scans -/

@[simp] theorem acceptBatch_mon (env : Env) (seq : Nat) (ops : List BatchOp) (w : W) : (acceptBatch env seq ops w).1.ch.mon = w.ch.mon := by
  unfold acceptBatch
  (try dsimp only)
  (repeat' split) <;> first | simp | rfl

@[simp] theorem acceptBatch_rest (env : Env) (seq : Nat) (ops : List BatchOp) (w : W) : (acceptBatch env seq ops w).1.rest = w.rest := by
  unfold acceptBatch
  (try dsimp only)
  (repeat' split) <;> first | simp | rfl

@[simp] theorem acceptBatch_rule (env : Env) (seq : Nat) (ops : List BatchOp) (w : W) : (acceptBatch env seq ops w).1.rule = w.rule := by
  unfold acceptBatch
  (try dsimp only)
  (repeat' split) <;> first | simp | rfl

@[simp] theorem mirrorBatchOn_mon (seq : Nat) (bytes : List Byte) (env : Env) (w : W) : (mirrorBatchOn seq bytes env w).1.ch.mon = w.ch.mon := by
  unfold mirrorBatchOn
  (try dsimp only)
  (repeat' split) <;> first | simp | rfl

@[simp] theorem mirrorBatchOn_rest (seq : Nat) (bytes : List Byte) (env : Env) (w : W) : (mirrorBatchOn seq bytes env w).1.rest = w.rest := by
  unfold mirrorBatchOn
  (try dsimp only)
  (repeat' split) <;> first | simp | rfl

@[simp] theorem mirrorBatchOn_rule (seq : Nat) (bytes : List Byte) (env : Env) (w : W) : (mirrorBatchOn seq bytes env w).1.rule = w.rule := by
  unfold mirrorBatchOn
  (try dsimp only)
  (repeat' split) <;> first | simp | rfl

@[simp] theorem refreshOpenOn_mon (seq : Nat) (env : Env) (w : W) : (refreshOpenOn seq env w).1.ch.mon = w.ch.mon := by
  unfold refreshOpenOn
  (try dsimp only)
  (repeat' split) <;> first | simp | rfl

@[simp] theorem refreshOpenOn_rest (seq : Nat) (env : Env) (w : W) : (refreshOpenOn seq env w).1.rest = w.rest := by
  unfold refreshOpenOn
  (try dsimp only)
  (repeat' split) <;> first | simp | rfl

@[simp] theorem refreshOpenOn_rule (seq : Nat) (env : Env) (w : W) : (refreshOpenOn seq env w).1.rule = w.rule := by
  unfold refreshOpenOn
  (try dsimp only)
  (repeat' split) <;> first | simp | rfl

@[simp] theorem pinCued_mon (env : Env) (w : W) : (pinCued env w).ch.mon = w.ch.mon := by
  unfold pinCued
  rw [foldl_keeps (fun w => w.ch.mon) _ (fun w x => by (repeat' split) <;> simp)]

@[simp] theorem pinCued_rest (env : Env) (w : W) : (pinCued env w).rest = w.rest := by
  unfold pinCued
  rw [foldl_keeps (fun w => w.rest) _ (fun w x => by (repeat' split) <;> simp)]

@[simp] theorem pinCued_rule (env : Env) (w : W) : (pinCued env w).rule = w.rule := by
  unfold pinCued
  rw [foldl_keeps (fun w => w.rule) _ (fun w x => by (repeat' split) <;> simp)]

@[simp] theorem commitCues_mon (env : Env) (before : Chan) (new : List Event) (w : W) : (commitCues env before new w).ch.mon = w.ch.mon := by
  unfold commitCues
  (try dsimp only)
  (repeat' split) <;> first | simp | rfl

@[simp] theorem commitCues_rest (env : Env) (before : Chan) (new : List Event) (w : W) : (commitCues env before new w).rest = w.rest := by
  unfold commitCues
  (try dsimp only)
  (repeat' split) <;> first | simp | rfl

@[simp] theorem commitCues_rule (env : Env) (before : Chan) (new : List Event) (w : W) : (commitCues env before new w).rule = w.rule := by
  unfold commitCues
  (try dsimp only)
  (repeat' split) <;> first | simp | rfl

@[simp] theorem commit_mon (env : Env) (r : Refresh) (w : W) : (commit env r w).ch.mon = w.ch.mon := by
  unfold commit
  (try dsimp only)
  (repeat' split) <;> first | simp | rfl

@[simp] theorem commit_rest (env : Env) (r : Refresh) (w : W) : (commit env r w).rest = w.rest := by
  unfold commit
  (try dsimp only)
  (repeat' split) <;> first | simp | rfl

@[simp] theorem commit_rule (env : Env) (r : Refresh) (w : W) : (commit env r w).rule = w.rule := by
  unfold commit
  (try dsimp only)
  (repeat' split) <;> first | simp | rfl

@[simp] theorem refreshCloseOn_mon (seq count sum : Nat) (env : Env) (w : W) : (refreshCloseOn seq count sum env w).1.ch.mon = w.ch.mon := by
  unfold refreshCloseOn
  (try dsimp only)
  (repeat' split) <;> first | simp | rfl

@[simp] theorem refreshCloseOn_rest (seq count sum : Nat) (env : Env) (w : W) : (refreshCloseOn seq count sum env w).1.rest = w.rest := by
  unfold refreshCloseOn
  (try dsimp only)
  (repeat' split) <;> first | simp | rfl

@[simp] theorem refreshCloseOn_rule (seq count sum : Nat) (env : Env) (w : W) : (refreshCloseOn seq count sum env w).1.rule = w.rule := by
  unfold refreshCloseOn
  (try dsimp only)
  (repeat' split) <;> first | simp | rfl

@[simp] theorem refreshTimeout_mon (env : Env) (w : W) : (refreshTimeout env w).ch.mon = w.ch.mon := by
  unfold refreshTimeout
  (try dsimp only)
  (repeat' split) <;> first | simp | rfl

@[simp] theorem refreshTimeout_rest (env : Env) (w : W) : (refreshTimeout env w).rest = w.rest := by
  unfold refreshTimeout
  (try dsimp only)
  (repeat' split) <;> first | simp | rfl

@[simp] theorem refreshTimeout_rule (env : Env) (w : W) : (refreshTimeout env w).rule = w.rule := by
  unfold refreshTimeout
  (try dsimp only)
  (repeat' split) <;> first | simp | rfl

@[simp] theorem refreshTick_mon (w : W) : (refreshTick w).ch.mon = w.ch.mon := by
  unfold refreshTick
  (try dsimp only)
  (repeat' split) <;> first | simp | rfl

@[simp] theorem refreshTick_rest (w : W) : (refreshTick w).rest = w.rest := by
  unfold refreshTick
  (try dsimp only)
  (repeat' split) <;> first | simp | rfl

@[simp] theorem refreshTick_rule (w : W) : (refreshTick w).rule = w.rule := by
  unfold refreshTick
  (try dsimp only)
  (repeat' split) <;> first | simp | rfl

@[simp] theorem goStale_mon (env : Env) (w : W) : (goStale env w).ch.mon = w.ch.mon := by
  unfold goStale
  (try dsimp only)
  (repeat' split) <;> first | simp | rfl

@[simp] theorem goStale_rest (env : Env) (w : W) : (goStale env w).rest = w.rest := by
  unfold goStale
  (try dsimp only)
  (repeat' split) <;> first | simp | rfl

@[simp] theorem goStale_rule (env : Env) (w : W) : (goStale env w).rule = w.rule := by
  unfold goStale
  (try dsimp only)
  (repeat' split) <;> first | simp | rfl

@[simp] theorem goCurrent_mon (env : Env) (w : W) : (goCurrent env w).ch.mon = w.ch.mon := by
  unfold goCurrent
  (try dsimp only)
  (repeat' split) <;> first | simp | rfl

@[simp] theorem goCurrent_rest (env : Env) (w : W) : (goCurrent env w).rest = w.rest := by
  unfold goCurrent
  (try dsimp only)
  (repeat' split) <;> first | simp | rfl

@[simp] theorem goCurrent_rule (env : Env) (w : W) : (goCurrent env w).rule = w.rule := by
  unfold goCurrent
  (try dsimp only)
  (repeat' split) <;> first | simp | rfl

@[simp] theorem digestScanEnd_mon (env : Env) (w : W) : (digestScanEnd env w).ch.mon = w.ch.mon := by
  unfold digestScanEnd
  (try dsimp only)
  (repeat' split) <;> first | simp | rfl

@[simp] theorem digestScanEnd_rest (env : Env) (w : W) : (digestScanEnd env w).rest = w.rest := by
  unfold digestScanEnd
  (try dsimp only)
  (repeat' split) <;> first | simp | rfl

@[simp] theorem digestScanEnd_rule (env : Env) (w : W) : (digestScanEnd env w).rule = w.rule := by
  unfold digestScanEnd
  (try dsimp only)
  (repeat' split) <;> first | simp | rfl

@[simp] theorem scanVisit_mon (env : Env) (w : W) : (scanVisit env w).ch.mon = w.ch.mon := by
  unfold scanVisit
  (try dsimp only)
  (repeat' split) <;> first | simp | rfl

@[simp] theorem scanVisit_rest (env : Env) (w : W) : (scanVisit env w).rest = w.rest := by
  unfold scanVisit
  (try dsimp only)
  (repeat' split) <;> first | simp | rfl

@[simp] theorem scanVisit_rule (env : Env) (w : W) : (scanVisit env w).rule = w.rule := by
  unfold scanVisit
  (try dsimp only)
  (repeat' split) <;> first | simp | rfl

@[simp] theorem scanTick_mon (env : Env) (w : W) : (scanTick env w).ch.mon = w.ch.mon := by
  unfold scanTick
  (try dsimp only)
  (repeat' split) <;> first | simp | rfl

@[simp] theorem scanTick_rest (env : Env) (w : W) : (scanTick env w).rest = w.rest := by
  unfold scanTick
  (try dsimp only)
  (repeat' split) <;> first | simp | rfl

@[simp] theorem scanTick_rule (env : Env) (w : W) : (scanTick env w).rule = w.rule := by
  unfold scanTick
  (try dsimp only)
  (repeat' split) <;> first | simp | rfl

@[simp] theorem digestCheckOn_mon (addr : Option (Port × Nat)) (tag channel key count sum : Nat) (env : Env) (w : W) : (digestCheckOn addr tag channel key count sum env w).ch.mon = w.ch.mon := by
  unfold digestCheckOn
  (try dsimp only)
  (repeat' split) <;> first | simp | rfl

@[simp] theorem digestCheckOn_rest (addr : Option (Port × Nat)) (tag channel key count sum : Nat) (env : Env) (w : W) : (digestCheckOn addr tag channel key count sum env w).rest = w.rest := by
  unfold digestCheckOn
  (try dsimp only)
  (repeat' split) <;> first | simp | rfl

@[simp] theorem digestCheckOn_rule (addr : Option (Port × Nat)) (tag channel key count sum : Nat) (env : Env) (w : W) : (digestCheckOn addr tag channel key count sum env w).rule = w.rule := by
  unfold digestCheckOn
  (try dsimp only)
  (repeat' split) <;> first | simp | rfl

/-! ## The Mirror Engine's changes to the running order leave the mirror record alone -/

@[simp] theorem pinClose_mirror (env : Env) (id duration : Nat) (w : W) : (pinClose env id duration w).ch.mirror = w.ch.mirror := by
  unfold pinClose
  (try dsimp only)
  (repeat' split) <;> first | simp | rfl

@[simp] theorem cancelCued_mirror (env : Env) (test : Item → Bool) (w : W) : (cancelCued env test w).ch.mirror = w.ch.mirror := by
  unfold cancelCued
  (try dsimp only)
  (repeat' split) <;> first | simp | rfl

@[simp] theorem forgetTries_mirror (test : Item → Bool) (w : W) : (forgetTries test w).ch.mirror = w.ch.mirror := by
  unfold forgetTries
  simp

@[simp] theorem cancelLanding_mirror (env : Env) (test : Item → Bool) (w : W) : (cancelLanding env test w).ch.mirror = w.ch.mirror := by
  unfold cancelLanding
  (try dsimp only)
  (repeat' split) <;> first | simp | rfl

@[simp] theorem cancelTouched_mirror (env : Env) (id : Nat) (onAir held : Bool) (w : W) : (cancelTouched env id onAir held w).ch.mirror = w.ch.mirror := by
  unfold cancelTouched
  (try dsimp only)
  (repeat' split) <;> first | simp | rfl

@[simp] theorem sweepChange_mirror (env : Env) (before : Chan) (id : Nat) (changed : Bool) (w : W) : (sweepChange env before id changed w).ch.mirror = w.ch.mirror := by
  unfold sweepChange
  (try dsimp only)
  (repeat' split) <;> first | simp | rfl

@[simp] theorem currentChanged_mirror (env : Env) (before : Chan) (id : Nat) (onAir held changed : Bool) (w : W) : (currentChanged env before id onAir held changed w).ch.mirror = w.ch.mirror := by
  unfold currentChanged
  (try dsimp only)
  (repeat' split) <;> first | simp | rfl

@[simp] theorem putCurrent_mirror (env : Env) (p : Put) (w : W) : (putCurrent env p w).1.ch.mirror = w.ch.mirror := by
  unfold putCurrent
  (try dsimp only)
  (repeat' split) <;> first | simp | rfl

@[simp] theorem removeCurrent_mirror (env : Env) (id : Nat) (w : W) : (removeCurrent env id w).1.ch.mirror = w.ch.mirror := by
  unfold removeCurrent
  (try dsimp only)
  (repeat' split) <;> first | simp | rfl

@[simp] theorem opCurrent_mirror (env : Env) (op : BatchOp) (w : W) : (opCurrent env op w).1.ch.mirror = w.ch.mirror := by
  unfold opCurrent
  (try dsimp only)
  (repeat' split) <;> first | simp | rfl

@[simp] theorem runCurrentOps_mirror (env : Env) (ops : List BatchOp) (w : W) : (runCurrentOps env ops w).1.ch.mirror = w.ch.mirror := by
  induction ops generalizing w with
  | nil => rfl
  | cons op ops ih => unfold runCurrentOps; dsimp only; (repeat' split) <;> simp [ih]

@[simp] theorem pinCued_mirror (env : Env) (w : W) : (pinCued env w).ch.mirror = w.ch.mirror := by
  unfold pinCued
  rw [foldl_keeps (fun w => w.ch.mirror) _ (fun w x => by (repeat' split) <;> simp)]

@[simp] theorem commitCues_mirror (env : Env) (before : Chan) (new : List Event) (w : W) : (commitCues env before new w).ch.mirror = w.ch.mirror := by
  unfold commitCues
  (try dsimp only)
  (repeat' split) <;> first | simp | rfl

/-! ## Replies of the players -/

@[simp] theorem onCued_mirror (p : PlayerId) (f : Flight) (env : Env) (w : W) : (onCued p f env w).ch.mirror = w.ch.mirror := by
  unfold onCued
  (try dsimp only)
  (repeat' split) <;> first | simp | rfl

@[simp] theorem onCued_mon (p : PlayerId) (f : Flight) (env : Env) (w : W) : (onCued p f env w).ch.mon = w.ch.mon := by
  unfold onCued
  (try dsimp only)
  (repeat' split) <;> first | simp | rfl

@[simp] theorem onCued_rest (p : PlayerId) (f : Flight) (env : Env) (w : W) : (onCued p f env w).rest = w.rest := by
  unfold onCued
  (try dsimp only)
  (repeat' split) <;> first | simp | rfl

@[simp] theorem onCued_rule (p : PlayerId) (f : Flight) (env : Env) (w : W) : (onCued p f env w).rule = w.rule := by
  unfold onCued
  (try dsimp only)
  (repeat' split) <;> first | simp | rfl

@[simp] theorem setReadiness_mirror (id : Nat) (r : Readiness) (w : W) : (W.setReadiness id r w).ch.mirror = w.ch.mirror := by
  unfold W.setReadiness
  (try dsimp only)
  (repeat' split) <;> first | simp | rfl

@[simp] theorem setReadiness_mon (id : Nat) (r : Readiness) (w : W) : (W.setReadiness id r w).ch.mon = w.ch.mon := by
  unfold W.setReadiness
  (try dsimp only)
  (repeat' split) <;> first | simp | rfl

@[simp] theorem setReadiness_rest (id : Nat) (r : Readiness) (w : W) : (W.setReadiness id r w).rest = w.rest := by
  unfold W.setReadiness
  (try dsimp only)
  (repeat' split) <;> first | simp | rfl

@[simp] theorem setReadiness_rule (id : Nat) (r : Readiness) (w : W) : (W.setReadiness id r w).rule = w.rule := by
  unfold W.setReadiness
  (try dsimp only)
  (repeat' split) <;> first | simp | rfl

@[simp] theorem onCueFailed_mirror (p : PlayerId) (reason : CueReason) (f : Flight) (_env : Env) (w : W) : (onCueFailed p reason f _env w).ch.mirror = w.ch.mirror := by
  unfold onCueFailed
  (try dsimp only)
  (repeat' split) <;> first | simp | rfl

@[simp] theorem onCueFailed_mon (p : PlayerId) (reason : CueReason) (f : Flight) (_env : Env) (w : W) : (onCueFailed p reason f _env w).ch.mon = w.ch.mon := by
  unfold onCueFailed
  (try dsimp only)
  (repeat' split) <;> first | simp | rfl

@[simp] theorem onCueFailed_rest (p : PlayerId) (reason : CueReason) (f : Flight) (_env : Env) (w : W) : (onCueFailed p reason f _env w).rest = w.rest := by
  unfold onCueFailed
  (try dsimp only)
  (repeat' split) <;> first | simp | rfl

@[simp] theorem onCueFailed_rule (p : PlayerId) (reason : CueReason) (f : Flight) (_env : Env) (w : W) : (onCueFailed p reason f _env w).rule = w.rule := by
  unfold onCueFailed
  (try dsimp only)
  (repeat' split) <;> first | simp | rfl

@[simp] theorem onStopped_mirror (p : PlayerId) (f : Flight) (env : Env) (w : W) : (onStopped p f env w).ch.mirror = w.ch.mirror := by
  unfold onStopped
  (try dsimp only)
  (repeat' split) <;> first | simp | rfl

@[simp] theorem onStopped_mon (p : PlayerId) (f : Flight) (env : Env) (w : W) : (onStopped p f env w).ch.mon = w.ch.mon := by
  unfold onStopped
  (try dsimp only)
  (repeat' split) <;> first | simp | rfl

@[simp] theorem onStopped_rest (p : PlayerId) (f : Flight) (env : Env) (w : W) : (onStopped p f env w).rest = w.rest := by
  unfold onStopped
  (try dsimp only)
  (repeat' split) <;> first | simp | rfl

@[simp] theorem onStopped_rule (p : PlayerId) (f : Flight) (env : Env) (w : W) : (onStopped p f env w).rule = w.rule := by
  unfold onStopped
  (try dsimp only)
  (repeat' split) <;> first | simp | rfl

@[simp] theorem onAnswer_mirror (p : PlayerId) (found : Bool) (length : Nat) (f : Flight) (env : Env) (w : W) : (onAnswer p found length f env w).ch.mirror = w.ch.mirror := by
  unfold onAnswer
  (try dsimp only)
  (repeat' split) <;> first | simp | rfl

@[simp] theorem onAnswer_mon (p : PlayerId) (found : Bool) (length : Nat) (f : Flight) (env : Env) (w : W) : (onAnswer p found length f env w).ch.mon = w.ch.mon := by
  unfold onAnswer
  (try dsimp only)
  (repeat' split) <;> first | simp | rfl

@[simp] theorem onAnswer_rest (p : PlayerId) (found : Bool) (length : Nat) (f : Flight) (env : Env) (w : W) : (onAnswer p found length f env w).rest = w.rest := by
  unfold onAnswer
  (try dsimp only)
  (repeat' split) <;> first | simp | rfl

@[simp] theorem onAnswer_rule (p : PlayerId) (found : Bool) (length : Nat) (f : Flight) (env : Env) (w : W) : (onAnswer p found length f env w).rule = w.rule := by
  unfold onAnswer
  (try dsimp only)
  (repeat' split) <;> first | simp | rfl

end Sys2Proof.Machine
end

