-- ==== Sys2Proof/Laws/Hands.lean ====
section
/-! SUPPORT. A player that is not IDLE keeps its record while items are lost, cued and put on air around it. -/

namespace Sys2Proof.Machine

open Sys2Proof

set_option linter.all false

/-- What a player's record says of its item: all but its requests and its counts. -/
def Player.hold (x : Player) := (x.state, x.loaded, x.roll, x.endF, x.stopF, x.stopConfirmed)

/-- Both players' records. -/
def W.hands (w : W) := (w.ch.seq.a, w.ch.seq.b)

theorem hands_player {w v : W} (h : w.hands = v.hands) (p : PlayerId) : w.player p = v.player p := by
  simp only [W.hands, Prod.mk.injEq] at h
  cases p
  · exact h.1
  · exact h.2

theorem foldl_hands {α : Type} (f : W → α → W) (hf : ∀ w x, (f w x).hands = w.hands) (l : List α) (w : W) :
    (l.foldl f w).hands = w.hands := foldl_keeps W.hands f hf l w

@[simp] theorem modStore_hands (w : W) (f : Store → Store) : (w.modStore f).hands = w.hands := rfl
@[simp] theorem modTrig_hands (w : W) (f : Triggers → Triggers) : (w.modTrig f).hands = w.hands := rfl
@[simp] theorem modCtl_hands (w : W) (f : Ctl → Ctl) : (w.modCtl f).hands = w.hands := rfl
@[simp] theorem emit_hands (w : W) (e : Effect) : (w.emit e).hands = w.hands := rfl
@[simp] theorem emit_player (w : W) (e : Effect) (p : PlayerId) : (w.emit e).player p = w.player p := rfl
@[simp] theorem modSeq_hands (w : W) (f : Seq → Seq) (h : ∀ q, (f q).a = q.a ∧ (f q).b = q.b) :
    (w.modSeq f).hands = w.hands := by
  simp [W.hands, W.modSeq, W.modCh, h]

@[simp] theorem record_hands (env : Env) (kind : AsRunKind) (event pass : Nat) (offset : Int) (source : AsRunSource) (detail : Detail) (trigger : Option Nat) (w : W) : (W.record env kind event pass offset source detail trigger w).hands = w.hands := by
  unfold W.record
  (try dsimp only)
  (repeat' split) <;> first | simp | rfl

@[simp] theorem itemRecord_hands (env : Env) (kind : AsRunKind) (event pass : Nat) (offset : Int) (source : AsRunSource) (detail : Detail) (w : W) : (W.itemRecord env kind event pass offset source detail w).hands = w.hands := by
  unfold W.itemRecord
  (try dsimp only)
  (repeat' split) <;> first | simp | rfl

@[simp] theorem setMark_hands (event i : Nat) (m : Option Frame) (w : W) : (W.setMark event i m w).hands = w.hands := by
  unfold W.setMark
  (try dsimp only)
  (repeat' split) <;> first | simp | rfl

@[simp] theorem dropPending_hands (leaves : PendTrig → Bool) (w : W) : (W.dropPending leaves w).hands = w.hands := by
  unfold W.dropPending
  dsimp only
  rw [foldl_hands _ (fun w x => by simp)]
  simp

@[simp] theorem dropOwner_hands (i : Item) (w : W) : (W.dropOwner i w).hands = w.hands := by
  unfold W.dropOwner
  (try dsimp only)
  (repeat' split) <;> first | simp | rfl

@[simp] theorem trigRecord_hands (env : Env) (event pass offset : Nat) (source : AsRunSource) (o : TrigOutcome) (code : Nat) (w : W) : (W.trigRecord env event pass offset source o code w).hands = w.hands := by
  unfold W.trigRecord
  (try dsimp only)
  (repeat' split) <;> first | simp | rfl

@[simp] theorem judgeOne_hands (env : Env) (it : Item) (aired : Frame) (e : Event) (index : Nat) (t : Trig) (frame : Frame) (w : W) : (judgeOne env it aired e index t frame w).hands = w.hands := by
  unfold judgeOne
  (try dsimp only)
  (repeat' split) <;> first | simp | rfl

/-- The newest queued STOP alone takes the stop frame, and keeps its tag and place (R108). -/
theorem moveStop_newest (frame old : Frame) (tag : Nat) (a b : List (Nat × PReq)) (h : ∀ x ∈ b, x.2.isStop = false) :
    moveStop frame (a ++ (tag, .stop old) :: b) = a ++ (tag, .stop frame) :: b := by
  induction a with
  | nil =>
    have hb : b.any (fun x => x.2.isStop) = false := List.any_eq_false.mpr fun x hx => by simp [h x hx]
    simp only [List.nil_append, moveStop, hb]; rfl
  | cons y ys ih =>
    have hs : (ys ++ (tag, PReq.stop old) :: b).any (fun x => x.2.isStop) = true := by
      simp only [List.any_append, List.any_cons]; simp [show (PReq.stop old).isStop = true from rfl]
    simp only [List.cons_append, moveStop, hs, ih]; simp

/-- A second STOP for the same item while the first is queued replaces the first's stop frame (R108). -/
theorem issueStop_own (env : Env) (p : PlayerId) (frame : Frame) (w : W) (h : (w.player p).ownStopQueued = true) :
    issueStop env p frame w = w.modPlayer p fun x =>
      { x with stopF := some frame, stopConfirmed := false, queue := moveStop frame x.queue } := by
  unfold issueStop; rw [if_pos h]; cases p <;> rfl

/-- Any other STOP takes a fresh tag and joins the queue, where that has room (R106, R108). -/
theorem issueStop_fresh (env : Env) (p : PlayerId) (frame : Frame) (w : W) (h : (w.player p).ownStopQueued = false)
    (r : (w.player p).queue.length < Config.playerQueue) :
    issueStop env p frame w =
      submit env p (.stop frame) (w.modPlayer p fun x => { x with stopF := some frame, stopConfirmed := false }) := by
  unfold issueStop; simp [h, hasRoom, makeRoom, r]

@[simp] theorem judgeAgain_hands (env : Env) (old : List PendTrig) (it : Item) (aired : Frame) (e : Event) (index : Nat) (t : Trig) (frame : Frame) (w : W) :
    (judgeAgain env old it aired e index t frame w).hands = w.hands := by
  unfold judgeAgain
  split <;> simp

@[simp] theorem judgeTriggers_hands (env : Env) (old : List PendTrig) (it : Item) (aired : Frame) (w : W) :
    (judgeTriggers env old it aired w).hands = w.hands := by
  unfold judgeTriggers
  (repeat' split) <;> first | rfl | (rw [foldl_hands _ (fun w x => by (try dsimp only); split <;> simp)])

@[simp] theorem judgeItem_hands (env : Env) (it : Item) (aired : Frame) (w : W) : (judgeItem env it aired w).hands = w.hands :=
  judgeTriggers_hands env [] it aired w

@[simp] theorem rejudge_hands (env : Env) (w : W) : (rejudge env w).hands = w.hands := by
  unfold rejudge
  (try dsimp only)
  (repeat' split) <;> first | simp | rfl

@[simp] theorem addSpent_hands (i : Item) (due : Option (Frame × Frame)) (w : W) : (W.addSpent i due w).hands = w.hands := by
  unfold W.addSpent
  (try dsimp only)
  (repeat' split) <;> first | simp | rfl

@[simp] theorem modLanding_hands (f : Item → Item) (w : W) : (W.modLanding f w).hands = w.hands := by
  unfold W.modLanding
  (try dsimp only)
  (repeat' split) <;> first | simp | rfl

@[simp] theorem leaveRecord_hands (env : Env) (o : OnAir) (w : W) : (leaveRecord env o w).hands = w.hands := by
  unfold leaveRecord
  (try dsimp only)
  (repeat' split) <;> first | simp | rfl

@[simp] theorem leaveAir_hands (env : Env) (w : W) : (leaveAir env w).hands = w.hands := by
  unfold leaveAir
  (try dsimp only)
  (repeat' split) <;> first | simp | rfl

@[simp] theorem uncueLanding_hands (f : Item → Item) (w : W) : (W.uncueLanding f w).hands = w.hands := rfl

@[simp] theorem itemAgain_hands (again : Bool) (p : PlayerId) (avoid : Option PlayerId) (i : Item) (w : W) :
    (itemAgain again p avoid i w).hands = w.hands := by
  unfold itemAgain
  (try dsimp only)
  (repeat' split) <;> first | simp | rfl

@[simp] theorem itemReturned_hands (p : PlayerId) (avoid : Option PlayerId) (i : Item) (w : W) : (itemReturned p avoid i w).hands = w.hands := by
  unfold itemReturned
  simp

@[simp] theorem takePointer_hands (env : Env) (w : W) : (takePointer env w).hands = w.hands := by
  unfold takePointer
  (try dsimp only)
  (repeat' split) <;> first | simp | rfl

@[simp] theorem loseWhole_hands (env : Env) (i : Item) (w : W) : (loseWhole env i w).hands = w.hands := by
  unfold loseWhole
  (try dsimp only)
  (repeat' split) <;> first | simp | rfl

@[simp] theorem startRecords_hands (env : Env) (i : Item) (w : W) : (startRecords env i w).hands = w.hands := by
  unfold startRecords
  (try dsimp only)
  (repeat' split) <;> first | simp | rfl

@[simp] theorem setAnchorFrom_hands (env : Env) (i : Item) (w : W) : (setAnchorFrom env i w).hands = w.hands := by
  unfold setAnchorFrom
  (try dsimp only)
  (repeat' split) <;> first | simp | rfl

@[simp] theorem putOnAir_hands (env : Env) (i : Item) (w : W) : (putOnAir env i w).hands = w.hands := by
  unfold putOnAir
  (try dsimp only)
  (repeat' split) <;> first | simp | rfl

@[simp] theorem putWait_hands (env : Env) (i : Option Item) (w : W) : (putWait env i w).hands = w.hands := by
  unfold putWait
  (try dsimp only)
  (repeat' split) <;> first | simp | rfl

@[simp] theorem nextBreak_hands (env : Env) (w : W) : (nextBreak env w).hands = w.hands := by
  unfold nextBreak
  (try dsimp only)
  (repeat' split) <;> first | simp | rfl

@[simp] theorem nextItem_hands (env : Env) (w : W) : (nextItem env w).hands = w.hands := by
  unfold nextItem
  (try dsimp only)
  (repeat' split) <;> first | simp | rfl

theorem landingOver_hands (env : Env) (w : W) (h : ∀ l, w.ch.seq.landing = some l → l.item.isPass = false) :
    (landingOver env w).hands = w.hands := by
  unfold landingOver
  split
  · rename_i l hl
    dsimp only
    rw [h l hl, if_neg (by simp)]
    simp
  · rfl

theorem landPlaying_hands (env : Env) (w : W) : ∀ v, landPlaying env w = some v → v.hands = w.hands := by
  intro v h
  unfold landPlaying at h
  (repeat' split at h) <;> simp at h <;> (try subst h) <;> simp <;> rfl

/-- What goes on air at a boundary touches no player, but where a PASS landing's end has come. -/
theorem nextOnAir_hands (env : Env) (w : W)
    (h : w.mode ≠ .breakIn → ∀ l, w.ch.seq.landing = some l → l.item.isPass = false) :
    (nextOnAir env w).hands = w.hands := by
  unfold nextOnAir
  split
  · rfl
  · split
    · simp
    · rename_i hm
      have hl := landingOver_hands env w (h hm)
      split
      · split
        · rfl
        · unfold landNow
          split
          · rename_i v hv; exact landPlaying_hands env w v hv
          · (repeat' split) <;> first | simp [hl] | rfl
      · simp

@[simp] theorem syncPasses_hands (w : W) : (syncPasses w).hands = w.hands := rfl

@[simp] theorem syncLife_hands (w : W) : (syncLife w).hands = w.hands := by
  unfold syncLife syncWait
  dsimp only
  rw [modStore_hands, syncPasses_hands]
  (repeat' split) <;> first | simp | rfl

theorem breakLost_hands (edge : Frame) (w : W) : ∀ v, breakLost edge w = some v → v.hands = w.hands := by
  intro v h
  unfold breakLost at h
  (repeat' split at h) <;> simp at h <;> (try subst h) <;> simp

theorem landingLost_hands (env : Env) (edge : Frame) (w : W) : ∀ v, landingLost env edge w = some v → v.hands = w.hands := by
  intro v h
  unfold landingLost at h
  (repeat' split at h) <;> simp at h <;> (try subst h) <;> simp

theorem pointerLost_hands (env : Env) (edge : Frame) (w : W) : ∀ v, pointerLost env edge w = some v → v.hands = w.hands := by
  intro v h
  unfold pointerLost at h
  (repeat' split at h) <;> simp at h <;> (try subst h) <;> simp

theorem itemLostOnce_hands (env : Env) (w : W) : ∀ v, itemLostOnce env w = some v → v.hands = w.hands := by
  intro v h
  unfold itemLostOnce at h
  dsimp only at h
  split at h
  · rename_i h'; cases h; exact breakLost_hands _ w v h'
  · split at h
    · rename_i h'; cases h; exact landingLost_hands env _ w v h'
    · exact pointerLost_hands env _ w v h

@[simp] theorem loseItems_hands (env : Env) (n : Nat) (w : W) : (loseItems env n w).hands = w.hands := by
  induction n generalizing w with
  | zero => rfl
  | succ n ih =>
    unfold loseItems
    split
    · rename_i v h; rw [ih, itemLostOnce_hands env w v h]
    · rfl

theorem waitsInVain_landing {c : Chan} {now : Frame} (h : c.waitsInVain now = true) (hm : c.ctl.mode ≠ .breakIn) :
    ∀ l, c.seq.landing = some l → l.item.isPass = false := by
  intro l hl
  unfold Chan.waitsInVain at h
  rw [if_neg hm, hl] at h
  simp at h
  exact h.2

@[simp] theorem itemLost_hands (env : Env) (w : W) : (itemLost env w).hands = w.hands := by
  unfold itemLost
  dsimp only
  split
  · split
    · rename_i h; rw [nextOnAir_hands env _ (waitsInVain_landing h.2), loseItems_hands]
    · simp
  · simp

/-! ## A busy player -/

/-- A player that is not IDLE has the record it had, but for its requests and counts. -/
def Busy (p : PlayerId) (w v : W) : Prop :=
  (w.player p).state ≠ .idle → (v.player p).hold = (w.player p).hold

/-- A player in FAULT has the record it had. -/
def Dead (p : PlayerId) (w v : W) : Prop := (w.player p).state = .fault → v.player p = w.player p

/-- Both. -/
def Left (p : PlayerId) (w v : W) : Prop := Busy p w v ∧ Dead p w v

theorem Left.refl (p : PlayerId) (w : W) : Left p w w := ⟨fun _ => rfl, fun _ => rfl⟩

theorem Left.of_hands {p : PlayerId} {w v : W} (h : v.hands = w.hands) : Left p w v := by
  have := hands_player h p
  exact ⟨fun _ => by rw [this], fun _ => this⟩

theorem hold_state {x y : Player} (h : x.hold = y.hold) : x.state = y.state := congrArg Prod.fst h

theorem Left.trans {p : PlayerId} {u v w : W} (a : Left p u v) (b : Left p v w) : Left p u w := by
  refine ⟨fun h => ?_, fun h => ?_⟩
  · have h1 := a.1 h
    exact (b.1 (by rw [hold_state h1]; exact h)).trans h1
  · have h1 := a.2 h
    exact (b.2 (by rw [h1]; exact h)).trans h1

theorem modPlayer_other_hands {w : W} {p q : PlayerId} (h : q ≠ p) (f : Player → Player) :
    (w.modPlayer p f).player q = w.player q := W.modPlayer_other w p q f h

theorem sendNext_left (env : Env) (p q : PlayerId) (w : W) (hq : (w.player q).state ≠ .fault) : Left p w (sendNext env q w) := by
  unfold sendNext
  dsimp only
  split
  · by_cases h : p = q
    · subst h
      refine ⟨fun _ => ?_, fun h => absurd h hq⟩
      rw [emit_player, W.modPlayer_player]; rfl
    · refine ⟨fun _ => ?_, fun _ => ?_⟩
      · rw [emit_player, W.modPlayer_other _ _ _ _ h]
      · rw [emit_player, W.modPlayer_other _ _ _ _ h]
  · exact Left.refl p w

theorem submit_left (env : Env) (p q : PlayerId) (r : PReq) (w : W) (hq : (w.player q).state ≠ .fault) :
    Left p w (submit env q r w) := by
  unfold submit
  refine Left.trans (v := w.modPlayer q _) ?_ (sendNext_left env p q _ (by rw [W.modPlayer_player]; exact hq))
  by_cases h : p = q
  · subst h
    exact ⟨fun _ => by rw [W.modPlayer_player]; rfl, fun h => absurd h hq⟩
  · exact ⟨fun _ => by rw [W.modPlayer_other _ _ _ _ h], fun _ => W.modPlayer_other _ _ _ _ h⟩

/-- A cue issued to an IDLE player leaves a busy one alone. -/
theorem loadCue_left (env : Env) (p q : PlayerId) (i : Item) (handle : Nat) (roll : Frame) (w : W)
    (hq : (w.player q).state = .idle) : Left p w (loadCue env q i handle roll w) := by
  by_cases h : p = q
  · subst h
    exact ⟨fun h => absurd hq h, fun h => by rw [hq] at h; cases h⟩
  · have hm : ∀ (f : Player → Player) (v : W), (v.modPlayer q f).player p = v.player p :=
      fun f v => W.modPlayer_other v q p f h
    have key : (loadCue env q i handle roll w).player p = w.player p := by
      have hs : ∀ (r : PReq) (v : W), (submit env q r v).player p = v.player p := by
        intro r v
        unfold submit sendNext
        dsimp only
        split
        · rw [emit_player, hm, hm]
        · rw [hm]
      have hf : ∀ v : W, (failQueuedCue q v).player p = v.player p := by
        intro v
        unfold failQueuedCue clearCue
        dsimp only
        split
        · rw [hands_player (itemReturned_hands _ _ _ _), hm]
        · rfl
      unfold loadCue makeRoom
      dsimp only
      split
      · rw [hs]
        split
        · rw [hm]
        · rw [hm, hm]
      · rw [hf, hm]
    exact ⟨fun _ => by rw [key], fun _ => key⟩

theorem cued_left {env : Env} {p q : PlayerId} {i : Item} {handle : Nat} {roll : Frame} {w v x : W}
    (hq : (w.player q).state = .idle) (hv : v.hands = w.hands) (hx : x.hands = (loadCue env q i handle roll v).hands) :
    Left p w x :=
  ((Left.of_hands hv).trans (loadCue_left env p q i handle roll v (by rw [hands_player hv]; exact hq))).trans
    (Left.of_hands hx)

theorem freePlayer_idle {c : Chan} {a : Option PlayerId} {p : PlayerId} (h : c.freePlayer a = some p) :
    (c.seq.player p).state = .idle := by
  unfold Chan.freePlayer at h
  have := List.find?_some h
  simp [Chan.isFree] at this
  exact this.1

theorem cuePreroll_left (env : Env) (p q : PlayerId) (i : Item) (w : W) (hq : (w.player q).state = .idle) :
    Left p w (cuePreroll env q i w) := by
  unfold cuePreroll
  dsimp only
  split
  · exact Left.of_hands (by simp)
  · split
    · exact Left.of_hands (by simp)
    · split
      · exact Left.of_hands (by simp)
      · apply cued_left hq
        case hx => simp only [takePointer_hands, judgeItem_hands]; rfl
        case hv => exact modSeq_hands _ _ fun q => ⟨rfl, rfl⟩

theorem cueLanding_left (env : Env) (p : PlayerId) (w : W) : Left p w (cueLanding env w) := by
  unfold cueLanding
  dsimp only
  split
  · exact Left.refl p w
  · split
    · exact Left.refl p w
    · split
      · exact Left.refl p w
      · rename_i q hq
        have hi := freePlayer_idle hq
        split
        · exact Left.of_hands (by simp)
        · split
          · exact Left.of_hands (by simp)
          · split
            · exact Left.of_hands (by simp)
            · apply cued_left hi
              case hx => simp only [takePointer_hands, judgeItem_hands]; rfl
              case hv => simp

theorem cueBreak_left (env : Env) (p : PlayerId) (w : W) : Left p w (cueBreak env w) := by
  unfold cueBreak
  dsimp only
  split
  · exact Left.refl p w
  · split
    · exact Left.refl p w
    · split
      · exact Left.refl p w
      · rename_i q hq
        have hi := freePlayer_idle hq
        split
        · exact Left.of_hands (by simp)
        · apply cued_left hi
          case hx => rfl
          case hv => exact modSeq_hands _ _ fun q => ⟨rfl, rfl⟩

theorem lateCue_left (env : Env) (p : PlayerId) (w : W) : Left p w (lateCue env w) := by
  unfold lateCue
  dsimp only
  refine Left.trans ((cueBreak_left env p w).trans (cueLanding_left env p _)) ?_
  generalize cueLanding env (cueBreak env w) = v
  split
  · split
    · split
      · rename_i q hq; exact cuePreroll_left env p q _ v (freePlayer_idle hq)
      · exact Left.refl p v
    · exact Left.refl p v
  · exact Left.refl p v

theorem cueWindow_left (env : Env) (p : PlayerId) (w : W) : Left p w (cueWindow env w) := by
  unfold cueWindow
  split
  · split
    · split
      · rename_i q hq; exact cuePreroll_left env p q _ w (freePlayer_idle hq)
      · exact Left.refl p w
    · exact Left.refl p w
  · exact Left.refl p w

theorem sweepQuery_left (env : Env) (p : PlayerId) (w : W) : Left p w (sweepQuery env w) := by
  unfold sweepQuery
  split
  · exact Left.refl p w
  · split
    · exact Left.refl p w
    · split
      · exact Left.refl p w
      · rename_i e _ _ q hq
        have hf : (w.player q).state ≠ .fault := by
          have := List.find?_some hq
          simp [Player.quiet] at this
          exact this.1.1
        refine (submit_left env p q (.query e.sweepHandle) w hf).trans (Left.of_hands ?_)
        exact modSeq_hands _ _ fun q => ⟨rfl, rfl⟩

theorem cueAll_left (env : Env) (p : PlayerId) (n : Nat) (w : W) : Left p w (cueAll env n w) := by
  induction n generalizing w with
  | zero => exact Left.refl p w
  | succ n ih =>
    unfold cueAll
    dsimp only
    have h := (lateCue_left env p w).trans (cueWindow_left env p _)
    split
    · exact h
    · exact h.trans (ih _)

/-- What is lost, cued and asked leaves a busy player's record, and a player in FAULT, alone. -/
theorem pump_left (env : Env) (p : PlayerId) (w : W) : Left p w (pump env w) := by
  unfold pump
  dsimp only
  exact (((Left.of_hands (itemLost_hands env w)).trans (cueAll_left env p _ _)).trans
    (sweepQuery_left env p _)).trans (Left.of_hands (syncLife_hands _))

end Sys2Proof.Machine
end

