-- ==== Sys2Proof/Laws/Moves.lean ====
section
/-! SUPPORT. How each operation of the Channel Controller moves a channel's mode, switch, context, break-in, resume and expiry
(`W.rule`): everything that follows it keeps them; and that replies to cancelled cues leave a channel alone. -/

namespace Sys2Proof.Machine

open Sys2Proof

set_option linter.all false

theorem modCtl_rule (f : Ctl → Ctl) (w : W) : (w.modCtl f).rule =
    ((f w.ch.ctl).mode, (f w.ch.ctl).switch, (f w.ch.ctl).ctx, (f w.ch.ctl).monitor, (f w.ch.ctl).pendingBreak,
      (f w.ch.ctl).resume, (f w.ch.ctl).expiry) := rfl

/-- The Channel Controller's state but for the handed landing, of equal rules. -/
theorem rule_ctl {w v : W} (h : w.rule = v.rule) :
    w.ch.ctl.mode = v.ch.ctl.mode ∧ w.ch.ctl.switch = v.ch.ctl.switch ∧ w.ch.ctl.ctx = v.ch.ctl.ctx ∧
      w.ch.ctl.monitor = v.ch.ctl.monitor ∧ w.ch.ctl.pendingBreak = v.ch.ctl.pendingBreak ∧
      w.ch.ctl.resume = v.ch.ctl.resume ∧ w.ch.ctl.expiry = v.ch.ctl.expiry := by
  simp only [W.rule, Prod.mk.injEq] at h; exact h

theorem startJoining_rule (env : Env) (sw : Switch) (least : Frame) (w : W) :
    (startJoining env sw least w).rule = (w.modCtl fun c =>
      { c with switch := some { sw with target := max sw.target least }, mode := .joining }).rule := by
  unfold startJoining; simp

theorem joiningStart_due (env : Env) (w : W) (s : Switch) (h : joiningDue env w.ch = some s) :
    (joiningStart env w).rule = (w.modCtl fun c =>
      { c with switch := some { s with target := max s.target (env.now + env.cp.lead) }, mode := .joining }).rule := by
  unfold joiningStart; rw [h]; simp [startJoining_rule]

theorem joiningStart_idle (env : Env) (w : W) (h : joiningDue env w.ch = none) : joiningStart env w = w := by
  unfold joiningStart; rw [h]

theorem autoTakeover_rule (env : Env) (w : W) : (autoTakeover env w).rule = (w.modCtl fun c =>
    { c with mode := .joining, switch := some { kind := .takeover, cause := .auto, force := true, target :=
      if env.cp.standby = .hot ∧ w.ch.seq.shadow = true then env.now + 1 else env.now + env.cp.lead } }).rule := by
  unfold autoTakeover; simp [startJoining_rule, modCtl_rule]

theorem failureJoin_rule (env : Env) (w : W) (s : Switch) (h : w.ch.ctl.switch = some s) :
    ∃ x, (failureJoin env w).rule = (w.modCtl fun c => { c with switch := some x }).rule ∧ x.kind = s.kind ∧
      x.force = true ∧ x.target = min s.target (env.now + env.cp.lead) := by
  unfold failureJoin
  rw [h]
  dsimp only
  split
  · rename_i hc
    simp only [Bool.and_eq_true, Bool.not_eq_true', decide_eq_false_iff_not, Decidable.not_not] at hc
    refine ⟨s, ?_, rfl, hc.1, hc.2.symm⟩
    simp [modCtl_rule, ← h]; rfl
  · refine ⟨{ s with target := min s.target (env.now + env.cp.lead), force := true, cause := .auto }, ?_, rfl, rfl, rfl⟩
    simp only [pump_rule, modeNotice_rule]
    split
    · simp
    · rfl

theorem releasePlayer_rule (env : Env) (target : Frame) (p : PlayerId) (w : W) :
    (releasePlayer env target p w).rule = w.rule := by
  unfold releasePlayer; dsimp only; split <;> [(split <;> simp); rfl]

theorem cancelHandback_rule (env : Env) (why : Detail) (w : W) (s : Switch) (h : w.ch.ctl.switch = some s) :
    (cancelHandback env why w).rule = (w.modCtl fun c => { c with switch := none, mode := .takeover }).rule := by
  unfold cancelHandback; rw [h]; simp [releasePlayer_rule, cancelRecord]

theorem withdrawBreak_rule (env : Env) (target : Frame) (w : W) :
    (withdrawBreak env target w).rule = (w.modCtl fun c => { c with pendingBreak := none }).rule := by
  unfold withdrawBreak
  cases h : w.ch.ctl.pendingBreak with
  | none => simp [modCtl_rule, ← h]; rfl
  | some b =>
    dsimp only
    have back : ∀ (p : PlayerId) (v : W), (match (v.player p).endF with
        | some t => if (v.player p).state = PState.playing ∧ (v.player p).stopF = some b.b ∧ t ≤ target then
            issueStop env p t v else v
        | none => v).rule = v.rule := by
      intro p v; split <;> [(split <;> simp); rfl]
    refine (back .b _).trans ((back .a _).trans ?_)
    split <;> simp [modCtl_rule, W.modSeq, W.modCh, cancelItem_rule] <;>
      (have := rule_ctl (cancelItem_rule env ‹Item› w); simp_all)

theorem stopAtTarget_rule (env : Env) (target : Frame) (p : PlayerId) (w : W) :
    (stopAtTarget env target p w).rule = w.rule := by
  unfold stopAtTarget; dsimp only; split <;> simp

theorem startReturning_rule (env : Env) (s : Switch) (w : W) : (startReturning env s w).rule = (w.modCtl fun c =>
    { c with switch := some s, mode := .returning, pendingBreak := none }).rule := by
  unfold startReturning
  simp only [pump_rule, takePointer_rule, stopAtTarget_rule, withdrawBreak_rule]
  have := rule_ctl (modeNotice_rule env .takeover .returning (switchModeCause s.cause) none
    (w.modCtl fun c => { c with switch := some s, mode := .returning }))
  simp only [modCtl_rule]
  simp_all [W.modCtl, W.modCh]

theorem landingRecord_rule (env : Env) (kind : AsRunKind) (detail : Detail) (w : W) :
    (landingRecord env kind detail w).rule = w.rule := by
  unfold landingRecord; (repeat' split) <;> simp

theorem landOnAir_rule (env : Env) (w : W) : (landOnAir env w).rule = w.rule := by
  unfold landOnAir
  split
  · rename_i v h; exact (base_parts (landPlaying_base env w v h)).2.2.2
  · dsimp only; (repeat' split) <;> simp

theorem joiningTarget_due (env : Env) (w : W) (s : Switch) (h : targetDue env .joining w.ch = some s) :
    (joiningTarget env w).rule = (w.modCtl fun c => { c with switch := none, mode := .takeover }).rule := by
  unfold joiningTarget; rw [h]
  simp only [settle_rule, modeNotice_rule, landOnAir_rule, landingRecord_rule, modCtl_rule]
  have := rule_ctl ((othersLeave_rule env (playersLeave env w)).trans (playersLeave_rule env w))
  simp_all

theorem dropCue_rule (env : Env) (p : PlayerId) (w : W) : (dropCue env p w).rule = w.rule := by
  unfold dropCue; dsimp only; split <;> simp

theorem handbackTarget_due (env : Env) (w : W) (s : Switch) (h : targetDue env .returning w.ch = some s) :
    (handbackTarget env w).rule = (w.modCtl fun c => { c with switch := none, mode := .mirror }).rule := by
  unfold handbackTarget; rw [h]
  simp only [settle_rule, syncLife_rule, dropPending_rule, endContext_rule, modeNotice_rule, modCtl_rule]
  have := rule_ctl ((record_rule env .handback 0 0 0 .main (.handback s.cause s.force) none
    (dropCue env .b (dropCue env .a (leaveAir env (othersLeave env (playersLeave env w)))))).trans
    ((dropCue_rule _ _ _).trans ((dropCue_rule _ _ _).trans ((leaveAir_rule _ _).trans
      ((othersLeave_rule _ _).trans (playersLeave_rule _ _))))))
  simp_all

theorem beginResume_rule (env : Env) (cause : ResumeCause) (mode : ResumeMode) (r : Frame) (w : W) (x : Saved)
    (h : w.ch.ctl.ctx = some x) : (beginResume env cause mode r w).rule =
    (w.modCtl fun c => { c with resume := some { cause := cause, mode := mode, r := r } }).rule := by
  unfold beginResume; rw [h]; dsimp only; split <;> simp

theorem breakStart_due (env : Env) (w : W) (b : PendingBreak) (hp : w.ch.ctl.pendingBreak = some b)
    (hm : w.ch.ctl.mode = .takeover) (hb : b.b ≤ env.now) : (breakStart env w).rule = (w.modCtl fun c =>
      { c with ctx := some (savedContext env b.mode w.ch), expiry := b.duration.map fun d => b.b + (d : Frame),
               pendingBreak := none, mode := .breakIn }).rule := by
  have hm' : w.mode = .takeover := hm
  unfold breakStart
  rw [hp]
  dsimp only
  rw [if_neg (by simp [hm']; exact hb)]
  simp only [settle_rule, syncLife_rule, modeNotice_rule, record_rule]
  rw [modCtl_rule, modCtl_rule]
  generalize hv : leaveAir env (othersLeave env (playersLeave env (w.modTrig fun t => { pending := [], held := t.pending }))) = v
  have r0 : v.rule = w.rule := by rw [← hv]; simp
  have r1 : ∀ (u : W), (nextBreak env (playerRoll env b.player u)).rule = u.rule := fun u => by simp
  have r2 := rule_ctl (r1 ((v.modCtl fun c => { c with ctx := some (savedContext env b.mode w.ch), expiry := b.duration.map fun d => b.b + (d : Frame) }).modSeq fun q => { q with landing := none }))
  obtain ⟨a1, a2, a3, a4, a5, a6, a7⟩ := r2
  obtain ⟨b1, b2, b3, b4, b5, b6, b7⟩ := rule_ctl r0
  simp only [Prod.mk.injEq, true_and]
  refine ⟨a2.trans b2, a3, a4.trans b4, a6.trans b6, a7⟩

theorem breakStart_idle (env : Env) (w : W) (h : ∀ b, w.ch.ctl.pendingBreak = some b → w.ch.ctl.mode ≠ .takeover ∨ env.now < b.b) :
    breakStart env w = w := by
  unfold breakStart
  cases hp : w.ch.ctl.pendingBreak with
  | none => rfl
  | some b => exact if_pos (h b hp)

theorem dropBreakClip_rule (env : Env) (w : W) : (dropBreakClip env w).rule = w.rule := by
  unfold dropBreakClip; split
  · dsimp only; split <;> simp
  · rfl

theorem breakEnd_due (env : Env) (w : W) (x : Resume) (hm : w.ch.ctl.mode = .breakIn) (hr : w.ch.ctl.resume = some x)
    (h : x.r ≤ env.now) : (breakEnd env w).rule = (w.modCtl fun c =>
      { c with ctx := none, resume := none, expiry := none, mode := .takeover }).rule := by
  have hm' : w.mode = .breakIn := hm
  unfold breakEnd
  rw [hm', hr]
  dsimp only
  rw [if_neg (Int.not_lt.mpr h)]
  simp only [settle_rule, syncLife_rule, modeNotice_rule, landOnAir_rule, landingRecord_rule, modCtl_rule]
  have := rule_ctl ((dropBreakClip_rule env (leaveAir env (othersLeave env (playersLeave env w)))).trans
    ((leaveAir_rule _ _).trans ((othersLeave_rule _ _).trans (playersLeave_rule _ _))))
  simp_all

theorem breakEnd_idle (env : Env) (w : W) (h : ∀ x, w.ch.ctl.mode = .breakIn → w.ch.ctl.resume = some x → env.now < x.r) :
    breakEnd env w = w := by
  unfold breakEnd
  split
  · rename_i x hm hr; rw [if_pos (h x hm hr)]
  · rfl

theorem breakExpiry_due (env : Env) (w : W) (e : Frame) (x : Saved) (hm : w.ch.ctl.mode = .breakIn)
    (he : w.ch.ctl.expiry = some e) (hr : w.ch.ctl.resume = none) (hc : w.ch.ctl.ctx = some x)
    (h : e - (env.cp.lead + env.cp.margin) ≤ env.now) : (breakExpiry env w).rule = (w.modCtl fun c =>
      { c with resume := some { cause := .expiry, mode := x.mode, r := e } }).rule := by
  have hm' : w.mode = .breakIn := hm
  unfold breakExpiry
  rw [hm', he, hr, hc]
  dsimp only
  rw [if_pos h, beginResume_rule _ _ _ _ _ _ hc]

/-- Either the expiry begins its resume, or nothing happens. -/
theorem breakExpiry_cases (env : Env) (w : W) : breakExpiry env w = w ∨ ∃ e x, w.ch.ctl.mode = .breakIn ∧
    w.ch.ctl.resume = none ∧ w.ch.ctl.ctx = some x ∧ (breakExpiry env w).rule = (w.modCtl fun c =>
      { c with resume := some { cause := .expiry, mode := x.mode, r := e } }).rule := by
  unfold breakExpiry
  split
  · rename_i e s hm he hr hc
    split
    · exact Or.inr ⟨e, s, hm, hr, hc, beginResume_rule _ _ _ _ _ _ hc⟩
    · exact Or.inl rfl
  · exact Or.inl rfl

theorem clearForBreak_rule (env : Env) (p : PlayerId) (w : W) : (clearForBreak env p w).rule = w.rule := by
  unfold clearForBreak; dsimp only; split <;> simp

theorem acceptBreak_rule (handle inPoint : Nat) (duration : Option Nat) (m : ResumeMode) (env : Env) (w : W) :
    (acceptBreak handle inPoint duration m env w).1.rule = (w.modCtl fun c =>
      { c with pendingBreak := some { handle := handle, inPoint := inPoint, duration := duration, mode := m,
                                      b := env.now + env.cp.lead, player := w.ch.breakPlayer } }).rule := by
  unfold acceptBreak
  dsimp only
  have h := rule_ctl ((takePointer_rule env (syncLife (clearForBreak env w.ch.breakPlayer w))).trans
    ((syncLife_rule _).trans (clearForBreak_rule env w.ch.breakPlayer w)))
  obtain ⟨h1, h2, h3, h4, h5, h6, h7⟩ := h
  obtain ⟨pb, hpb⟩ : ∃ x : PendingBreak, x = PendingBreak.mk handle inPoint duration m (env.now + env.cp.lead)
    w.ch.breakPlayer := ⟨_, rfl⟩
  rw [← hpb]
  have key : ((takePointer env (syncLife (clearForBreak env w.ch.breakPlayer w))).modCtl fun c =>
      { c with pendingBreak := some pb }).rule = (w.modCtl fun c => { c with pendingBreak := some pb }).rule := by
    rw [modCtl_rule, modCtl_rule, h1, h2, h3, h4, h6, h7]
  refine Eq.trans ?_ key
  generalize ((takePointer env (syncLife (clearForBreak env w.ch.breakPlayer w))).modCtl fun c =>
      { c with pendingBreak := some pb }) = v
  (repeat' split) <;> simp

/-! ## FILL_NOW (R161) -/

/-- A FILL_NOW whose owner is not on air marks what stands for the owner: the cued item, the landing, what the players have
loaded. -/
theorem fillNow_waiting (t : PendTrig) (q : Seq) (h : ∀ o, q.onAir = some o → t.fills o.item = false) :
    (fillNow t q).onAir = q.onAir ∧ (fillNow t q).cued = q.cued.map (markDue t) ∧
      (fillNow t q).landing = (q.landing.map fun l => { l with item := markDue t l.item }) ∧
      ∀ p, ((fillNow t q).player p).loaded = (q.player p).loaded.map (markDue t) := by
  have hn : ¬ (q.onAir.any fun o => t.fills o.item) = true := by
    simp only [Option.any_eq_true, not_exists, not_and]
    intro o ho; rw [h o ho]; simp
  unfold fillNow
  rw [if_neg hn]
  exact ⟨rfl, rfl, rfl, fun p => by cases p <;> rfl⟩

/-- A FILL_NOW whose owner is on air marks it and nothing else. -/
theorem fillNow_onAir (t : PendTrig) (q : Seq) (o : OnAir) (ho : q.onAir = some o) (h : t.fills o.item = true) :
    fillNow t q = { q with onAir := some { o with fillMark := true } } := by
  unfold fillNow
  rw [if_pos (by simp [ho, h])]
  simp [ho, markFill, h]

/-! ## Replies to cancelled cues (R107; log entry 19) -/

theorem cueQueued_iff (x : Player) : x.cueQueued = true ↔ ∃ q ∈ x.queue, q.2.isCue = true := by
  simp [Player.cueQueued]

/-- CUED for a cancelled cue changes nothing but the flight, which `replied` has ended. -/
theorem onCued_cancelled {p : PlayerId} {w : W} (h : CueCancelled (w.player p)) (f : Flight) (env : Env) :
    onCued p f env w = w := by
  unfold onCued; dsimp only
  rcases h with h | h | h
  · split <;> first | rfl | simp_all
  · split <;> first | rfl | simp_all
  · rw [← cueQueued_iff] at h; split <;> simp [h]

/-- CUE_FAILED for a cancelled cue changes nothing but the flight, which `replied` has ended. -/
theorem onCueFailed_cancelled {p : PlayerId} {w : W} (h : CueCancelled (w.player p)) (reason : CueReason) (f : Flight) (env : Env) :
    onCueFailed p reason f env w = w := by
  unfold onCueFailed; dsimp only
  rcases h with h | h | h
  · split <;> first | rfl | simp_all
  · split <;> first | rfl | simp_all
  · rw [← cueQueued_iff] at h; split <;> simp [h]

end Sys2Proof.Machine
end

