-- ==== Sys2Proof/Laws/Period.lean ====
section
/-! SUPPORT. What a period's work does to the part: the time stands but for the built mark, the marks are cleared, the log
tick, the beat timer and the frame counters advance, and the frames leave. -/

namespace Sys2Proof.Machine

open Sys2Proof

/-! ## The log tick -/

@[simp] theorem emitAsRun_tick (n : Nat) (s : State) : (emitAsRun n s).log.tick = s.log.tick := by
  simp [emitAsRun]

@[simp] theorem asRunTest_tick (n : Nat) (s : State) : (asRunTest n s).log.tick = s.log.tick := by
  induction n generalizing s with
  | zero => rfl
  | succ n ih => unfold asRunTest; split <;> simp [ih]

@[simp] theorem append_tick (s : State) (r : RecProto) : (s.append r).log.tick = s.log.tick := by
  simp [State.append, State.testAsRun, Log.append]

@[simp] theorem record_tick (s : State) (r : RecProto) : (s.record r).log.tick = s.log.tick := by
  unfold State.record; split <;> simp

@[simp] theorem applyEffect_tick (c : Ch) (s : State) (e : Effect) : (applyEffect c s e).log.tick = s.log.tick := by
  cases e <;> simp [applyEffect]

/-- The records of a period that ends carry its own log tick (R179). -/
@[simp] theorem closePeriod_tick (s : State) : s.closePeriod.log.tick = s.log.tick := by
  have h : ∀ (l : List RecProto) (u : State), (l.foldl State.append u).log.tick = u.log.tick := by
    intro l
    induction l with
    | nil => intro u; rfl
    | cons r l ih => intro u; rw [List.foldl_cons, ih, append_tick]
  exact h _ _

theorem runCh_tick (c : Ch) (op : Env → W → W) (s : State) : (runCh c op s).log.tick = s.log.tick := by
  have h : ∀ (l : List Effect) (u : State), (l.foldl (applyEffect c) u).log.tick = u.log.tick := by
    intro l
    induction l with
    | nil => intro u; rfl
    | cons e l ih => intro u; rw [List.foldl_cons, ih, applyEffect_tick]
  unfold runCh; dsimp only; rw [h]; rfl

/-- A boundary changes nothing of the log but that it closes the period before it. -/
@[simp] theorem boundaryAt_log (n : Nat) (s : State) : (boundaryAt n s).log = s.closePeriod.log := by
  unfold boundaryAt nextHfn; split <;> rfl

/-! ## Running the channels one after another -/

/-- What holds of each channel after it has run holds in the end, since the others leave it alone. -/
theorem foldCh_here {op : Ch → Env → W → W} {P : Chan → Chan → Prop}
    (h : ∀ c env w, P w.ch (op c env w).ch) (l : List Ch) (hl : l.Nodup) (s : State) :
    ∀ c : Ch, (c ∈ l → P s.chans[c] (l.foldl (fun s c => runCh c (op c) s) s).chans[c]) ∧
      (c ∉ l → (l.foldl (fun s c => runCh c (op c) s) s).chans[c] = s.chans[c]) := by
  induction l generalizing s with
  | nil => intro c; simp
  | cons d l ih =>
    intro c
    have hd := List.nodup_cons.mp hl
    obtain ⟨i1, i2⟩ := ih hd.2 (runCh d (op d) s) c
    simp only [List.foldl_cons, List.mem_cons, not_or]
    refine ⟨fun hc => ?_, fun hc => ?_⟩
    · by_cases hcd : c = d
      · subst hcd
        rw [i2 hd.1, runCh_here]
        exact h c (envOf s c) (begun s c)
      · have := i1 (by tauto)
        rwa [runCh_others d (op d) s c hcd] at this
    · rw [i2 hc.2, runCh_others d (op d) s c hc.1]

theorem runAll_here {op : Env → W → W} {P : Chan → Chan → Prop} (h : ∀ env w, P w.ch (op env w).ch) (s : State) (c : Ch) :
    P s.chans[c] (runAll op s).chans[c] :=
  (foldCh_here (op := fun _ => op) (fun _ => h) _ (List.nodup_finRange 8) s c).1 (List.mem_finRange c)

/-! ## The stages of a period -/

theorem tickLog_heard (s : State) : Heard s (tickLog s) := (setLog_heard s _).trans (testAsRun_heard _)

theorem tickLog_tick (s : State) : (tickLog s).log.tick = (s.log.tick + 1) % two32 := by
  simp [tickLog, State.testAsRun]

/-- Site silence turns a CURRENT mirror STALE and leaves the rest of the channel alone (R59). -/
theorem goStale_ch (env : Env) (w : W) :
    (w.ch.mirror.state ≠ .current → (goStale env w).ch = w.ch) ∧
      (w.ch.mirror.state = .current →
        (goStale env w).ch = { w.ch with mirror := { w.ch.mirror with state := .stale } }) := by
  unfold goStale
  refine ⟨fun h => by rw [if_neg h], fun h => ?_⟩
  rw [if_pos h]; unfold setMirror; dsimp only; split <;> rfl

/-- A change of the beat timer, its mark and, where it expires, the mirrors alone. -/
theorem tickBeat_facts (s : State) :
    (tickBeat s).time = s.time ∧ (tickBeat s).ports = s.ports ∧ (tickBeat s).flows = s.flows ∧
      (tickBeat s).params = s.params ∧ (tickBeat s).log.tick = s.log.tick ∧ (tickBeat s).powered = s.powered ∧
      (s.expired = true → (tickBeat s).expired = true ∧ (tickBeat s).beat = s.beat) ∧
      (s.expired = false → s.beat + 1 < s.params.part.siteBeatTimeout →
        (tickBeat s).expired = false ∧ (tickBeat s).beat = s.beat + 1) ∧
      (s.expired = false → s.params.part.siteBeatTimeout ≤ s.beat + 1 →
        (tickBeat s).expired = true ∧ (tickBeat s).beat = s.params.part.siteBeatTimeout) ∧
      (tickBeat s).table = s.table ∧ (tickBeat s).graphics = s.graphics ∧
      ∀ c : Ch, (s.expired = true ∨ (tickBeat s).expired = false ∨ s.chans[c].mirror.state ≠ .current →
          (tickBeat s).chans[c] = s.chans[c]) ∧
        (s.expired = false → (tickBeat s).expired = true → s.chans[c].mirror.state = .current →
          (tickBeat s).chans[c] = { s.chans[c] with mirror := { s.chans[c].mirror with state := .stale } }) := by
  have hall : ∀ u : State, PartKept u (runAll goStale u) ∧ (runAll goStale u).log.tick = u.log.tick ∧
      ∀ c : Ch, (u.chans[c].mirror.state ≠ .current → (runAll goStale u).chans[c] = u.chans[c]) ∧
        (u.chans[c].mirror.state = .current →
          (runAll goStale u).chans[c] = { u.chans[c] with mirror := { u.chans[c].mirror with state := .stale } }) := by
    intro u
    refine ⟨runAll_kept _ _, ?_, fun c => ?_⟩
    · unfold runAll
      generalize List.finRange 8 = l
      induction l generalizing u with
      | nil => rfl
      | cons c l ih => rw [List.foldl_cons, ih, runCh_tick]
    · exact runAll_here (P := fun a b => (a.mirror.state ≠ .current → b = a) ∧
        (a.mirror.state = .current → b = { a with mirror := { a.mirror with state := .stale } })) goStale_ch u c
  unfold tickBeat siteBeatExpiry
  cases he : s.expired
  · simp only [Bool.false_eq_true, if_false, true_and]
    by_cases hb : s.params.part.siteBeatTimeout ≤ s.beat + 1
    · simp only [if_pos hb]
      obtain ⟨k, t, o⟩ := hall { s with expired := true, beat := s.params.part.siteBeatTimeout }
      obtain ⟨k1, k2, k3, k4, k5, k6, k7, k8, k9, _⟩ := k
      refine ⟨k2, k3, k4, k5, t, k1, by simp, fun _ h => absurd hb (by omega), fun _ _ => ⟨k9, k8⟩, k6, k7, fun c => ?_⟩
      refine ⟨fun h => ?_, fun _ _ => (o c).2⟩
      rcases h with h | h | h
      · simp at h
      · rw [k9] at h; simp at h
      · exact (o c).1 h
    · simp only [if_neg hb]
      simp [hb]
  · simp [he]

/-- The MAIN take leaves the players' sources alone (R76). -/
theorem mainTake_players (depth : Nat) (i : Intake) : (mainTake depth i).a = i.a ∧ (mainTake depth i).b = i.b := by
  unfold mainTake; dsimp only; split <;> exact ⟨rfl, rfl⟩

/-- The takes write the intake and nothing else of what the output and the intake hold (R76, R77). -/
theorem takes_rest (env : Env) (w : W) :
    (takes env w).rest = (w.ch.intake.taken env.cp.alignDepth env.now.toNat, w.rest.2) := by
  obtain ⟨h1, h2⟩ := mainTake_players env.cp.alignDepth w.ch.intake
  simp only [takes, Intake.taken, h1, h2]
  rfl

theorem anchorFromStamp_rest (env : Env) (w : W) : (anchorFromStamp env w).rest = w.rest := by
  unfold anchorFromStamp; split <;> simp

/-- A boundary advances the on-air item's frame count and each player's own counts (R1, R103, R110, R111). -/
theorem chanTick_counts (env : Env) (w : W) :
    (chanTick env w).ch.seq.onAir = (w.ch.seq.onAir.map fun o => { o with framesIn := o.framesIn + 1 }) ∧
      ∀ p, (chanTick env w).player p = (w.player p).tick env.now := by
  have h : (refreshTimeout env (refreshTick w)).ch.seq = w.ch.seq := by
    unfold refreshTimeout refreshTick giveUp freeRefresh setMirror
    (try dsimp only)
    (repeat' split) <;> rfl
  refine ⟨?_, fun p => ?_⟩
  · rw [← h]; rfl
  · unfold W.player
    rw [← h]; cases p <;> rfl

/-- A boundary advances an open refresh's timer; at the mirror timeout the refresh is given up (R49). -/
theorem chanTick_refresh (env : Env) (w : W) :
    (w.ch.store.refresh = none → (chanTick env w).ch.mirror = w.ch.mirror ∧ (chanTick env w).ch.store = w.ch.store) ∧
      (w.ch.store.refresh.isSome = true → min 65535 (w.ch.mirror.timer + 1) < env.part.mirrorTimeout →
        (chanTick env w).ch.mirror = { w.ch.mirror with timer := min 65535 (w.ch.mirror.timer + 1) } ∧
          (chanTick env w).ch.store = w.ch.store) ∧
      (w.ch.store.refresh.isSome = true → env.part.mirrorTimeout ≤ min 65535 (w.ch.mirror.timer + 1) →
        (chanTick env w).ch.mirror.state = .gap ∧ (chanTick env w).ch.store = { w.ch.store with refresh := none }) := by
  have h : ∀ u : W, (chanTick env u).ch.mirror = (refreshTimeout env (refreshTick u)).ch.mirror ∧
      (chanTick env u).ch.store = (refreshTimeout env (refreshTick u)).ch.store := fun u => ⟨rfl, rfl⟩
  rw [(h w).1, (h w).2]
  refine ⟨fun hr => ?_, fun hr ht => ?_, fun hr ht => ?_⟩
  · simp [refreshTimeout, refreshTick, hr]
  · have ht' : ¬ env.part.mirrorTimeout ≤ min (two16 - 1) (w.ch.mirror.timer + 1) := Nat.not_le.mpr ht
    simp only [refreshTick, if_pos hr, refreshTimeout]
    rw [if_neg (fun hc => ht' hc.2)]
    exact ⟨rfl, rfl⟩
  · have ht' : env.part.mirrorTimeout ≤ min (two16 - 1) (w.ch.mirror.timer + 1) := ht
    simp only [refreshTick, if_pos hr, refreshTimeout]
    rw [if_pos ⟨hr, ht'⟩]
    unfold giveUp freeRefresh setMirror
    (try dsimp only)
    (repeat' split) <;> exact ⟨rfl, rfl⟩

/-- One boundary for a request in flight (R1, R110). -/
theorem Flight.tick_counts (now : Frame) (f : Flight) :
    (f.req.isStop = false → (f.tick now).age = f.age + 1) ∧
      ∀ h, f.req = .stop h → ((f.tick now).counting = true ↔ f.counting = true ∨ h ≤ now) ∧
        (f.tick now).age = if f.counting = true ∨ h < now then f.age + 1 else f.age := by
  refine ⟨fun h => ?_, fun h hr => ?_⟩
  · unfold Flight.tick
    cases hq : f.req <;> simp_all [PReq.countsFrom, PReq.isStop]
  · have : (h ≤ now - 1) ↔ h < now := by show h ≤ now - 1 ↔ h < now; unfold Frame at *; omega
    simp [Flight.tick, hr, PReq.countsFrom, this]

/-- A channel's work in a period writes the intake by the takes alone, and nothing of what the output holds. -/
theorem chanPeriod_rest (bad : Bool) (env : Env) (w : W) :
    (chanPeriod bad env w).rest = (w.ch.intake.taken env.cp.alignDepth env.now.toNat, w.rest.2) := by
  have h1 : ∀ w, (chanTick env w).rest = w.rest := fun w => by unfold chanTick; simp
  have h2 : ∀ w, (chanAir env w).rest = w.rest := fun w => by unfold chanAir; simp
  have h3 : ∀ w, (chanFeed bad env w).rest = (w.ch.intake.taken env.cp.alignDepth env.now.toNat, w.rest.2) := fun w => by
    have : (chanFeed bad env w).rest = (takes env w).rest := by
      unfold chanFeed; simp [anchorFromStamp_rest]
    rw [this, takes_rest]
  have h4 : ∀ w, (chanDue env w).rest = w.rest := fun w => by unfold chanDue; simp
  have hi : ∀ {u v : W}, u.rest = v.rest → u.ch.intake = v.ch.intake := fun h => by
    simp only [W.rest, Prod.mk.injEq] at h; exact h.1
  unfold chanPeriod
  rw [h4, h3, h2, h1, hi (h2 _), hi (h1 _)]

/-- What a channel's intake and output hold in terms of the channel before its work in a period. -/
def Chan.afterPeriod (depth n : Nat) (c d : Chan) : Prop :=
  d.intake = c.intake.taken depth n ∧ d.out.counter = c.out.counter ∧ d.out.held = c.out.held ∧
    d.out.holdRun = c.out.holdRun

theorem chanPeriod_after (bad : Bool) (env : Env) (w : W) :
    Chan.afterPeriod env.cp.alignDepth env.now.toNat w.ch (chanPeriod bad env w).ch := by
  have h := chanPeriod_rest bad env w
  simp only [W.rest, Prod.mk.injEq] at h
  exact ⟨h.1, h.2.1, h.2.2.1, h.2.2.2.1⟩

/-- The report of R67 depends on the flow table and the ports' marks alone. -/
theorem badReport_kept {s t : State} (hf : t.flows = s.flows) (hp : t.ports = s.ports) (c : Ch) :
    badReport t c = badReport s c := by
  unfold badReport
  rw [hf, hp]

theorem periodChans_facts (s : State) :
    PartKept s (periodChans s) ∧ (periodChans s).log.tick = s.log.tick ∧
      ∀ c : Ch, Chan.afterPeriod s.params.chans[c].alignDepth s.time.hfn s.chans[c] (periodChans s).chans[c] ∧
        ∃ u, PartKept s u ∧ u.chans[c] = s.chans[c] ∧ (periodChans s).chans[c] = workedChan s u c := by
  have key : ∀ (l : List Ch), l.Nodup → ∀ s : State,
      PartKept s (l.foldl (fun s c => runCh c (chanPeriod (badReport s c)) s) s) ∧
      (l.foldl (fun s c => runCh c (chanPeriod (badReport s c)) s) s).log.tick = s.log.tick ∧
      ∀ c : Ch, (c ∈ l → Chan.afterPeriod s.params.chans[c].alignDepth s.time.hfn s.chans[c]
          (l.foldl (fun s c => runCh c (chanPeriod (badReport s c)) s) s).chans[c] ∧
          ∃ u, PartKept s u ∧ u.chans[c] = s.chans[c] ∧
            (l.foldl (fun s c => runCh c (chanPeriod (badReport s c)) s) s).chans[c] = workedChan s u c) ∧
        (c ∉ l → (l.foldl (fun s c => runCh c (chanPeriod (badReport s c)) s) s).chans[c] = s.chans[c]) := by
    intro l
    induction l with
    | nil => intro _ s; exact ⟨PartKept.refl s, rfl, by simp⟩
    | cons d l ih =>
      intro hn s
      obtain ⟨hd, hn⟩ := List.nodup_cons.mp hn
      obtain ⟨a, b, e⟩ := ih hn (runCh d (chanPeriod (badReport s d)) s)
      have k := runCh_kept d (chanPeriod (badReport s d)) s
      have t := runCh_tick d (chanPeriod (badReport s d)) s
      have n := runCh_others d (chanPeriod (badReport s d)) s
      have m : Chan.afterPeriod s.params.chans[d].alignDepth s.time.hfn s.chans[d]
          (runCh d (chanPeriod (badReport s d)) s).chans[d] := by
        have h := chanPeriod_after (badReport s d) (envOf s d) (begun s d)
        rw [runCh_here, ranCh]
        generalize chanPeriod (badReport s d) (envOf s d) (begun s d) = v at h ⊢
        exact h
      have w : (runCh d (chanPeriod (badReport s d)) s).chans[d] = workedChan s s d := runCh_here _ _ _
      rw [List.foldl_cons]
      generalize runCh d (chanPeriod (badReport s d)) s = u at *
      refine ⟨k.trans a, b.trans t, fun c => ⟨fun hc => ?_, fun hc => ?_⟩⟩
      · by_cases hcd : c = d
        · subst hcd; rw [(e c).2 hd]; exact ⟨m, s, PartKept.refl s, rfl, w⟩
        · obtain ⟨h, v, p, q, r⟩ := (e c).1 (by simpa [hcd] using hc)
          refine ⟨?_, v, k.trans p, q.trans (n c hcd), ?_⟩
          · obtain ⟨_, k2, _, _, k5, _⟩ := k
            rwa [n c hcd, k5, k2] at h
          · rw [r]; unfold workedChan; rw [badReport_kept k.2.2.2.1 k.2.2.1 c]
      · simp only [List.mem_cons, not_or] at hc
        rw [(e c).2 hc.2, n c hc.1]
  obtain ⟨a, b, e⟩ := key _ (List.nodup_finRange 8) s
  unfold periodChans
  exact ⟨a, b, fun c => (e c).1 (List.mem_finRange c)⟩

/-- A frame depends on the part through the number, the rate code, the channel's parameters and the graphics alone. -/
theorem buildOut_env (gs : Vector Graphic 16) {x y : Env} (c : Chan) (h1 : x.now = y.now) (h2 : x.rate = y.rate)
    (h3 : x.cp = y.cp) : buildOut gs x c = buildOut gs y c := by
  simp only [buildOut, Env.at, h1, h2, h3]

theorem buildFrame_kept (c : Ch) (s : State) : PartKept s (buildFrame c s) :=
  (setCh_kept s c _).trans (transmit_heard _ _ _).1

theorem buildFrame_counter (c : Ch) (s : State) :
    (buildFrame c s).chans[c].out.counter = (s.chans[c].out.counter + 1) % two32 := by
  have h : (buildFrame c s).chans = (s.setCh c { s.chans[c] with out := (buildOut s.graphics (envOf s c) s.chans[c]).2 }).chans :=
    (transmit_heard _ _ _).2
  rw [h]
  simp only [setCh_here, buildOut]
  unfold makeFrame keep holdMade
  (repeat' split) <;> rfl

/-- Building a frame writes the channel's output block alone. -/
theorem buildFrame_rest (c : Ch) (s : State) :
    (buildFrame c s).chans[c] = { s.chans[c] with out := (buildFrame c s).chans[c].out } := by
  have h : (buildFrame c s).chans = (s.setCh c { s.chans[c] with out := (buildOut s.graphics (envOf s c) s.chans[c]).2 }).chans :=
    (transmit_heard _ _ _).2
  rw [h, setCh_here]

theorem buildFrame_others (c : Ch) (s : State) : OthersKept c s (buildFrame c s) := by
  have h : (buildFrame c s).chans = (s.setCh c { s.chans[c] with out := (buildOut s.graphics (envOf s c) s.chans[c]).2 }).chans :=
    (transmit_heard _ _ _).2
  intro d hd
  rw [h]
  exact setCh_others s c _ d hd

theorem buildFrame_log (c : Ch) (s : State) : (buildFrame c s).log = s.log := by
  simp [buildFrame]

/-- A frame bears the number of its period and the channel's frame counter (R168). -/
theorem buildOut_head (gs : Vector Graphic 16) (env : Env) (c : Chan) :
    (buildOut gs env c).1.hfn = env.now.toNat ∧ (buildOut gs env c).1.counter = c.out.counter := by
  refine ⟨rfl, ?_⟩
  simp only [buildOut]
  unfold makeFrame keep holdMade
  (repeat' split) <;> rfl

/-- The frame of a channel that is built from the output block `x`, with the rest of the channel as it stands after. -/
theorem buildFrame_leaves (c : Ch) (s : State) :
    FrameLeaves s (buildFrame c s) c
      (buildOut s.graphics (envOf s c) { (buildFrame c s).chans[c] with out := s.chans[c].out }) := by
  have h : (buildFrame c s).chans = (s.setCh c { s.chans[c] with out := (buildOut s.graphics (envOf s c) s.chans[c]).2 }).chans :=
    (transmit_heard _ _ _).2
  have hx : { (buildFrame c s).chans[c] with out := s.chans[c].out } = s.chans[c] := by rw [h, setCh_here]
  rw [hx]
  refine ⟨by rw [h, setCh_here], fun e he hu => ?_⟩
  unfold buildFrame; dsimp only
  rw [he]
  simp only [Option.map_some, State.transmit]
  rw [if_pos (by exact hu)]
  simp

theorem buildFrames_facts (s : State) :
    PartKept s (buildFrames s) ∧ (buildFrames s).log = s.log ∧
      (∀ c : Ch, (buildFrames s).chans[c].out.counter = (s.chans[c].out.counter + 1) % two32) ∧
      (∀ c : Ch, (buildFrames s).chans[c] = { s.chans[c] with out := (buildFrames s).chans[c].out }) ∧
      ∀ c : Ch, FrameLeaves s (buildFrames s) c
        (buildOut s.graphics (envOf s c) { (buildFrames s).chans[c] with out := s.chans[c].out }) := by
  have key : ∀ (l : List Ch), l.Nodup → ∀ s : State,
      PartKept s (l.foldl (fun s c => buildFrame c s) s) ∧ (l.foldl (fun s c => buildFrame c s) s).log = s.log ∧
      (∀ c : Ch, c ∉ l → (l.foldl (fun s c => buildFrame c s) s).chans[c] = s.chans[c]) ∧
      ∀ c : Ch, c ∈ l →
        (l.foldl (fun s c => buildFrame c s) s).chans[c].out.counter = (s.chans[c].out.counter + 1) % two32 ∧
        (l.foldl (fun s c => buildFrame c s) s).chans[c] =
          { s.chans[c] with out := (l.foldl (fun s c => buildFrame c s) s).chans[c].out } ∧
        FrameLeaves s (l.foldl (fun s c => buildFrame c s) s) c
          (buildOut s.graphics (envOf s c)
            { (l.foldl (fun s c => buildFrame c s) s).chans[c] with out := s.chans[c].out }) := by
    intro l
    induction l with
    | nil => intro _ s; exact ⟨PartKept.refl s, rfl, by simp, by simp⟩
    | cons d l ih =>
      intro hn s
      obtain ⟨hd, hn⟩ := List.nodup_cons.mp hn
      obtain ⟨a, b, e, g⟩ := ih hn (buildFrame d s)
      have hk := buildFrame_kept d s
      rw [List.foldl_cons]
      refine ⟨hk.trans a, b.trans (buildFrame_log d s), fun c hc => ?_, fun c hc => ?_⟩
      · simp only [List.mem_cons, not_or] at hc
        rw [e c hc.2, buildFrame_others d s c hc.1]
      · by_cases hcd : c = d
        · subst hcd
          rw [e c hd]
          obtain ⟨p, q⟩ := buildFrame_leaves c s
          refine ⟨buildFrame_counter c s, buildFrame_rest c s, by rw [e c hd]; exact p, fun x hx hu => ?_⟩
          have := (foldl_calm (fun s c => buildFrame c s) (fun s c => buildFrame_calm c s) l (buildFrame c s)).2
          exact this.subset (q x hx hu)
        · obtain ⟨i, j, p, q⟩ := g c (by simpa [hcd] using hc)
          obtain ⟨_, k2, k3, k4, k5, _, k7, _⟩ := hk
          have ho := buildFrame_others d s c hcd
          have he : ∀ c' : Chan, buildOut (buildFrame d s).graphics (envOf (buildFrame d s) c) c' =
              buildOut s.graphics (envOf s c) c' := fun c' => by
            rw [k7]; exact buildOut_env _ c' (by simp [envOf, k2]) (by simp [envOf, k2]) (by simp [envOf, k5])
          rw [ho] at i j p q
          rw [he] at p q
          exact ⟨i, j, p, fun x hx hu => q x (by rw [k4]; exact hx) (by rw [k3]; exact hu)⟩
  have hm : ∀ c : Ch, c ∈ List.finRange 8 := List.mem_finRange
  obtain ⟨a, b, _, g⟩ := key _ (List.nodup_finRange 8) s
  exact ⟨a, b, fun c => (g c (hm c)).1, fun c => (g c (hm c)).2.1, fun c => (g c (hm c)).2.2⟩

/-- A period's work: the time stands but for the built mark, and the rest is as PeriodDone says. -/
theorem periodWork_facts (s : State) (hb : s.time.built = false) :
    (periodWork s).time = { s.time with built := true } ∧ PeriodDone s (periodWork s) := by
  obtain ⟨l1, l2⟩ := tickLog_heard s
  obtain ⟨_, l3, l4, l5, l6, l11, l10, l7, l8, _⟩ := l1
  have l9 := tickLog_tick s
  obtain ⟨b1, b2, b3, b4, b5, _, b6, b7, b8, b11, b10, b9⟩ := tickBeat_facts (tickLog s)
  obtain ⟨c1, c2, c3⟩ := periodChans_facts (tickBeat (tickLog s))
  obtain ⟨_, c4, c5, c6, c9, _, c10, c7, c8, _⟩ := c1
  unfold periodWork
  generalize tickLog s = a at *
  generalize tickBeat a = b at *
  generalize periodChans b = d at *
  obtain ⟨f1, f2, f3, f5, f4⟩ := buildFrames_facts (clearMarks d)
  obtain ⟨_, g1, g2, g3, g6, _, g7, g4, g5, _⟩ := f1
  have m1 : ∀ p : Port, (clearMarks d).ports[p] = { d.ports[p] with mark := false } := by
    intro p; simp [clearMarks]
  have m2 : (clearMarks d).time = d.time := rfl
  have m3 : (clearMarks d).flows = d.flows := rfl
  have m4 : (clearMarks d).log = d.log := rfl
  have m5 : (clearMarks d).chans = d.chans := rfl
  have m6 : (clearMarks d).beat = d.beat := rfl
  have m7 : (clearMarks d).expired = d.expired := rfl
  have m8 : (clearMarks d).params = d.params := rfl
  have m9 : (clearMarks d).graphics = d.graphics := rfl
  unfold buildAll
  generalize clearMarks d = x at *
  generalize buildFrames x = e at *
  have ht : e.time = s.time := by rw [g1, m2, c4, b1, l3]
  have hp : e.params = s.params := by rw [g6, m8, c9, b4, l6]
  have hm : e.expired = b.expired := by rw [g5, m7, c8]
  have hs : ∀ c : Ch, b.chans[c].intake = s.chans[c].intake ∧ b.chans[c].out = s.chans[c].out := by
    intro c
    obtain ⟨p, q⟩ := b9 c
    rw [l2] at p q
    by_cases h : a.expired = true ∨ b.expired = false ∨ s.chans[c].mirror.state ≠ .current
    · rw [p h]; exact ⟨rfl, rfl⟩
    · simp only [not_or, Bool.not_eq_true, Bool.not_eq_false, ne_eq, Decidable.not_not] at h
      rw [q h.1 h.2.1 h.2.2]; exact ⟨rfl, rfl⟩
  have hx : ∀ c : Ch, Chan.afterPeriod s.params.chans[c].alignDepth s.time.hfn s.chans[c] x.chans[c] ∧
      ∃ u, AtTurn s (e.modTime fun t => { t with built := true }) u c ∧ x.chans[c] = workedChan s u c := by
    intro c
    obtain ⟨⟨h1, h2, h3, h4⟩, u, k, k1, k2⟩ := c3 c
    rw [b4, l6, b1, l3] at h1
    rw [m5]
    refine ⟨⟨by rw [h1, (hs c).1], by rw [h2, (hs c).2], by rw [h3, (hs c).2], by rw [h4, (hs c).2]⟩, u, ?_, ?_⟩
    · obtain ⟨_, k3, _, _, k4, k5, _, _, k6, _⟩ := k
      refine ⟨?_, by rw [k4, b4, l6], by rw [k5, b11, l11], by rw [k6]; exact hm.symm, ?_, ?_⟩
      · rw [k3, b1, l3]
        show s.time = { e.time with built := false }
        rw [ht, ← hb]
      · intro h
        rw [k1, ← l2]
        exact (b9 c).1 (by rw [l8, l2, ← hm]; exact h)
      · intro h1 h2 h3
        rw [k1, ← l2]
        exact (b9 c).2 (by rw [l8]; exact h1) (by rw [← hm]; exact h2) (by rw [l2]; exact h3)
    · rw [k2]; unfold workedChan; rw [badReport_kept (b3.trans l5) (b2.trans l4) c]
  have hl : ∀ c : Ch, FrameLeaves s (e.modTime fun t => { t with built := true }) c
      (buildOut s.graphics (envOf (e.modTime fun t => { t with built := true }) c) x.chans[c]) := by
    intro c
    obtain ⟨p, q⟩ := f4 c
    have hg : x.graphics = s.graphics := by rw [m9, c10, b10, l10]
    have hr : { e.chans[c] with out := x.chans[c].out } = x.chans[c] := by rw [f5]
    have he : ∀ c' : Chan, buildOut x.graphics (envOf x c) c' =
        buildOut s.graphics (envOf (e.modTime fun t => { t with built := true }) c) c' := fun c' => by
      rw [hg]
      refine buildOut_env _ c' ?_ ?_ ?_
      · show (x.time.hfn : Int) = (e.time.hfn : Int); rw [g1]
      · show x.time.rate = e.time.rate; rw [g1]
      · show x.params.chans[c] = e.params.chans[c]; rw [g6]
    rw [he, hr] at p q
    exact ⟨p, fun y hy hu => q y (by rw [m3, c6, b3, l5]; exact hy) (by rw [m1, c5, b2, l4]; exact hu)⟩
  refine ⟨?_, rfl, ?_, ?_, ?_, ?_, ?_, ?_, ?_, fun c => ⟨?_, ?_⟩⟩
  · rw [← ht]; rfl
  · intro p; show e.ports[p].mark = false; rw [g2, m1]
  · show e.log.tick = _; rw [f2, m4, c2, b5, l9]
  · intro c; show e.chans[c].out.counter = _; rw [f3, (hx c).1.2.1]
  · intro he; show e.expired = true ∧ e.beat = _
    rw [g5, g4, m6, m7, c8, c7, ← l7]; exact b6 (by rw [l8]; exact he)
  · intro he hb; show e.expired = false ∧ e.beat = _
    rw [g5, g4, m6, m7, c8, c7, ← l7]; exact b7 (by rw [l8]; exact he) (by rw [l7, l6]; exact hb)
  · intro he hb; show e.expired = true ∧ e.beat = _
    rw [g5, g4, m6, m7, c8, c7, ← l6]; exact b8 (by rw [l8]; exact he) (by rw [l7, l6]; exact hb)
  · intro c y he hu
    obtain ⟨h1, h2⟩ := buildOut_head s.graphics (envOf (e.modTime fun t => { t with built := true }) c) x.chans[c]
    exact ⟨_, (hl c).2 y he hu, h1, h2.trans (hx c).1.2.1⟩
  · show e.chans[c].intake = s.chans[c].intake.taken _ e.time.hfn
    rw [f5, (hx c).1.1, ht]
  · obtain ⟨⟨_, h2, h3, h4⟩, u, ha, hw⟩ := hx c
    exact ⟨u, x.chans[c], ha, hw, f5 c, h2, h3, h4, hl c⟩

/-- What a period does is said of the state before the boundary as well: a new number and a REFERENCE notice change nothing that
PeriodDone names. -/
theorem PeriodDone.before {s v t : State} (hc : v.chans = s.chans) (hp : v.ports = s.ports) (hf : v.flows = s.flows)
    (ha : v.params = s.params) (hb : v.table = s.table) (hg : v.graphics = s.graphics) (hl : v.log.tick = s.log.tick)
    (ht : v.beat = s.beat) (he : v.expired = s.expired) (h : PeriodDone v t) : PeriodDone s t := by
  unfold PeriodDone AtTurn workedChan FrameLeaves at *
  simp only [badReport_kept hf hp, hc, hp, hf, ha, hb, hg, hl, ht, he] at h
  exact h

end Sys2Proof.Machine
end

