-- ==== Sys2Proof/Laws/Stores.lean ====
section
/-! SUPPORT. What the Sequencer, the players and the Trigger Unit may do to a channel's store: resolve it, retire events and
move lifecycles, marks and readiness. They put no record in, leave the REFRESH generation alone, and keep its order. -/

namespace Sys2Proof.Machine

open Sys2Proof

set_option linter.all false

/-! ## The store -/

/-- The orphan, and nothing in CURRENT, has lifecycle ORPHAN. -/
def Store.Tame (t : Store) : Prop := (∀ e ∈ t.current, e.lifecycle ≠ .orphan) ∧ ∀ o ∈ t.orphan, o.lifecycle = .orphan

/-- What a resolution leaves of a record. -/
def Event.stays (e : Event) := (e.core, e.lifecycle)

theorem resolveWalk_stays (x : RCtx) (c : Frame) (l : List Event) :
    (resolveWalk x c l).map Event.stays = l.map Event.stays := by
  induction l generalizing c with
  | nil => rfl
  | cons e l ih => simp only [resolveWalk, List.map_cons, ih]; rfl

theorem resolveHead_stays (x : RCtx) (o : Frame) (e : Event) (l : List Event) :
    (resolveHead x o e l).map Event.stays = (e :: l).map Event.stays := by
  simp only [resolveHead, List.map_cons, resolveWalk_stays]; rfl

theorem resolveFromId_stays (x : RCtx) (id : Nat) (o : Frame) (l : List Event) :
    (resolveFromId x id o l).map Event.stays = l.map Event.stays := by
  induction l with
  | nil => rfl
  | cons e l ih =>
    unfold resolveFromId; split
    · exact resolveHead_stays _ _ _ _
    · simp only [List.map_cons, ih]; rfl

theorem resolveFromFixed_stays (x : RCtx) (l : List Event) :
    (resolveFromFixed x l).map Event.stays = l.map Event.stays := by
  induction l with
  | nil => rfl
  | cons e l ih =>
    unfold resolveFromFixed; split
    · split
      · simp only [List.map_cons, ih]; rfl
      · exact resolveHead_stays _ _ _ _
    · simp only [List.map_cons, ih]; rfl

/-- Resolution keeps every record's place, timing, length and lifecycle. -/
theorem resolveList_stays (x : RCtx) (l : List Event) : (resolveList x l).map Event.stays = l.map Event.stays := by
  unfold resolveList; (repeat' split) <;> first | exact resolveFromId_stays _ _ _ _ | exact resolveFromFixed_stays _ _

/-- Without an anchor and without a FIXED event (the orphan's own apart) nothing is resolved (R35). -/
theorem resolveFromFixed_none (x : RCtx) (l : List Event) (h : ∀ e ∈ l, e.fixed = none ∨ e.lifecycle = .orphan) :
    resolveFromFixed x l = l.map Event.unanchor := by
  induction l with
  | nil => rfl
  | cons e l ih =>
    have ih := ih fun y hy => h y (List.mem_cons_of_mem _ hy)
    have he := h e List.mem_cons_self
    unfold resolveFromFixed
    split
    · split
      · rw [ih]; rfl
      · rename_i s hs ho; rcases he with he | he <;> simp_all
    · rw [ih]; rfl

theorem insertByKey_filter (p : Event → Bool) (o : Event) (l : List Event) (ho : p o = false) (hl : ∀ e ∈ l, p e = true) :
    (insertByKey o l).filter p = l := by
  induction l with
  | nil => simp [insertByKey, ho]
  | cons e l ih =>
    have he := hl e List.mem_cons_self
    have ht : l.filter p = l := List.filter_eq_self.2 fun y hy => hl y (List.mem_cons_of_mem _ hy)
    unfold insertByKey; split
    · simp [List.filter_cons, ho, he, ht]
    · simp [List.filter_cons, he, ih fun y hy => hl y (List.mem_cons_of_mem _ hy)]

/-- The CURRENT events are those of the merged list that are not the orphan. -/
theorem merged_current (t : Store) (h : t.Tame) :
    t.merged.filter (fun e => decide (e.lifecycle ≠ .orphan)) = t.current := by
  obtain ⟨hc, ho⟩ := h
  unfold Store.merged
  split
  · rename_i o e
    exact insertByKey_filter _ o _ (by simp [ho o (by rw [e]; rfl)]) (by simpa using hc)
  · exact List.filter_eq_self.2 (by simpa using hc)

/-- The second of two lists that agree in what stays, filtered by lifecycle. -/
theorem stays_filter (l m : List Event) (h : l.map Event.stays = m.map Event.stays) :
    (l.filter fun e => decide (e.lifecycle ≠ .orphan)).map Event.core =
      (m.filter fun e => decide (e.lifecycle ≠ .orphan)).map Event.core := by
  induction l generalizing m with
  | nil => cases m with
    | nil => rfl
    | cons e m => simp at h
  | cons e l ih => cases m with
    | nil => simp at h
    | cons f m =>
      simp only [List.map_cons, List.cons.injEq, Event.stays, Prod.mk.injEq] at h
      have := ih m h.2
      simp only [List.filter_cons, h.1.2]
      split
      · simp only [List.map_cons, this, h.1.1]
      · exact this

/-- The second of two records is the first one's orphan: every orphan of `u` is one of `t`, but for what a resolution writes. -/
def Store.SameOrphan (t u : Store) : Prop := ∀ o ∈ u.orphan, ∃ p ∈ t.orphan, o.core = p.core

theorem Store.SameOrphan.refl (t : Store) : t.SameOrphan t := fun o h => ⟨o, h, rfl⟩

theorem Store.SameOrphan.trans {t u v : Store} (a : t.SameOrphan u) (b : u.SameOrphan v) : t.SameOrphan v := by
  intro o h
  obtain ⟨p, hp, e⟩ := b o h
  obtain ⟨q, hq, f⟩ := a p hp
  exact ⟨q, hq, e.trans f⟩

theorem mem_insertByKey {o e : Event} {l : List Event} (h : e ∈ insertByKey o l) : e = o ∨ e ∈ l := by
  induction l with
  | nil => simpa [insertByKey] using h
  | cons x l ih =>
    unfold insertByKey at h
    split at h
    · simpa using h
    · rcases List.mem_cons.1 h with h | h
      · exact .inr (h ▸ List.mem_cons_self)
      · exact (ih h).imp_right (List.mem_cons_of_mem _)

/-- A resolution keeps the orphan's own fields. -/
theorem resolve_orphan (x : RCtx) (t : Store) (h : t.Tame) : t.SameOrphan (t.resolve x) := by
  intro o ho
  have hl := List.find?_some (show _ = some o from ho)
  have hm := List.mem_of_find?_eq_some (show _ = some o from ho)
  simp only [decide_eq_true_eq] at hl
  have : o.stays ∈ t.merged.map Event.stays := by
    rw [← resolveList_stays { x with anchor := t.anchor } t.merged]
    exact List.mem_map_of_mem hm
  obtain ⟨y, hy, e⟩ := List.mem_map.1 this
  simp only [Event.stays, Prod.mk.injEq] at e
  have hn : y ∉ t.current := fun hc => h.1 y hc (e.2.trans hl)
  unfold Store.merged at hy
  split at hy
  · rename_i p hp
    rcases mem_insertByKey hy with rfl | hy
    · exact ⟨y, hp, e.1.symm⟩
    · exact absurd hy hn
  · exact absurd hy hn

theorem resolve_tame (x : RCtx) (t : Store) (h : t.Tame) : (t.resolve x).Tame := by
  constructor
  · intro e he; simp [Store.resolve] at he; exact he.2
  · intro o ho
    have := List.find?_some (show _ = some o from ho)
    simpa using this

/-- Resolution keeps the CURRENT records, in their order. -/
theorem resolve_core (x : RCtx) (t : Store) (h : t.Tame) :
    (t.resolve x).current.map Event.core = t.current.map Event.core := by
  have := stays_filter _ _ (resolveList_stays { x with anchor := t.anchor } t.merged)
  rw [merged_current t h] at this
  exact this

/-- What settling may do to a store: only drop records, and of CURRENT none while nothing is resolved. -/
def Store.Shrinks (t u : Store) : Prop :=
  u.refresh = t.refresh ∧ u.anchor = t.anchor ∧
    (t.Tame → u.Tame ∧ (u.current.map Event.core).Sublist (t.current.map Event.core) ∧
      (t.anchor = none → (∀ e ∈ t.current, e.fixed = none) → u.current.map Event.core = t.current.map Event.core) ∧
      t.SameOrphan u)

theorem fixed_of_core {l m : List Event} (h : (l.map Event.core).Sublist (m.map Event.core))
    (hm : ∀ e ∈ m, e.fixed = none) : ∀ e ∈ l, e.fixed = none := by
  intro e he
  have := h.subset (List.mem_map_of_mem (f := Event.core) he)
  obtain ⟨f, hf, hc⟩ := List.mem_map.1 this
  have := hm f hf
  simp only [Event.core, Prod.mk.injEq] at hc
  rw [← hc.2.2.1]; exact this

theorem Store.Shrinks.refl (t : Store) : t.Shrinks t :=
  ⟨rfl, rfl, fun h => ⟨h, List.Sublist.refl _, fun _ _ => rfl, Store.SameOrphan.refl t⟩⟩

theorem Store.Shrinks.trans {t u v : Store} (a : t.Shrinks u) (b : u.Shrinks v) : t.Shrinks v := by
  refine ⟨b.1.trans a.1, b.2.1.trans a.2.1, fun h => ?_⟩
  obtain ⟨h1, h2, h3, h4⟩ := a.2.2 h
  obtain ⟨g1, g2, g3, g4⟩ := b.2.2 h1
  refine ⟨g1, g2.trans h2, fun ha hf => ?_, h4.trans g4⟩
  rw [g3 (a.2.1.trans ha) (fixed_of_core h2 hf), h3 ha hf]

theorem resolve_shrinks (x : RCtx) (t : Store) : t.Shrinks (t.resolve x) :=
  ⟨rfl, rfl, fun h => ⟨resolve_tame x t h, by rw [resolve_core x t h], fun _ _ => resolve_core x t h, resolve_orphan x t h⟩⟩

/-- Where nothing is anchored and nothing is FIXED a resolution leaves every CURRENT event UNANCHORED. -/
theorem resolve_unanchored (x : RCtx) (t : Store) (h : t.Tame) (ha : t.anchor = none) (hf : ∀ e ∈ t.current, e.fixed = none) :
    ∀ e ∈ (t.resolve x).current, e.res = none := by
  intro e he
  have hm : ∀ e ∈ t.merged, e.fixed = none ∨ e.lifecycle = .orphan := by
    intro y hy
    by_cases ho : y.lifecycle = .orphan
    · exact .inr ho
    · refine .inl (hf y ?_)
      rw [← merged_current t h]
      exact List.mem_filter.2 ⟨hy, by simpa using ho⟩
  have : (t.resolve x).current = (t.merged.map Event.unanchor).filter fun e => decide (e.lifecycle ≠ .orphan) := by
    simp only [Store.resolve, resolveList, ha, resolveFromFixed_none _ _ hm]
  rw [this] at he
  obtain ⟨y, _, rfl⟩ := List.mem_map.1 (List.mem_filter.1 he).1
  rfl

theorem dropCurrent_shrinks (t : Store) (p : Event → Bool) (h : t.Tame → t.anchor = none → (∀ e ∈ t.current, e.fixed = none) →
    ∀ e ∈ t.current, p e = true) : t.Shrinks (Store.scanChanged { t with current := t.current.filter p }) := by
  refine ⟨rfl, rfl, fun ht => ⟨⟨fun e he => ht.1 e (List.mem_filter.1 he).1, ht.2⟩, ?_, fun ha hf => ?_, Store.SameOrphan.refl t⟩⟩
  · exact List.filter_sublist.map _
  · show (t.current.filter p).map _ = _
    rw [List.filter_eq_self.2 (h ht ha hf)]

/-- Resolution and retirement only drop records (R32, R36); without an anchor and FIXED events none retires. -/
theorem resolveRetire_shrinks (x : RCtx) (grace n : Nat) (t : Store) : t.Shrinks (resolveRetire x grace n t) := by
  induction n generalizing t with
  | zero => exact resolve_shrinks x t
  | succ n ih =>
    unfold resolveRetire
    dsimp only
    split
    · refine Store.Shrinks.trans ?_ (ih _)
      refine ⟨rfl, rfl, fun h => ?_⟩
      obtain ⟨a1, a2, a3, a4⟩ := (resolve_shrinks x t).2.2 h
      refine ⟨⟨fun e he => a1.1 e (List.mem_filter.1 he).1, a1.2⟩, (List.filter_sublist.map _).trans a2, fun ha hf => ?_, a4⟩
      have hr := resolve_unanchored x t h ha hf
      have hk : (t.resolve x).anchorKey = none := by
        unfold Store.anchorKey; rw [show (t.resolve x).anchor = none from ha]
      show ((t.resolve x).current.filter _).map _ = _
      rw [List.filter_eq_self.2 (fun e he => by simp [retires, hk, hr e he])]
      exact a3 ha hf
    · exact resolve_shrinks x t

/-- A generation's order is a matter of ids, keys and FIXED start frames only (R20). -/
theorem ordered_iff_core (l : List Event) : Ordered l ↔
    (l.map Event.core).Pairwise (fun x y => x.2.1 < y.2.1) ∧ (l.map Event.core).Pairwise (fun x y => x.1 ≠ y.1) ∧
      (l.map Event.core).Pairwise (fun x y => ∀ a b, x.2.2.1 = some a → y.2.2.1 = some b → a < b) := by
  simp only [Ordered, List.Nodup, List.pairwise_map, Event.core]

/-- Fewer records of an ordered generation are in order. -/
theorem ordered_sublist {l m : List Event} (h : (l.map Event.core).Sublist (m.map Event.core)) (hm : Ordered m) : Ordered l := by
  rw [ordered_iff_core] at *
  exact ⟨hm.1.sublist h, hm.2.1.sublist h, hm.2.2.sublist h⟩

theorem storeOk_tame {t : Store} (h : StoreOk t) : t.Tame := ⟨h.2.1, h.2.2.1⟩

/-! ## The channel at work -/

/-- What the Sequencer's work may do to the store: as settling, but the anchor may move in a DR mode (R30). -/
def W.Follows (v w : W) : Prop :=
  w.ch.ctl.mode = v.ch.ctl.mode ∧ w.ch.store.refresh = v.ch.store.refresh ∧
    (drMode v.ch.ctl.mode = false → w.ch.store.anchor = v.ch.store.anchor) ∧
    (v.ch.store.Tame → w.ch.store.Tame ∧
      (w.ch.store.current.map Event.core).Sublist (v.ch.store.current.map Event.core) ∧
      (drMode v.ch.ctl.mode = false → v.ch.store.anchor = none → (∀ e ∈ v.ch.store.current, e.fixed = none) →
        w.ch.store.current.map Event.core = v.ch.store.current.map Event.core) ∧
      v.ch.store.SameOrphan w.ch.store)

theorem W.Follows.refl (v : W) : v.Follows v :=
  ⟨rfl, rfl, fun _ => rfl, fun h => ⟨h, List.Sublist.refl _, fun _ _ _ => rfl, Store.SameOrphan.refl _⟩⟩

theorem W.Follows.trans {u v w : W} (a : u.Follows v) (b : v.Follows w) : u.Follows w := by
  refine ⟨b.1.trans a.1, b.2.1.trans a.2.1, fun h => (b.2.2.1 (a.1 ▸ h)).trans (a.2.2.1 h), fun h => ?_⟩
  obtain ⟨h1, h2, h3, h4⟩ := a.2.2.2 h
  obtain ⟨g1, g2, g3, g4⟩ := b.2.2.2 h1
  refine ⟨g1, g2.trans h2, fun hm ha hf => ?_, h4.trans g4⟩
  rw [g3 (a.1 ▸ hm) ((a.2.2.1 hm).trans ha) (fixed_of_core h2 hf), h3 hm ha hf]

/-- The store's invariant follows. -/
theorem W.Follows.storeOk {v w : W} (h : v.Follows w) (hv : StoreOk v.ch.store) : StoreOk w.ch.store := by
  obtain ⟨ht, hs, _⟩ := h.2.2.2 (storeOk_tame hv)
  refine ⟨ordered_sublist hs hv.1, ht.1, ht.2, ?_⟩
  rw [h.2.1]; exact hv.2.2.2

/-- The Sequencer's work holds no record more (R19), and sets no event beside the orphan of its id (R20). -/
theorem W.Follows.pool {v w : W} (h : v.Follows w) (hv : v.ch.store.Tame) :
    w.ch.store.held ≤ v.ch.store.held ∧ (OrphanApart v.ch.store → OrphanApart w.ch.store) := by
  obtain ⟨_, hs, _, ho⟩ := h.2.2.2 hv
  have hl : w.ch.store.current.length ≤ v.ch.store.current.length := by simpa using hs.length_le
  refine ⟨?_, fun ha o hw => ?_⟩
  · unfold Store.held
    rw [h.2.1]
    cases hw : w.ch.store.orphan with
    | none => dsimp only; omega
    | some o =>
      obtain ⟨p, hp, _⟩ := ho o hw
      rw [show v.ch.store.orphan = some p from hp]; dsimp only; omega
  · obtain ⟨p, hp, e⟩ := ho o hw
    have hid : o.id = p.id := congrArg Prod.fst e
    obtain ⟨a, b⟩ := ha p hp
    refine ⟨fun x hx => ?_, fun r hr => ?_⟩
    · obtain ⟨y, hy, hc⟩ := List.mem_map.1 (hs.subset (List.mem_map_of_mem (f := Event.core) hx))
      rw [hid, ← show y.id = x.id from congrArg Prod.fst hc]
      exact a y hy
    · rw [h.2.1] at hr; rw [hid]; exact b r hr

/-- A change that leaves the mode and the store alone. -/
theorem follows_of_eq {v w w' : W} (h : v.Follows w) (hm : w'.ch.ctl.mode = w.ch.ctl.mode) (hs : w'.ch.store = w.ch.store) :
    v.Follows w' :=
  h.trans ⟨hm, by rw [hs], fun _ => by rw [hs], by rw [hs]; exact fun h => ⟨h, List.Sublist.refl _, fun _ _ _ => rfl, Store.SameOrphan.refl _⟩⟩

/-- A change of the store that only drops records. -/
theorem follows_shrinks {v w : W} (h : v.Follows w) (f : Store → Store) (hf : w.ch.store.Shrinks (f w.ch.store)) :
    v.Follows (w.modStore f) :=
  h.trans ⟨rfl, hf.1, fun _ => hf.2.1, fun ht => ⟨(hf.2.2 ht).1, (hf.2.2 ht).2.1, fun _ => (hf.2.2 ht).2.2.1, (hf.2.2 ht).2.2.2⟩⟩

theorem modEvent_shrinks (t : Store) (id : Nat) (f : Event → Event) (hf : ∀ e, (f e).stays = e.stays) :
    t.Shrinks (t.modEvent id f) := by
  have hc : (t.modEvent id f).current.map Event.core = t.current.map Event.core := by
    simp only [Store.modEvent, List.map_map]
    refine List.map_congr_left fun e _ => ?_
    simp only [Function.comp]; split
    · exact congrArg Prod.fst (hf e)
    · rfl
  have hl : ∀ e, (if e.id = id then f e else e).lifecycle = e.lifecycle := fun e => by
    split
    · exact congrArg Prod.snd (hf e)
    · rfl
  refine ⟨rfl, rfl, fun h => ⟨⟨?_, ?_⟩, by rw [hc], fun _ _ => hc, ?_⟩⟩
  · intro e he
    obtain ⟨y, hy, rfl⟩ := List.mem_map.1 he
    rw [hl]; exact h.1 y hy
  · intro o ho
    simp only [Store.modEvent, Option.mem_def, Option.map_eq_some_iff] at ho
    obtain ⟨y, hy, rfl⟩ := ho
    rw [hl]; exact h.2 y hy
  · intro o ho
    simp only [Store.modEvent, Option.mem_def, Option.map_eq_some_iff] at ho
    obtain ⟨y, hy, rfl⟩ := ho
    refine ⟨y, hy, ?_⟩
    split
    · exact congrArg Prod.fst (hf y)
    · rfl

theorem relife_core (air cued : List Nat) (e : Event) : (e.relife air cued).core = e.core := by
  unfold Event.relife Event.writeHeld; (repeat' split) <;> rfl

theorem relife_lifecycle (air cued : List Nat) (e : Event) : (e.relife air cued).lifecycle ≠ .orphan := by
  unfold Event.relife Event.writeHeld; (repeat' split) <;> simp

theorem relife_shrinks (t : Store) (air cued : List Nat) :
    t.Shrinks { t with current := t.current.map (Event.relife air cued)
                       orphan := t.orphan.filter fun e => air.contains e.id } := by
  have hc : (t.current.map (Event.relife air cued)).map Event.core = t.current.map Event.core := by
    rw [List.map_map]; exact List.map_congr_left fun e _ => relife_core _ _ e
  refine ⟨rfl, rfl, fun h => ⟨⟨?_, ?_⟩, by rw [hc], fun _ _ => hc, fun o ho => ⟨o, (Option.mem_filter_iff.1 ho).1, rfl⟩⟩⟩
  · intro e he
    obtain ⟨y, _, rfl⟩ := List.mem_map.1 he
    exact relife_lifecycle _ _ y
  · intro o ho
    exact h.2 o (Option.mem_filter_iff.1 ho).1

/-! ### The named changes -/

@[simp] theorem modSeq_follows {v w : W} (f : Seq → Seq) (h : v.Follows w) : v.Follows (w.modSeq f) := follows_of_eq h rfl rfl
@[simp] theorem modTrig_follows {v w : W} (f : Triggers → Triggers) (h : v.Follows w) : v.Follows (w.modTrig f) := follows_of_eq h rfl rfl
@[simp] theorem modOut_follows {v w : W} (f : Out → Out) (h : v.Follows w) : v.Follows (w.modOut f) := follows_of_eq h rfl rfl
@[simp] theorem modMon_follows {v w : W} (f : Monitor → Monitor) (h : v.Follows w) : v.Follows (w.modMon f) := follows_of_eq h rfl rfl
@[simp] theorem modPlayer_follows {v w : W} (p : PlayerId) (f : Player → Player) (h : v.Follows w) : v.Follows (w.modPlayer p f) := by
  cases p <;> exact follows_of_eq h rfl rfl
@[simp] theorem modHanded_follows {v w : W} (x : Option Handed) (h : v.Follows w) :
    v.Follows (w.modCtl fun c => { c with handed := x }) := follows_of_eq h rfl rfl
@[simp] theorem emit_follows {v w : W} (e : Effect) (h : v.Follows w) : v.Follows (w.emit e) := follows_of_eq h rfl rfl
@[simp] theorem notice_follows {v w : W} (env : Env) (f : CtlFlow) (n : Notice) (h : v.Follows w) : v.Follows (w.notice env f n) :=
  follows_of_eq h rfl rfl
@[simp] theorem setMark_follows {v w : W} (event i : Nat) (m : Option Frame) (h : v.Follows w) : v.Follows (w.setMark event i m) :=
  follows_shrinks h _ (modEvent_shrinks _ _ _ fun _ => rfl)

theorem foldl_follows {α : Type} {v : W} (f : W → α → W) (hf : ∀ w x, v.Follows w → v.Follows (f w x)) (l : List α) (w : W)
    (h : v.Follows w) : v.Follows (l.foldl f w) := by
  induction l generalizing w with
  | nil => exact h
  | cons x l ih => exact ih _ (hf _ _ h)

@[simp] theorem record_follows {v w : W} (env : Env) (kind : AsRunKind) (event pass : Nat) (offset : Int) (source : AsRunSource) (detail : Detail) (trigger : Option Nat) (h : v.Follows w) : v.Follows (W.record env kind event pass offset source detail trigger w) := by
  unfold W.record
  (try dsimp only)
  (repeat' split) <;> first | exact h | simp (maxDischargeDepth := 40) [h]

@[simp] theorem itemRecord_follows {v w : W} (env : Env) (kind : AsRunKind) (event pass : Nat) (offset : Int) (source : AsRunSource) (detail : Detail) (h : v.Follows w) : v.Follows (W.itemRecord env kind event pass offset source detail w) := by
  unfold W.itemRecord
  (try dsimp only)
  (repeat' split) <;> first | exact h | simp (maxDischargeDepth := 40) [h]

@[simp] theorem modeNotice_follows {v w : W} (env : Env) (before after : Mode) (cause : ModeCause) (landing : Option Handed) (h : v.Follows w) : v.Follows (W.modeNotice env before after cause landing w) := by
  unfold W.modeNotice
  (try dsimp only)
  (repeat' split) <;> first | exact h | simp (maxDischargeDepth := 40) [h]

@[simp] theorem dropPending_follows {v w : W} (leaves : PendTrig → Bool) (h : v.Follows w) : v.Follows (W.dropPending leaves w) := by
  unfold W.dropPending
  exact foldl_follows _ (fun w x hw => setMark_follows _ _ _ hw) _ _ (modTrig_follows _ h)

@[simp] theorem dropOwner_follows {v w : W} (i : Item) (h : v.Follows w) : v.Follows (W.dropOwner i w) := by
  unfold W.dropOwner
  (try dsimp only)
  (repeat' split) <;> first | exact h | simp (maxDischargeDepth := 40) [h]

@[simp] theorem trigRecord_follows {v w : W} (env : Env) (event pass offset : Nat) (source : AsRunSource) (o : TrigOutcome) (code : Nat) (h : v.Follows w) : v.Follows (W.trigRecord env event pass offset source o code w) := by
  unfold W.trigRecord
  (try dsimp only)
  (repeat' split) <;> first | exact h | simp (maxDischargeDepth := 40) [h]

@[simp] theorem judgeOne_follows {v w : W} (env : Env) (it : Item) (aired : Frame) (e : Event) (index : Nat) (t : Trig) (frame : Frame) (h : v.Follows w) : v.Follows (judgeOne env it aired e index t frame w) := by
  unfold judgeOne
  (try dsimp only)
  (repeat' split) <;> first | exact h | simp (maxDischargeDepth := 40) [h]

@[simp] theorem judgeAgain_follows {v w : W} (env : Env) (old : List PendTrig) (it : Item) (aired : Frame) (e : Event) (index : Nat) (t : Trig) (frame : Frame) (h : v.Follows w) :
    v.Follows (judgeAgain env old it aired e index t frame w) := by
  unfold judgeAgain
  split <;> simp (maxDischargeDepth := 40) [h]

@[simp] theorem judgeTriggers_follows {v w : W} (env : Env) (old : List PendTrig) (it : Item) (aired : Frame) (h : v.Follows w) :
    v.Follows (judgeTriggers env old it aired w) := by
  unfold judgeTriggers
  (repeat' split) <;> first | exact h | (refine foldl_follows _ (fun w x hw => ?_) _ _ h; (try dsimp only); split <;> simp (maxDischargeDepth := 40) [hw])

@[simp] theorem judgeItem_follows {v w : W} (env : Env) (it : Item) (aired : Frame) (h : v.Follows w) : v.Follows (judgeItem env it aired w) :=
  judgeTriggers_follows env [] it aired h

@[simp] theorem rejudge_follows {v w : W} (env : Env) (h : v.Follows w) : v.Follows (rejudge env w) := by
  unfold rejudge
  (try dsimp only)
  (repeat' split) <;> first | exact h | simp (maxDischargeDepth := 40) [h]

@[simp] theorem modWindow_follows {v w : W} (f : Window → Window) (h : v.Follows w) : v.Follows (W.modWindow f w) := by
  unfold W.modWindow
  (try dsimp only)
  (repeat' split) <;> first | exact h | simp (maxDischargeDepth := 40) [h]

@[simp] theorem actTrigger_follows {v w : W} (env : Env) (t : PendTrig) (late : Bool) (h : v.Follows w) : v.Follows (actTrigger env t late w) := by
  unfold actTrigger
  (try dsimp only)
  (repeat' split) <;> first | exact h | simp (maxDischargeDepth := 40) [h]

@[simp] theorem actEntry_follows {v w : W} (env : Env) (t : PendTrig) (h : v.Follows w) : v.Follows (actEntry env w t) := by
  unfold actEntry
  (try dsimp only)
  (repeat' split) <;> first | exact h | simp (maxDischargeDepth := 40) [h]

@[simp] theorem triggerAct_follows {v w : W} (env : Env) (h : v.Follows w) : v.Follows (triggerAct env w) := by
  unfold triggerAct
  dsimp only
  split <;> first | exact h | (exact foldl_follows _ (fun w x hw => by simp (maxDischargeDepth := 40) [hw]) _ _ h) | simp (maxDischargeDepth := 40) [h]

@[simp] theorem judgeHeld_follows {v w : W} (env : Env) (r : Frame) (h : v.Follows w) : v.Follows (judgeHeld env r w) := by
  unfold judgeHeld
  exact foldl_follows _ (fun w x hw => by (try dsimp only); (repeat' split) <;> simp (maxDischargeDepth := 40) [hw]) _ _ (modTrig_follows _ h)

@[simp] theorem sendNext_follows {v w : W} (env : Env) (p : PlayerId) (h : v.Follows w) : v.Follows (sendNext env p w) := by
  unfold sendNext
  (try dsimp only)
  (repeat' split) <;> first | exact h | simp (maxDischargeDepth := 40) [h]

@[simp] theorem submit_follows {v w : W} (env : Env) (p : PlayerId) (req : PReq) (h : v.Follows w) : v.Follows (submit env p req w) := by
  unfold submit
  (try dsimp only)
  (repeat' split) <;> first | exact h | simp (maxDischargeDepth := 40) [h]

@[simp] theorem makeRoom_follows {v w : W} (p : PlayerId) (h : v.Follows w) : v.Follows (makeRoom p w) := by
  unfold makeRoom
  (try dsimp only)
  (repeat' split) <;> first | exact h | simp (maxDischargeDepth := 40) [h]

@[simp] theorem addSpent_follows {v w : W} (i : Item) (due : Option (Frame × Frame)) (h : v.Follows w) : v.Follows (W.addSpent i due w) := by
  unfold W.addSpent
  (try dsimp only)
  (repeat' split) <;> first | exact h | simp (maxDischargeDepth := 40) [h]

@[simp] theorem modLanding_follows {v w : W} (f : Item → Item) (h : v.Follows w) : v.Follows (W.modLanding f w) := by
  unfold W.modLanding
  (try dsimp only)
  (repeat' split) <;> first | exact h | simp (maxDischargeDepth := 40) [h]

@[simp] theorem uncueLanding_follows {v w : W} (f : Item → Item) (h : v.Follows w) : v.Follows (W.uncueLanding f w) := by
  unfold W.uncueLanding
  (try dsimp only)
  (repeat' split) <;> first | exact h | simp (maxDischargeDepth := 40) [h]

@[simp] theorem itemAgain_follows {v w : W} (again : Bool) (p : PlayerId) (avoid : Option PlayerId) (i : Item) (h : v.Follows w) : v.Follows (itemAgain again p avoid i w) := by
  unfold itemAgain
  (try dsimp only)
  (repeat' split) <;> first | exact h | simp (maxDischargeDepth := 40) [h]

@[simp] theorem itemReturned_follows {v w : W} (p : PlayerId) (avoid : Option PlayerId) (i : Item) (h : v.Follows w) : v.Follows (itemReturned p avoid i w) := by
  unfold itemReturned
  (try dsimp only)
  (repeat' split) <;> first | exact h | simp (maxDischargeDepth := 40) [h]

@[simp] theorem clearCue_follows {v w : W} (p : PlayerId) (st : PState) (h : v.Follows w) : v.Follows (clearCue p st w) := by
  unfold clearCue
  (try dsimp only)
  (repeat' split) <;> first | exact h | simp (maxDischargeDepth := 40) [h]

@[simp] theorem failQueuedCue_follows {v w : W} (p : PlayerId) (h : v.Follows w) : v.Follows (failQueuedCue p w) := by
  unfold failQueuedCue
  (try dsimp only)
  (repeat' split) <;> first | exact h | simp (maxDischargeDepth := 40) [h]

@[simp] theorem issueStop_follows {v w : W} (env : Env) (p : PlayerId) (frame : Frame) (h : v.Follows w) : v.Follows (issueStop env p frame w) := by
  unfold issueStop
  (try dsimp only)
  (repeat' split) <;> first | exact h | simp (maxDischargeDepth := 40) [h]

@[simp] theorem stopAtOnce_follows {v w : W} (env : Env) (p : PlayerId) (frame : Frame) (h : v.Follows w) : v.Follows (stopAtOnce env p frame w) := by
  unfold stopAtOnce
  (try dsimp only)
  (repeat' split) <;> first | exact h | simp (maxDischargeDepth := 40) [h]

@[simp] theorem cancelCue_follows {v w : W} (env : Env) (p : PlayerId) (h : v.Follows w) : v.Follows (cancelCue env p w) := by
  unfold cancelCue
  (try dsimp only)
  (repeat' split) <;> first | exact h | simp (maxDischargeDepth := 40) [h]

@[simp] theorem cancelItem_follows {v w : W} (env : Env) (i : Item) (h : v.Follows w) : v.Follows (cancelItem env i w) := by
  unfold cancelItem
  (try dsimp only)
  (repeat' split) <;> first | exact h | simp (maxDischargeDepth := 40) [h]

@[simp] theorem leaveRecord_follows {v w : W} (env : Env) (o : OnAir) (h : v.Follows w) : v.Follows (leaveRecord env o w) := by
  unfold leaveRecord
  (try dsimp only)
  (repeat' split) <;> first | exact h | simp (maxDischargeDepth := 40) [h]

@[simp] theorem leaveAir_follows {v w : W} (env : Env) (h : v.Follows w) : v.Follows (leaveAir env w) := by
  unfold leaveAir
  (try dsimp only)
  (repeat' split) <;> first | exact h | simp (maxDischargeDepth := 40) [h]

@[simp] theorem playerEnd_follows {v w : W} (env : Env) (p : PlayerId) (h : v.Follows w) : v.Follows (playerEnd env p w) := by
  unfold playerEnd
  (try dsimp only)
  (repeat' split) <;> first | exact h | simp (maxDischargeDepth := 40) [h]

@[simp] theorem stopFrame_follows {v w : W} (env : Env) (p : PlayerId) (h : v.Follows w) : v.Follows (stopFrame env p w) := by
  unfold stopFrame
  (try dsimp only)
  (repeat' split) <;> first | exact h | simp (maxDischargeDepth := 40) [h]

@[simp] theorem playersLeave_follows {v w : W} (env : Env) (h : v.Follows w) : v.Follows (playersLeave env w) := by
  unfold playersLeave
  (try dsimp only)
  (repeat' split) <;> first | exact h | simp (maxDischargeDepth := 40) [h]

@[simp] theorem returnItems_follows {v w : W} (env : Env) (p : PlayerId) (i : Item) (h : v.Follows w) : v.Follows (returnItems env p i w) := by
  unfold returnItems
  (try dsimp only)
  (repeat' split) <;> first | exact h | simp (maxDischargeDepth := 40) [h]

@[simp] theorem enterFault_follows {v w : W} (env : Env) (p : PlayerId) (cause : PlayerCause) (h : v.Follows w) : v.Follows (enterFault env p cause w) := by
  unfold enterFault
  (try dsimp only)
  (repeat' split) <;> first | exact h | simp (maxDischargeDepth := 40) [h]

@[simp] theorem replyTimeout_follows {v w : W} (env : Env) (p : PlayerId) (h : v.Follows w) : v.Follows (replyTimeout env p w) := by
  unfold replyTimeout
  (try dsimp only)
  (repeat' split) <;> first | exact h | simp (maxDischargeDepth := 40) [h]

@[simp] theorem stall_follows {v w : W} (env : Env) (p : PlayerId) (h : v.Follows w) : v.Follows (stall env p w) := by
  unfold stall
  (try dsimp only)
  (repeat' split) <;> first | exact h | simp (maxDischargeDepth := 40) [h]

@[simp] theorem probe_follows {v w : W} (env : Env) (p : PlayerId) (h : v.Follows w) : v.Follows (probe env p w) := by
  unfold probe
  (try dsimp only)
  (repeat' split) <;> first | exact h | simp (maxDischargeDepth := 40) [h]

@[simp] theorem takePointer_follows {v w : W} (env : Env) (h : v.Follows w) : v.Follows (takePointer env w) := by
  unfold takePointer
  (try dsimp only)
  (repeat' split) <;> first | exact h | simp (maxDischargeDepth := 40) [h]

@[simp] theorem loadCue_follows {v w : W} (env : Env) (p : PlayerId) (i : Item) (handle : Nat) (roll : Frame) (h : v.Follows w) : v.Follows (loadCue env p i handle roll w) := by
  unfold loadCue
  (try dsimp only)
  (repeat' split) <;> first | exact h | simp (maxDischargeDepth := 40) [h]

@[simp] theorem loseWhole_follows {v w : W} (env : Env) (i : Item) (h : v.Follows w) : v.Follows (loseWhole env i w) := by
  unfold loseWhole
  (try dsimp only)
  (repeat' split) <;> first | exact h | simp (maxDischargeDepth := 40) [h]

@[simp] theorem cueLanding_follows {v w : W} (env : Env) (h : v.Follows w) : v.Follows (cueLanding env w) := by
  unfold cueLanding
  (try dsimp only)
  (repeat' split) <;> first | exact h | simp (maxDischargeDepth := 40) [h]

@[simp] theorem cuePreroll_follows {v w : W} (env : Env) (p : PlayerId) (i : Item) (h : v.Follows w) : v.Follows (cuePreroll env p i w) := by
  unfold cuePreroll
  (try dsimp only)
  (repeat' split) <;> first | exact h | simp (maxDischargeDepth := 40) [h]

@[simp] theorem cueBreak_follows {v w : W} (env : Env) (h : v.Follows w) : v.Follows (cueBreak env w) := by
  unfold cueBreak
  (try dsimp only)
  (repeat' split) <;> first | exact h | simp (maxDischargeDepth := 40) [h]

@[simp] theorem lateCue_follows {v w : W} (env : Env) (h : v.Follows w) : v.Follows (lateCue env w) := by
  unfold lateCue
  (try dsimp only)
  (repeat' split) <;> first | exact h | simp (maxDischargeDepth := 40) [h]

theorem breakLost_follows {v : W} (edge : Frame) (w : W) (h : v.Follows w) : ∀ x, breakLost edge w = some x → v.Follows x := by
  intro x hx
  unfold breakLost at hx
  (repeat' split at hx) <;> simp at hx <;> (try subst hx) <;> simp (maxDischargeDepth := 40) [h]

theorem landingLost_follows {v : W} (env : Env) (edge : Frame) (w : W) (h : v.Follows w) :
    ∀ x, landingLost env edge w = some x → v.Follows x := by
  intro x hx
  unfold landingLost at hx
  (repeat' split at hx) <;> simp at hx <;> (try subst hx) <;> simp (maxDischargeDepth := 40) [h]

theorem pointerLost_follows {v : W} (env : Env) (edge : Frame) (w : W) (h : v.Follows w) :
    ∀ x, pointerLost env edge w = some x → v.Follows x := by
  intro x hx
  unfold pointerLost at hx
  (repeat' split at hx) <;> simp at hx <;> (try subst hx) <;> simp (maxDischargeDepth := 40) [h]

theorem itemLostOnce_follows {v : W} (env : Env) (w : W) (h : v.Follows w) : ∀ x, itemLostOnce env w = some x → v.Follows x := by
  intro x hx
  unfold itemLostOnce at hx
  dsimp only at hx
  split at hx
  · rename_i h'; cases hx; exact breakLost_follows _ w h _ h'
  · split at hx
    · rename_i h'; cases hx; exact landingLost_follows env _ w h _ h'
    · exact pointerLost_follows env _ w h _ hx
@[simp] theorem loseItems_follows {v w : W} (env : Env) (n : Nat) (h : v.Follows w) : v.Follows (loseItems env n w) := by
  induction n generalizing w with
  | zero => exact h
  | succ n ih =>
    unfold loseItems
    split
    · rename_i x hx; exact ih (itemLostOnce_follows env w h x hx)
    · exact h

@[simp] theorem cueWindow_follows {v w : W} (env : Env) (h : v.Follows w) : v.Follows (cueWindow env w) := by
  unfold cueWindow
  (try dsimp only)
  (repeat' split) <;> first | exact h | simp (maxDischargeDepth := 40) [h]

@[simp] theorem startRecords_follows {v w : W} (env : Env) (i : Item) (h : v.Follows w) : v.Follows (startRecords env i w) := by
  unfold startRecords
  (try dsimp only)
  (repeat' split) <;> first | exact h | simp (maxDischargeDepth := 40) [h]

@[simp] theorem setAnchorFrom_follows {v w : W} (env : Env) (i : Item) (h : v.Follows w) : v.Follows (setAnchorFrom env i w) := by
  unfold setAnchorFrom
  split
  · rename_i hd
    rw [Bool.and_eq_true] at hd
    exact h.trans ⟨rfl, rfl, fun hm => absurd hd.1 (by simpa [W.mode] using hm), fun ht => ⟨ht, List.Sublist.refl _, fun _ _ _ => rfl, Store.SameOrphan.refl _⟩⟩
  · exact h

@[simp] theorem putOnAir_follows {v w : W} (env : Env) (i : Item) (h : v.Follows w) : v.Follows (putOnAir env i w) := by
  unfold putOnAir
  (try dsimp only)
  (repeat' split) <;> first | exact h | simp (maxDischargeDepth := 40) [h]

@[simp] theorem putWait_follows {v w : W} (env : Env) (i : Option Item) (h : v.Follows w) : v.Follows (putWait env i w) := by
  unfold putWait
  (try dsimp only)
  (repeat' split) <;> first | exact h | simp (maxDischargeDepth := 40) [h]

@[simp] theorem playerRoll_follows {v w : W} (env : Env) (p : PlayerId) (h : v.Follows w) : v.Follows (playerRoll env p w) := by
  unfold playerRoll
  (try dsimp only)
  (repeat' split) <;> first | exact h | simp (maxDischargeDepth := 40) [h]

@[simp] theorem nextBreak_follows {v w : W} (env : Env) (h : v.Follows w) : v.Follows (nextBreak env w) := by
  unfold nextBreak
  (try dsimp only)
  (repeat' split) <;> first | exact h | simp (maxDischargeDepth := 40) [h]

@[simp] theorem nextItem_follows {v w : W} (env : Env) (h : v.Follows w) : v.Follows (nextItem env w) := by
  unfold nextItem
  (try dsimp only)
  (repeat' split) <;> first | exact h | simp (maxDischargeDepth := 40) [h]

@[simp] theorem landingOver_follows {v w : W} (env : Env) (h : v.Follows w) : v.Follows (landingOver env w) := by
  unfold landingOver
  (try dsimp only)
  (repeat' split) <;> first | exact h | simp (maxDischargeDepth := 40) [h]

theorem landPlaying_follows {v : W} (env : Env) (w : W) (h : v.Follows w) : ∀ x, landPlaying env w = some x → v.Follows x := by
  intro x hx
  unfold landPlaying at hx
  (repeat' split at hx) <;> simp at hx <;> (try subst hx) <;> simp (maxDischargeDepth := 40) [h]

@[simp] theorem landNow_follows {v w : W} (env : Env) (l : Landing) (h : v.Follows w) : v.Follows (landNow env l w) := by
  unfold landNow
  split
  · rename_i x hx; exact landPlaying_follows env w h x hx
  · (repeat' split) <;> first | exact h | simp (maxDischargeDepth := 40) [h]

@[simp] theorem nextOnAir_follows {v w : W} (env : Env) (h : v.Follows w) : v.Follows (nextOnAir env w) := by
  unfold nextOnAir
  (try dsimp only)
  (repeat' split) <;> first | exact h | simp (maxDischargeDepth := 40) [h]

@[simp] theorem othersLeave_follows {v w : W} (env : Env) (h : v.Follows w) : v.Follows (othersLeave env w) := by
  unfold othersLeave
  (try dsimp only)
  (repeat' split) <;> first | exact h | simp (maxDischargeDepth := 40) [h]

@[simp] theorem droppedRecords_follows {v w : W} (env : Env) (h : v.Follows w) : v.Follows (droppedRecords env w) := by
  unfold droppedRecords
  split
  · exact foldl_follows _ (fun w x hw => by simp (maxDischargeDepth := 40) [hw]) _ _ h
  · exact h

@[simp] theorem spentRecords_follows {v w : W} (env : Env) (h : v.Follows w) : v.Follows (spentRecords env w) := by
  unfold spentRecords
  dsimp only
  exact modSeq_follows _ (modSeq_follows _ (foldl_follows _ (fun w x hw => by split <;> simp (maxDischargeDepth := 40) [hw]) _ _ h))

@[simp] theorem syncWait_follows {v w : W} (h : v.Follows w) : v.Follows (syncWait w) := by
  unfold syncWait
  (try dsimp only)
  (repeat' split) <;> first | exact h | simp (maxDischargeDepth := 40) [h]

@[simp] theorem syncPasses_follows {v w : W} (h : v.Follows w) : v.Follows (syncPasses w) := by
  unfold syncPasses
  (try dsimp only)
  (repeat' split) <;> first | exact h | simp (maxDischargeDepth := 40) [h]

@[simp] theorem syncLife_follows {v w : W} (h : v.Follows w) : v.Follows (syncLife w) := by
  unfold syncLife
  exact follows_shrinks (by simp (maxDischargeDepth := 40) [h]) _ (relife_shrinks _ _ _)

@[simp] theorem joinOnAir_follows {v w : W} (env : Env) (why : JoinFor) (carrier : Option PlayerId) (target : Frame) (h : v.Follows w) : v.Follows (joinOnAir env why carrier target w) := by
  unfold joinOnAir
  (try dsimp only)
  (repeat' split) <;> first | exact h | simp (maxDischargeDepth := 40) [h]

@[simp] theorem joinBreak_follows {v w : W} (env : Env) (target : Frame) (h : v.Follows w) : v.Follows (joinBreak env target w) := by
  unfold joinBreak
  (try dsimp only)
  (repeat' split) <;> first | exact h | simp (maxDischargeDepth := 40) [h]

@[simp] theorem joinOldLanding_follows {v w : W} (env : Env) (carrier : Option PlayerId) (h : v.Follows w) : v.Follows (joinOldLanding env carrier w) := by
  unfold joinOldLanding
  (try dsimp only)
  (repeat' split) <;> first | exact h | simp (maxDischargeDepth := 40) [h]

@[simp] theorem joinCued_follows {v w : W} (env : Env) (carrier : Option PlayerId) (land : Item) (after : Frame) (h : v.Follows w) : v.Follows (joinCued env carrier land after w) := by
  unfold joinCued
  (try dsimp only)
  (repeat' split) <;> first | exact h | simp (maxDischargeDepth := 40) [h]

@[simp] theorem carryLanding_follows {v w : W} (carrier : Option PlayerId) (land : Item) (h : v.Follows w) : v.Follows (carryLanding carrier land w) := by
  unfold carryLanding
  split <;> first | exact h | simp (maxDischargeDepth := 40) [h]

@[simp] theorem handJoin_follows {v w : W} (env : Env) (why : JoinFor) (target : Frame) (h : v.Follows w) : v.Follows (handJoin env why target w) := by
  unfold handJoin
  (try dsimp only)
  (repeat' split) <;> first | exact h | simp (maxDischargeDepth := 40) [h]

@[simp] theorem cutPlayer_follows {v w : W} (env : Env) (p : PlayerId) (stop : Frame) (h : v.Follows w) : v.Follows (cutPlayer env p stop w) := by
  unfold cutPlayer
  (try dsimp only)
  (repeat' split) <;> first | exact h | simp (maxDischargeDepth := 40) [h]

@[simp] theorem reactOnAir_follows {v w : W} (env : Env) (h : v.Follows w) : v.Follows (reactOnAir env w) := by
  unfold reactOnAir
  (try dsimp only)
  (repeat' split) <;> first | exact h | simp (maxDischargeDepth := 40) [h]

@[simp] theorem reactCued_follows {v w : W} (env : Env) (h : v.Follows w) : v.Follows (reactCued env w) := by
  unfold reactCued
  (try dsimp only)
  (repeat' split) <;> first | exact h | simp (maxDischargeDepth := 40) [h]

@[simp] theorem keepLanding_follows {v w : W} (env : Env) (l : Landing) (fresh : Item) (q q' : Int) (h : v.Follows w) : v.Follows (keepLanding env l fresh q q' w) := by
  unfold keepLanding
  (try dsimp only)
  (repeat' split) <;> first | exact h | simp (maxDischargeDepth := 40) [h]

@[simp] theorem reactLanding_follows {v w : W} (env : Env) (h : v.Follows w) : v.Follows (reactLanding env w) := by
  unfold reactLanding
  (try dsimp only)
  (repeat' split) <;> first | exact h | simp (maxDischargeDepth := 40) [h]

@[simp] theorem abandonSweep_follows {v w : W} (h : v.Follows w) : v.Follows (abandonSweep w) := by
  unfold abandonSweep
  (try dsimp only)
  (repeat' split) <;> first | exact h | simp (maxDischargeDepth := 40) [h]

@[simp] theorem resolveStore_follows {v w : W} (env : Env) (h : v.Follows w) : v.Follows (resolveStore env w) := by
  unfold resolveStore
  dsimp only
  have := follows_shrinks h _ (resolveRetire_shrinks (resCtx env w.ch) env.part.retireGrace (w.ch.store.current.length + 1) w.ch.store)
  split
  · exact abandonSweep_follows this
  · exact this

@[simp] theorem settleOnce_follows {v w : W} (env : Env) (h : v.Follows w) : v.Follows (settleOnce env w) := by
  unfold settleOnce
  (try dsimp only)
  (repeat' split) <;> first | exact h | simp (maxDischargeDepth := 40) [h]

@[simp] theorem settleLoop_follows {v w : W} (env : Env) (n : Nat) (h : v.Follows w) : v.Follows (settleLoop env n w) := by
  induction n generalizing w with
  | zero => exact h
  | succ n ih =>
    unfold settleLoop
    dsimp only
    split
    · simp (maxDischargeDepth := 40) [h]
    · exact ih (by simp (maxDischargeDepth := 40) [h])

@[simp] theorem settle_follows {v w : W} (env : Env) (h : v.Follows w) : v.Follows (settle env w) := by
  unfold settle
  (try dsimp only)
  (repeat' split) <;> first | exact h | simp (maxDischargeDepth := 40) [h]

@[simp] theorem joinSettled_follows {v w : W} (env : Env) (why : JoinFor) (target : Frame) (h : v.Follows w) : v.Follows (joinSettled env why target w) := by
  unfold joinSettled
  (try dsimp only)
  (repeat' split) <;> first | exact h | simp (maxDischargeDepth := 40) [h]

@[simp] theorem sweepQuery_follows {v w : W} (env : Env) (h : v.Follows w) : v.Follows (sweepQuery env w) := by
  unfold sweepQuery
  (try dsimp only)
  (repeat' split) <;> first | exact h | simp (maxDischargeDepth := 40) [h]

@[simp] theorem itemLost_follows {v w : W} (env : Env) (h : v.Follows w) : v.Follows (itemLost env w) := by
  unfold itemLost
  (try dsimp only)
  (repeat' split) <;> first | exact h | simp (maxDischargeDepth := 40) [h]

@[simp] theorem cueAll_follows {v w : W} (env : Env) (n : Nat) (h : v.Follows w) : v.Follows (cueAll env n w) := by
  induction n generalizing w with
  | zero => exact h
  | succ n ih =>
    unfold cueAll
    dsimp only
    split
    · simp (maxDischargeDepth := 40) [h]
    · exact ih (by simp (maxDischargeDepth := 40) [h])

@[simp] theorem pump_follows {v w : W} (env : Env) (h : v.Follows w) : v.Follows (pump env w) := by
  unfold pump
  (try dsimp only)
  (repeat' split) <;> first | exact h | simp (maxDischargeDepth := 40) [h]

@[simp] theorem settled_follows {v w : W} (env : Env) (h : v.Follows w) : v.Follows (settled env w) := by
  unfold settled
  (try dsimp only)
  (repeat' split) <;> first | exact h | simp (maxDischargeDepth := 40) [h]

@[simp] theorem shadowStart_follows {v w : W} (env : Env) (h : v.Follows w) : v.Follows (shadowStart env w) := by
  unfold shadowStart
  (try dsimp only)
  (repeat' split) <;> first | exact h | simp (maxDischargeDepth := 40) [h]

@[simp] theorem realignCompare_follows {v w : W} (env : Env) (h : v.Follows w) : v.Follows (realignCompare env w) := by
  unfold realignCompare
  (try dsimp only)
  (repeat' split) <;> first | exact h | simp (maxDischargeDepth := 40) [h]

@[simp] theorem shadowRejoin_follows {v w : W} (env : Env) (h : v.Follows w) : v.Follows (shadowRejoin env w) := by
  unfold shadowRejoin
  (try dsimp only)
  (repeat' split) <;> first | exact h | simp (maxDischargeDepth := 40) [h]

@[simp] theorem stopHolder_follows {v w : W} (env : Env) (frame : Frame) (p : PlayerId) (h : v.Follows w) : v.Follows (stopHolder env frame p w) := by
  unfold stopHolder
  (try dsimp only)
  (repeat' split) <;> first | exact h | simp (maxDischargeDepth := 40) [h]

@[simp] theorem endContext_follows {v w : W} (h : v.Follows w) : v.Follows (endContext w) := by
  unfold endContext
  (try dsimp only)
  (repeat' split) <;> first | exact h | simp (maxDischargeDepth := 40) [h]

@[simp] theorem shadowEnd_follows {v w : W} (env : Env) (h : v.Follows w) : v.Follows (shadowEnd env w) := by
  unfold shadowEnd
  (try dsimp only)
  (repeat' split) <;> first | exact h | simp (maxDischargeDepth := 40) [h]

/-- What the sweep's answer or a failed cue tells of an event moves its readiness only. -/
theorem setReadiness_follows {v w : W} (id : Nat) (r : Readiness) (h : v.Follows w) :
    v.Follows (w.modStore fun t => t.modEvent id fun e => { e with readiness := r }) :=
  follows_shrinks h _ (modEvent_shrinks _ _ _ fun _ => rfl)

end Sys2Proof.Machine
end

