-- ==== Sys2Proof/Tests/Slice0.lean ====
section
/-! SUPPORT. Tests by evaluation: ill-formed commands are refused by the check, small steps of the machine, the spec's
worked figures, and for every statement with hypotheses a state and operands that meet them. -/

namespace Sys2Proof.Tests

open Sys2Proof Sys2Proof.Machine

/-! ## Ill-formed commands (WellFormed.lean) -/

/-- A head whose fields fit, for channel `ch`. -/
def hd (ch : Nat) : Head := { tag := 1, channel := ch, bodyLen := 0, present := 0 }

/-- A head for channel `ch` whose packet holds a body of `n` bytes, and states it. -/
def hdFor (ch n : Nat) : Head := { tag := 1, channel := ch, bodyLen := n, present := n }

/-- The label 00:00:00:00. -/
def zeroLabel : Label := ⟨0, 0, 0, 0⟩

/-- A control header's bytes: kind, code, request tag, channel, status, body length (R200). -/
def ctl (kind code rtag ch len : Nat) : List Byte :=
  [BitVec.ofNat 8 kind, BitVec.ofNat 8 code] ++ beBytes 2 rtag ++ [BitVec.ofNat 8 ch, 0] ++ beBytes 2 len

/-- A frame on port L0 that passes every check of R65 with the default EtherType, with a packet of a type. -/
def typed (tag : Nat) (type_ : Byte) : Eth :=
  { port := 0, fcsOk := true, length := 9216, etherType := 0x9A20, head := beBytes 2 tag ++ [type_] }

/-- A frame with a CONTROL packet. -/
def frm (tag : Nat) : Eth := typed tag 3

/-- The control header of a player's reply under request tag 9. -/
def replying : List Byte := ctl 1 0 9 0 0

/-- The control header of a request under tag 1, of a code. -/
def asking (code : Nat) : List Byte := ctl 0 code 1 0 0

theorem test_wellformed_commands :
    Instr.wellFormed .powerOn = true ∧ Instr.wellFormed (.cued (frm 65535) replying) = true ∧
    Instr.wellFormed (.timeSet .loc (hd 255) 65535 zeroLabel) = true ∧
    Instr.wellFormed (.breakIn .loc (hd 0) 4294967295 16777216 (some 16777215) none) = true := by decide

theorem test_illformed_heads :
    Instr.wellFormed (.logFlush .loc ⟨65536, 0, 0, 0⟩) = false ∧ Instr.wellFormed (.logFlush .loc ⟨0, 256, 0, 0⟩) = false ∧
    Instr.wellFormed (.logFlush .loc ⟨0, 0, 65536, 0⟩) = false := by decide

theorem test_illformed_frames :
    Instr.wellFormed (.video ⟨0, true, 60, 65536, [0, 1, 1]⟩ []) = false ∧ Instr.wellFormed (.frameDrop ⟨0, true, 60, 1, [0, 1]⟩ [] []) = false ∧
    Instr.wellFormed (.frameDrop ⟨0, true, 60, 1, [0, 1, 3]⟩ [] []) = false ∧ Instr.wellFormed (.frameDrop ⟨0, true, 60, 1, [0, 1, 7]⟩ [] [9]) = true ∧
    Instr.wellFormed (.frameHeader (typed 1 0) []) = true ∧ Instr.wellFormed (.frameHeader (typed 1 1) []) = false ∧
    Instr.wellFormed (.video (typed 1 0) []) = false ∧ Instr.wellFormed (.audio (typed 1 1) []) = false := by decide

theorem test_illformed_replies :
    Instr.wellFormed (.cued (frm 1) (asking 0)) = false ∧ Instr.wellFormed (.cueFailed (frm 1) (asking 0) .unable) = false ∧
    Instr.wellFormed (.stopped (typed 1 0) replying) = false ∧ Instr.wellFormed (.answer (frm 1) (asking 0) 0 true 0) = false ∧
    Instr.wellFormed (.answer (frm 1) replying 4294967296 true 0) = false ∧
    Instr.wellFormed (.answer (frm 1) replying 0 true 4294967296) = false ∧
    Instr.wellFormed (.controlRequestPacket (frm 1) ⟨asking 26, 65536, .logFlush⟩) = false ∧
    Instr.wellFormed (.controlRequestPacket (frm 1) ⟨replying, 0, .logFlush⟩) = false ∧
    Instr.wellFormed (.controlRequestPacket (frm 1) ⟨asking 10, 0, .flowClear 65536⟩) = false := by decide

theorem test_illformed_main_requests :
    Instr.wellFormed (.mirrorBatch .main (hd 0) 65536 []) = false ∧ Instr.wellFormed (.refreshOpen .main (hd 0) 65536) = false ∧
    Instr.wellFormed (.refreshClose .main (hd 0) 65536 0 0) = false ∧ Instr.wellFormed (.refreshClose .main (hd 0) 0 4294967296 0) = false ∧
    Instr.wellFormed (.refreshClose .main (hd 0) 0 0 4294967296) = false ∧ Instr.wellFormed (.digestCheck .main (hd 0) 4294967296 0 0) = false ∧
    Instr.wellFormed (.digestCheck .main (hd 0) 0 4294967296 0) = false ∧ Instr.wellFormed (.digestCheck .main (hd 0) 0 0 4294967296) = false ∧
    Instr.wellFormed (.siteBeat .main (hd 0) 65536 zeroLabel) = false ∧ Instr.wellFormed (.handover .main (hd 0) 65536 zeroLabel) = false ∧
    Instr.wellFormed (.handbackAsk .main (hd 0) (.at 65536 zeroLabel)) = false := by decide

theorem test_illformed_tables :
    Instr.wellFormed (.setParam .loc (hd 0) .unknown 4294967296) = false ∧ Instr.wellFormed (.getParam .loc (hd 0) (.trigger 65536)) = false ∧
    Instr.wellFormed (.setParam .loc (hd 0) (.chan (.attrClass 256)) 0) = false ∧
    Instr.wellFormed (.getParam .loc (hd 0) (.chan (.attrThreshold 256))) = false ∧
    Instr.wellFormed (.flowLoad .loc (hd 0) 65536 0 none 0) = false ∧ Instr.wellFormed (.flowLoad .loc (hd 0) 0 256 none 0) = false ∧
    Instr.wellFormed (.flowLoad .loc (hd 0) 0 0 none 256) = false ∧ Instr.wellFormed (.flowClear .loc (hd 0) 65536) = false ∧
    Instr.wellFormed (.triggerLoad .loc (hd 0) 256 .notify) = false ∧ Instr.wellFormed (.triggerLoad .loc (hd 0) 6 (.outputCue [] 65536)) = false ∧
    Instr.wellFormed (.triggerLoad .loc (hd 0) 6 (.ident 256 none)) = false ∧ Instr.wellFormed (.triggerClear .loc (hd 0) 256) = false := by
  decide

theorem test_illformed_graphics :
    Instr.wellFormed (.graphicBegin .loc (hd 0) 256 2 2) = false ∧ Instr.wellFormed (.graphicBegin .loc (hd 0) 0 65536 2) = false ∧
    Instr.wellFormed (.graphicBegin .loc (hd 0) 0 2 65536) = false ∧ Instr.wellFormed (.graphicSegment .loc (hd 0) 256 0 []) = false ∧
    Instr.wellFormed (.graphicSegment .loc (hd 0) 0 4294967296 []) = false ∧ Instr.wellFormed (.graphicEnd .loc (hd 0) 256) = false ∧
    Instr.wellFormed (.windowSet .loc (hd 0) true 256 0 0 0 0) = false ∧ Instr.wellFormed (.windowSet .loc (hd 0) true 0 65536 0 0 0) = false ∧
    Instr.wellFormed (.windowSet .loc (hd 0) true 0 0 65536 0 0) = false ∧ Instr.wellFormed (.windowSet .loc (hd 0) true 0 0 0 256 0) = false ∧
    Instr.wellFormed (.windowSet .loc (hd 0) true 0 0 0 0 256) = false := by decide

theorem test_illformed_segment_length (d : List Byte) (h : d.length = 65536) :
    Instr.wellFormed (.graphicSegment .loc (hd 0) 0 0 d) = false := by
  simp [Instr.wellFormed, Instr.request, ReqBody.wellFormed, fits, h]

/-- A body's last field stands within its packet. -/
theorem test_illformed_tails :
    Instr.wellFormed (.mirrorBatch .main (hd 0) 1 [0]) = false ∧ Instr.wellFormed (.graphicSegment .loc (hd 0) 0 0 [0]) = false ∧
    Instr.wellFormed (.controlRequestPacket (frm 1) ⟨asking 0, 0, .mirrorBatch 1 [0]⟩) = false ∧
    Instr.wellFormed (.mirrorBatch .main (hdFor 0 3) 1 [0]) = true := by decide

theorem test_illformed_cue_payload (d : List Byte) (h : d.length = 256) :
    Instr.wellFormed (.triggerLoad .loc (hd 0) 6 (.outputCue d 0)) = false := by
  simp [Instr.wellFormed, Instr.request, ReqBody.wellFormed, LoadAction.wellFormed, fits, h]

theorem test_illformed_channel_requests :
    Instr.wellFormed (.takeover .loc (hd 0) (.at 65536 zeroLabel) true) = false ∧
    Instr.wellFormed (.handback .loc (hd 0) (.at 65536 zeroLabel) true) = false ∧
    Instr.wellFormed (.breakIn .loc (hd 0) 4294967296 0 none none) = false ∧ Instr.wellFormed (.breakIn .loc (hd 0) 1 4294967296 none none) = false ∧
    Instr.wellFormed (.breakIn .loc (hd 0) 1 0 (some 16777216) none) = false ∧ Instr.wellFormed (.queryEvents .loc (hd 0) 4294967296 1) = false ∧
    Instr.wellFormed (.queryEvents .loc (hd 0) 0 256) = false ∧ Instr.wellFormed (.logRead .loc (hd 0) 4294967296 1) = false ∧
    Instr.wellFormed (.logRead .loc (hd 0) 0 256) = false ∧ Instr.wellFormed (.timeSet .loc (hd 0) 65536 zeroLabel) = false ∧
    Instr.wellFormed (.resetChannel .loc (hd 0) 256) = false ∧ Instr.wellFormed (.unknownRequestCode .loc (hd 0) 30) = false ∧
    Instr.wellFormed (.unknownRequestCode .loc (hd 0) 256) = false := by decide

/-! ## Figures the spec works out -/

/-- The label HH:MM:SS:FF. -/
def lb (hh mm ss ff : Byte) : Label := ⟨hh, mm, ss, ff⟩

theorem test_worked_frames_of_day :
    frameOfDay .f25 (lb 0x09 0x57 0 0) = 895500 ∧ frameOfDay .f50 (lb 0x23 0x59 0x59 0x49) = 4319999 ∧
    frameOfDay .f2997 (lb 0 0x01 0 0x02) = 1800 ∧ frameOfDay .f2997 (lb 0 0x09 0x59 0x29) = 17981 ∧
    frameOfDay .f2997 (lb 0x01 0x23 0x45 0x12) = 150612 ∧ frameOfDay .f2997 (lb 0x10 0 0 0) = 1078920 ∧
    frameOfDay .f2997 (lb 0x23 0x59 0x59 0x29) = 2589407 ∧ frameOfDay .f5994 (lb 0 0x01 0 0x04) = 3600 ∧
    frameOfDay .f5994 (lb 0 0x11 0 0x04) = 39564 ∧ frameOfDay .f5994 (lb 0x10 0 0 0) = 2157840 := by decide

theorem test_worked_labels_of_day :
    labelOfDay .f2997 1799 = lb 0 0 0x59 0x29 ∧ labelOfDay .f2997 1800 = lb 0 0x01 0 0x02 ∧
    labelOfDay .f2997 17982 = lb 0 0x10 0 0 ∧ labelOfDay .f2997 150612 = lb 0x01 0x23 0x45 0x12 ∧
    labelOfDay .f2997 1078920 = lb 0x10 0 0 0 ∧ labelOfDay .f5994 3600 = lb 0 0x01 0 0x04 ∧
    labelOfDay .f5994 2157840 = lb 0x10 0 0 0 := by decide

/-! ## A part at work -/

/-- The part at HFN 1000, LOCKED, its period's frames built, with every link UP and the flows of channel 0. -/
def ready : State :=
  { State.reset with
    time := { TimeBase.reset .f25 with waiting := false, timeState := .set, hfn := 1000, lastBoundary := 1000000, built := true }
    ports := Vector.replicate 4 (PortState.reset true)
    flows := [FlowEntry.bootstrap, ⟨2, 1, .mainCtl, none⟩, ⟨3, 2, .mainReturn, some 0⟩, ⟨4, 3, .playerA, some 0⟩,
              ⟨5, 3, .playerB, some 0⟩, ⟨6, 3, .output, some 0⟩] }

/-- `ready` with channel 0 changed. -/
def onCh (f : Chan → Chan) : State := ready.setCh 0 (f ready.chans[0])

/-- `ready` with channel 0 in a mode, with a switch. -/
def inMode (m : Mode) (x : Option Switch) : State := onCh fun c => { c with ctl := { c.ctl with mode := m, switch := x } }

/-- `ready` with channel 0's Sequencer changed. -/
def withSeq (f : Seq → Seq) : State := onCh fun c => { c with seq := f c.seq }

/-- `ready` with channel 0's player A changed. -/
def withA (f : Player → Player) : State := withSeq fun q => { q with a := f q.a }

/-- `ready` with channel 0's monitor changed. -/
def withMon (f : Monitor → Monitor) : State := onCh fun c => { c with mon := f c.mon }

/-- The monitor with a DECISIVE run at its threshold. -/
def decisive (st : MonState) (m : Monitor) : Monitor :=
  { m with state := st, attrs := m.attrs.set 0 { run := 25, total := 25, worst := 25, flag := false } }

/-- A frame on port 3, where the players' entries are. -/
def frm3 (tag : Nat) : Eth := { frm tag with port := 3 }

/-- An essence frame on port 2, where the main return's entry is. -/
def frm2 (type_ : Byte) : Eth := { typed 3 type_ with port := 2 }

/-- An event of 100 frames, resolved from frame `o`. -/
def event (id key : Nat) (o : Frame) : Event :=
  { id := id, key := key, fixed := none, duration := 100, passes := 1, clip := 500 + id, inPoint := 0, action := .play,
    subst := none, triggers := [], res := some { origin := o, start := o, stop := o + 100 }, readiness := .unknown,
    lifecycle := .pending, held := none }

/-- The PASS item of `event`. -/
def item (id : Nat) (o : Frame) : Item := Item.fresh .pass id 0 o (some (o + 100)) 0

/-- The item of event 7 on player A after `n` attempts. -/
def onA (n : Nat) : Item := { item 7 1050 with player := some .a, attempts := n, handle := some 507 }

/-- Player A cueing the item of event 7 to roll at `r`, its CUE in flight under tag 9. -/
def cueing (r : Frame) (n : Nat) : State := onCh fun c => { c with
  store := { c.store with current := [event 7 10 1050] }
  seq := { c.seq with
    cued := some (onA n)
    a := { c.seq.a with state := .cueing, roll := some r, endF := some 1150, loaded := some (onA n),
                        flight := some { tag := 9, req := .cue 507 0 100 1050, sent := 990, age := 10, probe := false } } } }

theorem none_all {α : Type} {o : Option α} {P : α → Prop} (h : o = none) : ∀ a, o = some a → P a := by
  intro a ha; rw [h] at ha; cases ha

theorem some_all {α : Type} {o : Option α} {b : α} {P : α → Prop} (h : o = some b) (hp : P b) : ∀ a, o = some a → P a := by
  intro a ha; rw [h] at ha; cases ha; exact hp

/-! ## States and operands that meet the statements' hypotheses -/

theorem hyp_StepRunsTheFrontCommand :
    { ready with pending := [.powerOn, .resetPin] }.pending = .powerOn :: [.resetPin] ∧ ready.pending = [] := by decide

theorem hyp_UnpoweredCommandsHaveNoEffect : { ready with powered := false }.powered = false ∧ Instr.resetPin ≠ .powerOn := by decide

theorem hyp_PowerOnAndResetPinResetThePart :
    ready.powered = true ∧ State.reset.flash = .blank ∧ State.reset.save = none ∧ State.reset.sent = [] ∧ State.reset.draws = 0 ∧
    State.reset.pending = [] := by decide

theorem hyp_ResetPartKeepsTheLinks :
    Turn .loc (hd 0) .resetPart ready ∧ Turn .loc (hd 255) .resetPart { State.reset with ports := Vector.replicate 4 (PortState.reset true) } := by
  and_intros <;> decide

/-- The part writing its configuration. -/
def writing : State :=
  { ready with save := some { tag := 9, copy := { params := ready.params, flows := ready.flows, table := [(6, .notify)] } } }

theorem hyp_WritesBeginEndAndAreAbandoned :
    ready.powered = true ∧ ready.save = none ∧ writing.powered = true ∧ writing.save.isSome = true ∧
    Turn .loc (hd 0) .saveConfig ready ∧ Turn .loc (hd 0) .saveConfig writing ∧ writing.save ≠ none := by
  and_intros <;> decide

theorem hyp_SavedConfigurationReturnsAtReset :
    writing.powered = true ∧ ready.params.inRange = true ∧ FlowTableOk ready.flows ∧ TableOk [(6, .notify)] := by
  unfold FlowTableOk TableOk; decide

theorem hyp_TheFirstPeriodStarts :
    State.reset.powered = true ∧ State.reset.time.waiting = true ∧ 1499999 < 1500000 ∧
    UsableLabel .f25 (some (lb 0x23 0x59 0x59 0x24)) (lb 0x23 0x59 0x59 0x24) ∧ (∀ x, ¬ UsableLabel .f25 none x) ∧
    (∀ x, ¬ UsableLabel .f25 (some (lb 0x24 0 0 0)) x) := by
  refine ⟨by decide, by decide, by decide, by unfold UsableLabel; decide, fun x h => by simpa using h.1, fun x h => ?_⟩
  have : x = lb 0x24 0 0 0 := by simpa using h.1.symm
  subst this
  exact absurd h.2.1 (by decide)

theorem hyp_LockedPulsesStartPeriods :
    ready.powered = true ∧ ready.time.waiting = false ∧ ready.time.refState = .locked ∧
    ready.time.lastBoundary + 500000 ≤ 1500000 ∧ 2499999 < ready.time.lastBoundary + 1500000 ∧
    1499999 < ready.time.lastBoundary + 500000 ∧ ready.time.hfn + 1 < two48 ∧
    UsableLabel .f25 (some (lb 0 0 0x40 0x01)) (lb 0 0 0x40 0x01) ∧
    frameOfDay .f25 (lb 0 0 0x40 0x01) = 1001 % RateCode.perDay .f25 ∧ (∀ x, ¬ UsableLabel .f25 none x) := by
  refine ⟨by decide, by decide, by decide, by decide, by decide, by decide, by decide, by unfold UsableLabel; decide, by decide,
    fun x h => by simpa using h.1⟩

/-- `ready` in FREE_RUN with a relock count and a last pulse. -/
def free (n : Nat) (p : Option Nat) : State := { ready with time := { ready.time with refState := .freeRun, relock := n, lastPulse := p } }

theorem hyp_TheReferenceIsLostAndFoundAgain :
    (free 7 none).powered = true ∧ (free 7 none).time.waiting = false ∧ (free 7 none).time.refState = .freeRun ∧
    (free 7 none).time.relock < 8 ∧ (free 7 none).time.lastBoundary + 1000000 ≤ 2000000 ∧ (free 8 none).time.relock = 8 ∧
    (free 8 none).time.lastBoundary + 1500000 ≤ 2500000 ∧ (free 8 none).time.lastBoundary + 500000 ≤ 1500000 ∧
    2499999 < (free 8 none).time.lastBoundary + 1500000 ∧ ready.time.refState = .locked ∧
    (free 7 (some 1000000)).time.lastPulse = some 1000000 ∧ 1000000 + 750000 ≤ 1750000 ∧ 2250000 ≤ 1000000 + 1250000 ∧
    1749999 < 1000000 + 750000 ∧ 1499999 < (free 8 none).time.lastBoundary + 500000 ∧ 1000000 + 1250000 < 2250001 := by decide

theorem hyp_LabelsAndFramesAgree :
    (RateCode.f5994, 60, 4, 5178816) ∈ [(RateCode.f25, 25, 0, 2160000), (.f2997, 30, 2, 2589408), (.f50, 50, 0, 4320000),
      (.f5994, 60, 4, 5178816)] ∧
    labelValid .f5994 (lb 0x23 0x59 0x59 0x59) = true ∧ labelExists .f5994 (lb 0x23 0x59 0x59 0x59) = true ∧
    5178815 < RateCode.perDay .f5994 ∧ 65535 < 65536 ∧ labelValid .f5994 (lb 0 0x01 0 0) = true := by decide

theorem hyp_LinksComeAndGo :
    State.reset.powered = true ∧ State.reset.ports[(0 : Port)].up = false ∧ ready.powered = true ∧ ready.ports[(2 : Port)].up = true ∧
    (∃ e ∈ ready.flows, e.port = 2 ∧ e.channel = some 0 ∧ roleSource e.role = some .main) ∧
    (¬ ∃ e ∈ ready.flows, e.port = 2 ∧ e.channel = some 1 ∧ roleSource e.role = some .main) ∧
    ready.resetNotices = true ∧ ready.mainUp = true ∧ ready.nextMain < two16 ∧ ready.defaultedNotice = true ∧ ready.localUp = true ∧
    ready.source = .defaulted .blank ∧ State.reset.mainUp = false ∧ State.reset.localUp = false := by decide

theorem hyp_DroppedFramesAreCounted :
    (Instr.cued (frm3 4) replying).arrival = some ((frm3 4).carrying replying) ∧ State.reset.ports[(3 : Port)].up = false ∧
    ready.ports[(3 : Port)].up = true ∧ { (frm3 4).carrying replying with fcsOk := false }.fcsOk = false ∧ 9216 < { (frm3 4).carrying replying with length := 9217 }.length ∧
    ((frm3 4).carrying replying).length ≤ 9216 ∧ { (frm3 4).carrying replying with etherType := 0x9A21 }.etherType ≠ ready.params.part.etherType ∧
    ((frm3 4).carrying replying).etherType = ready.params.part.etherType ∧ entryByTag ready.flows 99 = none ∧
    entryByTag ready.flows 6 = some ⟨6, 3, .output, some 0⟩ ∧ routed .output .reply = false := by decide

/-- The bytes of a frame header with a packet count. -/
def headerBytes (n : Byte) : List Byte := [0, n] ++ List.replicate 22 0

theorem hyp_FrameHeadersOpenAssemblies :
    Feeds ready (frm2 0) 0 0 .main ∧ (readFrameHeader (headerBytes 1)).map (·.count) = some 1 ∧
    (readFrameHeader (headerBytes 0)).map (·.count) = some 0 :=
  ⟨⟨⟨3, 2, .mainReturn, some 0⟩, by unfold Routed; decide⟩, by decide, by decide⟩

/-- Channel 0's main return with an open assembly of `n` units, unit 0 received, and `k` frames waiting. -/
def assembling (n k : Nat) : State := ready.modSource 0 .main fun x => { x with
  asm := some { hdr := ⟨n, zeroLabel, 0, none, none⟩, units := [0], picture := [], audio := [], sums := Sums.zero }
  fifo := List.replicate k ⟨⟨1, zeroLabel, 0, none, none⟩, [], [], Sums.zero⟩ }

theorem hyp_UnitsCompleteFramesOrAreStray :
    Feeds (assembling 3 4) (frm2 1) 1 0 .main ∧ ((assembling 3 4).chans[(0 : Ch)].intake.source .main).asm.map (·.hdr.count) = some 3 ∧
    (readVideo [0, 2, 0, 0, 0, 0, 0, 1, 0, 5]).map (·.index) = some 2 ∧ (readAudio [0, 1, 0, 1, 0, 0, 5]).map (·.index) = some 1 ∧
    2 ∉ [0] ∧ 1 + 1 ≠ 3 ∧ Feeds (assembling 2 3) (frm2 2) 2 0 .main ∧ 1 + 1 = 2 ∧
    (readVideo [0, 0, 0, 0, 0, 0, 0, 0]).map (·.index) = some 0 ∧ 0 ∈ [0] ∧ Feeds ready (frm2 1) 1 0 .main ∧
    (ready.chans[(0 : Ch)].intake.source .main).asm = none :=
  ⟨⟨⟨3, 2, .mainReturn, some 0⟩, by unfold Routed; decide⟩, by decide, by decide, by decide, by decide, by decide,
   ⟨⟨3, 2, .mainReturn, some 0⟩, by unfold Routed; decide⟩, by decide, by decide, by decide,
   ⟨⟨3, 2, .mainReturn, some 0⟩, by unfold Routed; decide⟩, by decide⟩

/-- The samples 5, 6 and 7 from a position of a line: two land at the end of the last line, none below it. -/
theorem hyp_SamplesLand :
    Sums.zero.signature < 4294967296 ∧ Picture.wf [(3, 940#10)] = true ∧
    (([5#10, 6, 7].zipIdx 3838).filter fun x => decide (1079 < 1080 ∧ x.2 < 3840)) = [(5#10, 3838), (6#10, 3839)] ∧
    (([(5#10, 3838), (6#10, 3839)] : List (BitVec 10 × Nat)).filter fun x => decide (x.2 % 2 = 1)) = [(6#10, 3839)] ∧
    (([5#10, 6, 7].zipIdx 3838).filter fun x => decide (1080 < 1080 ∧ x.2 < 3840)) = [] ∧
    [5#10, 6, 7][1]? = some 6#10 ∧ 3838 + 1 < 3840 ∧ ¬ 3838 + 2 < 3840 := by decide

theorem hyp_PicturesReadBackWhatIsWritten :
    Picture.wf [(3, 940#10)] = true ∧ Picture.wf (Picture.write [(3, 940#10)] 3 64#10) = true ∧
    Picture.write [(3, 940#10)] 3 64#10 = [] := by decide

theorem hyp_RequestPacketsQueue :
    Routed ready (({ frm 2 with port := 1 } : Eth).carrying (asking 1)) ⟨2, 1, .mainCtl, none⟩ .request ∧
    Routed ready ((frm 1).carrying (asking 26)) FlowEntry.bootstrap .request ∧
    ((frm 1).carrying (asking 26)).head.length = 11 ∧ reqCode .logFlush = headField 4 1 ((frm 1).carrying (asking 26)) ∧
    reqCode .logFlush ≠ headField 4 1 ((frm 1).carrying (asking 25)) ∧ (requestHead ((frm 1).carrying (asking 26)) 0).tag = 1 ∧ ready.inMain.length < 8 ∧
    { ready with inLocal := List.replicate 7 ⟨hd 0, .logFlush⟩ }.inLocal.length < 8 ∧
    8 ≤ { ready with inLocal := List.replicate 8 ⟨hd 0, .logFlush⟩ }.inLocal.length := by unfold Routed; decide

/-- A reply of player A of channel 0 finds its request in flight. -/
theorem in_flight {s : State} {f : Flight} (h : Routed s ((frm3 4).carrying replying) ⟨4, 3, .playerA, some 0⟩ .reply)
    (hf : (s.chans[(0 : Ch)].seq.player .a).flight = some f) (ht : f.tag = 9) : InFlight s ((frm3 4).carrying replying) 0 .a f :=
  ⟨⟨4, 3, .playerA, some 0⟩, h, rfl, rfl, hf, ht⟩

/-- Player A with a STOP for frame `x` in flight. -/
def stopping (st : PState) (x : Frame) : State := withA fun p => { p with
  state := st, stopF := some x, flight := some { tag := 9, req := .stop x, sent := 990, age := 0, probe := false } }

theorem hyp_CuedAndStoppedRepliesMoveThePlayer :
    InFlight (cueing 1001 1) ((frm3 4).carrying replying) 0 .a ⟨9, .cue 507 0 100 1050, 990, 10, false, true⟩ ∧
    ((cueing 1001 1).chans[(0 : Ch)].seq.player .a).state = .cueing ∧ ((cueing 1001 1).chans[(0 : Ch)].seq.player .a).roll = some 1001 ∧
    ((cueing 1001 1).time.hfn : Frame) < 1001 ∧ ((cueing 1001 1).chans[(0 : Ch)].seq.player .a).queue = [] ∧
    InFlight (cueing 1000 1) ((frm3 4).carrying replying) 0 .a ⟨9, .cue 507 0 100 1050, 990, 10, false, true⟩ ∧ (1000 : Frame) ≤ (cueing 1000 1).time.hfn ∧
    InFlight (stopping .stopping 1000) ((frm3 4).carrying replying) 0 .a ⟨9, .stop 1000, 990, 0, false, true⟩ ∧
    InFlight (stopping .playing 1001) ((frm3 4).carrying replying) 0 .a ⟨9, .stop 1001, 990, 0, false, true⟩ ∧
    ((stopping .playing 1001).chans[(0 : Ch)].seq.player .a).stopF = some 1001 ∧ ((stopping .playing 1001).time.hfn : Frame) < 1001 :=
  ⟨in_flight (by unfold Routed; decide) (by decide) rfl, by decide, by decide, by decide, by decide,
   in_flight (by unfold Routed; decide) (by decide) rfl, by decide, in_flight (by unfold Routed; decide) (by decide) rfl,
   in_flight (by unfold Routed; decide) (by decide) rfl, by decide, by decide⟩

/-- `cueing` with the CUE of another item queued behind the one in flight, which was cancelled. -/
def recued : State := (cueing 1001 1).setCh 0 { (cueing 1001 1).chans[(0 : Ch)] with
  seq := { (cueing 1001 1).chans[(0 : Ch)].seq with
    a := { (cueing 1001 1).chans[(0 : Ch)].seq.a with queue := [(10, .stop 1000), (11, .cue 9 0 100 1001)] } } }

theorem hyp_RepliesToCancelledCues :
    InFlight recued ((frm3 4).carrying replying) 0 .a ⟨9, .cue 507 0 100 1050, 990, 10, false, true⟩ ∧
    CueCancelled (recued.chans[(0 : Ch)].seq.player .a) ∧
    CueCancelled { (recued.chans[(0 : Ch)].seq.player .a) with queue := [], state := .stopping } ∧
    CueCancelled { (recued.chans[(0 : Ch)].seq.player .a) with queue := [], loaded := none } :=
  ⟨in_flight (by unfold Routed; exact ⟨rfl, rfl, rfl, by decide, rfl, rfl, rfl, rfl, rfl⟩) rfl rfl,
   .inr (.inr ⟨_, .tail _ (.head _), rfl⟩), .inl (by decide), .inr (.inl rfl)⟩

theorem hyp_FailedCuesReturnTheItem (n : Nat) :
    InFlight (cueing 1050 n) ((frm3 4).carrying replying) 0 .a ⟨9, .cue 507 0 100 1050, 990, 10, false, true⟩ ∧
    ((cueing 1050 n).chans[(0 : Ch)].seq.player .a).state = .cueing ∧
    ((cueing 1050 n).chans[(0 : Ch)].seq.player .a).loaded = some (onA n) ∧ (onA n).kind = .pass ∧
    ((cueing 1050 n).chans[(0 : Ch)].seq.player .a).queue = [] ∧
    (cueing 1050 n).chans[(0 : Ch)].store.event 7 = some (event 7 10 1050) ∧ (onA n).handle = some (event 7 10 1050).sweepHandle ∧
    (cueing 1050 n).chans[(0 : Ch)].seq.landing = none ∧ (cueing 1050 n).chans[(0 : Ch)].seq.cued = some (onA n) ∧
    (onA n).player = some .a ∧ (onA n).attempts = n ∧ reasonReadiness .notFound = some .absent :=
  ⟨in_flight (by unfold Routed; exact ⟨rfl, rfl, rfl, by decide, rfl, rfl, rfl, rfl, rfl⟩) rfl rfl, rfl, rfl, rfl, rfl, rfl, rfl, rfl, rfl, rfl, rfl, rfl⟩

/-- `cueing` with a substitute for event 7. -/
def replaceable (n : Nat) : State := (cueing 1050 n).setCh 0 { (cueing 1050 n).chans[(0 : Ch)] with
  store := { (cueing 1050 n).chans[(0 : Ch)].store with current := [{ event 7 10 1050 with subst := some 600 }] } }

theorem hyp_FailedCuesTryTheSubstitute (n : Nat) :
    InFlight (replaceable n) ((frm3 4).carrying replying) 0 .a ⟨9, .cue 507 0 100 1050, 990, 10, false, true⟩ ∧
    ((replaceable n).chans[(0 : Ch)].seq.player .a).state = .cueing ∧
    ((replaceable n).chans[(0 : Ch)].seq.player .a).loaded = some (onA n) ∧ (replaceable n).chans[(0 : Ch)].seq.landing = none ∧
    (replaceable n).chans[(0 : Ch)].seq.cued = some (onA n) ∧ (onA n).player = some .a ∧ (onA n).attempts = n ∧ (onA n).subTried = false ∧
    (replaceable n).chans[(0 : Ch)].store.event 7 = some { event 7 10 1050 with subst := some 600 } ∧
    ({ event 7 10 1050 with subst := some 600 }.fieldsFor 0 false).2.2 = (some 600, .play) ∧
    ((event 7 10 1050).fieldsFor 0 false).2.2.1 = none ∧ (cueing 1050 n).chans[(0 : Ch)].store.event 7 = some (event 7 10 1050) :=
  ⟨in_flight (by unfold Routed; exact ⟨rfl, rfl, rfl, by decide, rfl, rfl, rfl, rfl, rfl⟩) rfl rfl, rfl, rfl, rfl, rfl, rfl, rfl, rfl, rfl, rfl, rfl,
   rfl⟩

/-- Player A with a QUERY in flight. -/
def asked (pr : Bool) : State := onCh fun c => { c with
  store := { c.store with current := [event 7 10 1050] }
  seq := { c.seq with sweep := if pr then none else some ⟨.a, 9, 7⟩
                      a := { c.seq.a with state := if pr then .fault else .idle
                                          flight := some ⟨9, .query (if pr then 0 else 507), 990, 0, pr, true⟩ } } }

theorem hyp_AnswersEndProbesAndQueries :
    InFlight (asked true) ((frm3 4).carrying replying) 0 .a ⟨9, .query 0, 990, 0, true, true⟩ ∧ InFlight (asked false) ((frm3 4).carrying replying) 0 .a ⟨9, .query 507, 990, 0, false, true⟩ ∧
    (asked false).chans[(0 : Ch)].seq.sweep = some ⟨.a, 9, 7⟩ ∧
    lookupId 7 (asked false).chans[(0 : Ch)].store.current = some (event 7 10 1050) :=
  ⟨in_flight (by unfold Routed; decide) (by decide) rfl, in_flight (by unfold Routed; decide) (by decide) rfl, by decide, by decide⟩

theorem hyp_RepliesWithAnotherTagAreIgnored :
    Routed (asked false) ((frm3 4).carrying (ctl 1 0 10 0 0)) ⟨4, 3, .playerA, some 0⟩ .reply ∧ rolePlayer .playerA = some .a ∧
    (∀ f, ((asked false).chans[(0 : Ch)].seq.player .a).flight = some f → f.tag ≠ requestTag ((frm3 4).carrying (ctl 1 0 10 0 0))) ∧
    (∀ f, (ready.chans[(0 : Ch)].seq.player .a).flight = some f → f.tag ≠ 9) :=
  ⟨by unfold Routed; decide, by decide, some_all (b := ⟨9, .query 507, 990, 0, false, true⟩) (by decide) (by decide), none_all (by decide)⟩

/-- A frame that has been taken. -/
def taken : EssFrame := ⟨⟨1, zeroLabel, 0, none, none⟩, [], [1], Sums.zero⟩

/-- `ready` with attribute 2 of channel 0 at its threshold, its flag clear, the period held or not. -/
def blacked (held : Bool) : State := onCh fun c => { c with
  mon := { c.mon with attrs := c.mon.attrs.set 2 ⟨500, 500, 500, false⟩ }
  intake := { c.intake with takeMain := if held then none else some taken } }

theorem hyp_TheMonitorRaisesAdvisoriesAndChangesState :
    (ready.params.chans[(0 : Ch)].attrs[(2 : Fin 8)]).cls = .advisory ∧
    (ready.params.chans[(0 : Ch)].attrs[(2 : Fin 8)]).threshold ≤ 500 ∧
    (blacked false).chans[(0 : Ch)].mon.attrs[(2 : Fin 8)] = ⟨500, 500, 500, false⟩ ∧
    (blacked false).chans[(0 : Ch)].intake.takeMain ≠ none ∧ (2 : Fin 8) ≠ 5 ∧ HeldNow (blacked true) 0 2 ∧
    (ready.params.chans[(0 : Ch)].attrs[(0 : Fin 8)]).cls ≠ .advisory ∧
    DecisiveReached (withMon (decisive .healthy)) 0 ∧ DecisiveReached (withMon (decisive .recovering)) 0 ∧
    DecisiveReached (withMon fun m => { decisive .suspect m with holdoff := 25 }) 0 ∧ ready.params.chans[(0 : Ch)].holdoff ≤ 25 ∧
    ¬ DecisiveReached (withMon fun m => { m with state := .recovering, healthy := 1500 }) 0 ∧
    ¬ DecisiveShows (withMon fun m => { m with state := .recovering, healthy := 1500 }) 0 ∧
    ready.params.chans[(0 : Ch)].healthyRun ≤ 1500 := by
  refine ⟨by decide, by decide, by decide, by decide, by decide, Or.inl ⟨rfl, by decide⟩, ?_⟩
  unfold DecisiveReached DecisiveShows; decide

/-- A MAIN frame of event 7 that shows no condition. -/
def lit : EssFrame := ⟨⟨1, zeroLabel, 0, some ⟨7, 0, 0⟩, none⟩, [], [1], ⟨1000, 10, 5, 1000⟩⟩

/-- Channel 0's monitor in a state, its first attribute's run at `n`, with a MAIN frame taken or none. -/
def watched (st : MonState) (n : Nat) (main : Bool) : W := begun (onCh fun c => { c with
  mon := { c.mon with state := st, attrs := c.mon.attrs.set 0 ⟨n, n, n, false⟩ }
  store := { c.store with current := [event 7 10 1000] }
  intake := { c.intake with takeMain := if main then some lit else none } }) 0

theorem hyp_TheMonitorEvaluates :
    (∀ st ∈ [MonState.starting, .healthy, .suspect, .failed, .recovering],
      (countPeriod (envOf ready 0) false (watched st 24 false)).reached (envOf ready 0) = true ∧
      (countPeriod (envOf ready 0) false (watched st 23 false)).reached (envOf ready 0) = false ∧
      (countPeriod (envOf ready 0) false (watched st 23 false)).shows (envOf ready 0) = true ∧
      (countPeriod (envOf ready 0) false (watched st 25 true)).shows (envOf ready 0) = false ∧
      (countPeriod (envOf ready 0) false (watched st 25 true)).reached (envOf ready 0) = false) ∧
    (watched .starting 0 true).ch.intake.takeMain.isSome = true ∧ (watched .starting 0 false).ch.intake.takeMain = none ∧
    condition (envOf ready 0) (watched .healthy 0 false).ch false 0 = .holds ∧
    condition (envOf ready 0) (watched .healthy 0 true).ch false 0 = .lacks ∧
    condition (envOf ready 0) (watched .healthy 0 false).ch false 1 = .held ∧
    (watched .healthy 0 true).ch.intake.takeMain = some lit ∧ lit.hdr.stamp = some ⟨7, 0, 0⟩ ∧ taken.hdr.stamp = none ∧
    ((envOf ready 0).cp.attrs[(2 : Fin 8)]).cls = .advisory ∧ 1 ≤ ((envOf ready 0).cp.attrs[(2 : Fin 8)]).threshold ∧
    ((envOf ready 0).cp.attrs[(0 : Fin 8)]).cls ≠ .advisory ∧
    (watched .suspect 0 true).ch.ctl.monitor = .starting ∧ (watched .starting 0 true).ch.mon.state = .starting := by decide

/-- A pending switch for frame `t`. -/
def switch (k : SwitchKind) (t : Frame) (force : Bool) : Switch := { kind := k, cause := .manual, target := t, force := force }

/-- The monitor of channel 0 with a DECISIVE run at its threshold, the channel in a mode. -/
def failing (st : MonState) (m : Mode) (x : Option Switch) : State :=
  onCh fun c => { c with mon := decisive st c.mon, ctl := { c.ctl with mode := m, switch := x } }

/-- A state whose channel 0 fails at once when it leaves HEALTHY. -/
def hasty (s : State) : State :=
  { s with params := { s.params with chans := s.params.chans.set 0 { s.params.chans[(0 : Ch)] with holdoff := 0 } } }

theorem hyp_MonitorChangesMoveTheChannel :
    DecisiveReached (failing .recovering .mirror none) 0 ∧ (failing .recovering .mirror none).chans[(0 : Ch)].mon.state = .recovering ∧
    (failing .recovering .mirror none).chans[(0 : Ch)].ctl.mode = .mirror ∧ ready.params.chans[(0 : Ch)].policy = .auto ∧
    DecisiveReached (failing .recovering .joining (some (switch .takeover 1075 false))) 0 ∧
    DecisiveReached (withMon fun m => { decisive .suspect m with holdoff := 25 }) 0 ∧
    (withMon fun m => { decisive .suspect m with holdoff := 25 }).chans[(0 : Ch)].mon.state = .suspect ∧
    ready.params.chans[(0 : Ch)].holdoff ≤ 25 ∧ DecisiveReached (hasty (failing .healthy .mirror none)) 0 ∧
    (hasty (failing .healthy .mirror none)).params.chans[(0 : Ch)].holdoff = 0 ∧
    DecisiveReached (failing .healthy .returning (some (switch .handback 1002 false))) 0 ∧
    (failing .healthy .returning (some (switch .handback 1002 true))).chans[(0 : Ch)].mon.state = .healthy ∧
    (failing .healthy .returning (some (switch .handback 1002 true))).chans[(0 : Ch)].ctl.switch = some (switch .handback 1002 true) := by
  unfold DecisiveReached; decide

theorem hyp_SiteSilenceMakesMirrorsStale :
    ready.powered = true ∧ ready.expired = false ∧ ready.params.part.siteBeatTimeout ≤ { ready with beat := 125 }.beat ∧
    { ready with beat := 124 }.beat < ready.params.part.siteBeatTimeout := by decide

/-- Channel 0 with a mirror state, last number 7 and a refresh open or not. -/
def mirrored (st : MirrorState) (timer : Nat) (r : Bool) : State := onCh fun c => { c with
  mirror := { state := st, lastSeq := 7, timer := timer }
  store := { c.store with refresh := if r then some ⟨5, [], 0, 0⟩ else none } }

/-- What a boundary counts: an open refresh's timer short of its timeout and at it, a FAULT player's probe timer, and a request in
flight, a STOP of it before and at its frame. -/
theorem hyp_PeriodsAdvanceTheCounts :
    (begun (mirrored .syncing 248 true) 0).ch.store.refresh.isSome = true ∧
    min 65535 ((begun (mirrored .syncing 248 true) 0).ch.mirror.timer + 1) < ready.params.part.mirrorTimeout ∧
    ready.params.part.mirrorTimeout ≤ min 65535 ((begun (mirrored .syncing 249 true) 0).ch.mirror.timer + 1) ∧
    (begun ready 0).ch.store.refresh = none ∧ ((begun (withA fun p => { p with state := .fault }) 0).player .a).state = .fault ∧
    ((begun (stopping .playing 1000) 0).player .a).flight.map (·.req) = some (.stop 1000) ∧ (1000 : Frame) ≤ (envOf ready 0).now ∧
    ¬ (1001 : Frame) ≤ (envOf ready 0).now ∧ (999 : Frame) < (envOf ready 0).now ∧ (PReq.query 5).isStop = false ∧
    ((begun ready 0).player .a).flight = none := by decide

/-- Channel 0 with a scan that asks for count 1 and has counted `n`. -/
def scanning (n next : Nat) : State := onCh fun c => { c with
  store := { c.store with current := [event 7 10 1050], scan := some ⟨3, 0, some (1, 2), 0, 1, 0, next, n, 0, 0⟩ } }

theorem hyp_RefreshesTimeOutAndScansEnd :
    (mirrored .syncing 250 true).chans[(0 : Ch)].store.refresh = some ⟨5, [], 0, 0⟩ ∧
    ready.params.part.mirrorTimeout ≤ (mirrored .syncing 250 true).chans[(0 : Ch)].mirror.timer ∧
    (mirrored .syncing 249 true).chans[(0 : Ch)].mirror.timer < ready.params.part.mirrorTimeout ∧
    (scanning 1 11).chans[(0 : Ch)].store.scan.isSome = true ∧
    (∀ e ∈ (scanning 1 11).chans[(0 : Ch)].store.current, e.key < 11) ∧ (true = true ↔ 1 = 1 ∧ 0 = 0) ∧ (false = true ↔ 1 = 2 ∧ 0 = 0) ∧
    (∃ e ∈ (scanning 0 10).chans[(0 : Ch)].store.current, 10 ≤ e.key) := by decide

theorem hyp_SwitchesReachTheirTargets :
    (inMode .mirror (some (switch .takeover 1075 false))).chans[(0 : Ch)].ctl.mode = .mirror ∧
    (1075 : Frame) - (ready.params.chans[(0 : Ch)].lead + ready.params.chans[(0 : Ch)].margin) ≤ ready.time.hfn ∧
    (ready.time.hfn : Frame) < 1076 - (ready.params.chans[(0 : Ch)].lead + ready.params.chans[(0 : Ch)].margin) ∧
    (inMode .joining (some (switch .takeover 1000 false))).chans[(0 : Ch)].ctl.switch = some (switch .takeover 1000 false) ∧
    (1000 : Frame) ≤ ready.time.hfn ∧ (ready.time.hfn : Frame) < 1001 ∧
    (inMode .returning (some (switch .handback 1000 false))).chans[(0 : Ch)].ctl.mode = .returning := by decide

/-- A pending break-in for frame `b`. -/
def pendingBreak (b : Frame) : PendingBreak := { handle := 9, inPoint := 0, duration := some 100, mode := .onTime, b := b, player := .a }

/-- Channel 0 in BREAK_IN with an expiry and a resume. -/
def broken (e : Option Frame) (r : Option Resume) : State := onCh fun c => { c with ctl := { c.ctl with
  mode := .breakIn, ctx := some ⟨7, 0, 0, 990, .onTime⟩, expiry := e, resume := r } }

theorem hyp_BreakInsStartExpireAndEnd :
    (onCh fun c => { c with ctl := { c.ctl with mode := .takeover, pendingBreak := some (pendingBreak 1000) } }).chans[(0 : Ch)].ctl.pendingBreak
      = some (pendingBreak 1000) ∧
    (pendingBreak 1000).b ≤ ready.time.hfn ∧ (broken (some 1075) none).chans[(0 : Ch)].ctl.expiry = some 1075 ∧
    (broken (some 1075) none).chans[(0 : Ch)].ctl.ctx = some ⟨7, 0, 0, 990, .onTime⟩ ∧
    (broken (some 1075) none).chans[(0 : Ch)].ctl.resume = none ∧
    (1075 : Frame) - (ready.params.chans[(0 : Ch)].lead + ready.params.chans[(0 : Ch)].margin) ≤ ready.time.hfn ∧
    (broken none (some ⟨.resume, .onTime, 1000⟩)).chans[(0 : Ch)].ctl.resume = some ⟨.resume, .onTime, 1000⟩ := by decide

/-- Channel 0 in TAKEOVER with a break-in pending for frame 1000, its clip CUED on player A. -/
def breaking : State := onCh fun c => { c with
  ctl := { c.ctl with mode := .takeover, pendingBreak := some (pendingBreak 1000) }
  seq := { c.seq with breakClip := some (Item.fresh .brk 0 0 1000 none 0)
                      a := { c.seq.a with state := .cued, roll := some 1000, loaded := some (Item.fresh .brk 0 0 1000 none 0) } } }

theorem hyp_BreakInsHoldTheTriggers :
    breaking.chans[(0 : Ch)].ctl.mode = .takeover ∧ breaking.chans[(0 : Ch)].ctl.pendingBreak = some (pendingBreak 1000) ∧
    (pendingBreak 1000).b ≤ breaking.time.hfn ∧ breaking.chans[(0 : Ch)].seq.cued = none ∧
    breaking.chans[(0 : Ch)].store.event 0 = none ∧
    (breaking.chans[(0 : Ch)].seq.player (pendingBreak 1000).player).loaded = some (Item.fresh .brk 0 0 1000 none 0) ∧
    breaking.chans[(0 : Ch)].seq.breakClip = some (Item.fresh .brk 0 0 1000 none 0) := by decide

/-- Channel 0 in TAKEOVER with event 7 from frame `o`, and its Sequencer changed. -/
def airing (o : Frame) (f : Seq → Seq) : State := onCh fun c => { c with
  store := { c.store with current := [event 7 10 o] }, ctl := { c.ctl with mode := .takeover }, seq := f c.seq }

theorem hyp_JoinsLandInTheTimeline :
    (heldAt (airing 1000 id).chans[(0 : Ch)].timeline 1050).kind = .pass ∧ (heldAt (airing 1000 id).chans[(0 : Ch)].timeline 1050).start ≤ 1050 ∧
    (airing 1000 id).chans[(0 : Ch)].store.event 7 = some (event 7 10 1000) ∧ (airing 1000 id).chans[(0 : Ch)].origin 7 = some 1000 ∧
    (heldAt (airing 1000 id).chans[(0 : Ch)].timeline 1200).kind = .fill .scheduleEnd ∧
    (heldAt (airing 1000 id).chans[(0 : Ch)].timeline 1200).start ≤ 1200 ∧ 0 < (event 7 10 1000).duration ∧
    passItem (event 7 10 1000) { origin := 1000, start := 1000, stop := 1100 } 0 = some (item 7 1000) ∧ (item 7 1000).start ≤ 1099 ∧
    (item 7 1000).endsAfter 1099 = true ∧ (item 7 1000).endsAfter 1100 = false := by decide

/-- The channel with an item on air, its event from frame 950, and its anchor. -/
def saving (k : ItemKind) (a : Option Anchor) : Chan := (airing 950 fun q => { q with
  onAir := some ⟨{ item 7 950 with kind := k, forEvent := 7 }, 50, 0, 0, none, none, false⟩ }).chans[(0 : Ch)] |> fun c =>
  { c with store := { c.store with anchor := a } }

theorem hyp_ContextsAreSaved :
    (∀ k ∈ [ItemKind.pass, .fill .blank, .fill .absent, .fill .wait], (saving k none).seq.onAir.map (·.item.kind) = some k ∧
      (saving k none).origin 7 = some 950 ∧ (savedContext (envOf ready 0) .onTime (saving k none)).event = 7 ∧
      (saving k none).store.event 7 = some (event 7 10 950)) ∧
    (saving (.fill .gap) (some ⟨7, 5, 955⟩)).store.anchor = some ⟨7, 5, 955⟩ ∧
    ((saving (.fill .gap) (some ⟨7, 5, 955⟩)).store.event 7).isSome = true ∧
    (saving (.fill .scheduleEnd) none).store.anchor = none ∧
    (saving (.fill .gap) (some ⟨8, 5, 955⟩)).store.event 8 = none ∧
    (saving (.fill .gap) none).store.event (savedContext (envOf ready 0) .onTime (saving (.fill .gap) none)).event = none := by decide

/-- A trigger of event 7 at offset 60, held, with the event from frame `o`. -/
def heldAtResume (o : Frame) : W := begun (onCh fun c => { c with
  store := { c.store with current := [event 7 10 o] }
  trig := { pending := [], held := [⟨6, .mark, 7, 0, 950, .a, 7, 0, 60, 0, 1010, 1010, false⟩] } }) 0

theorem hyp_HeldTriggersAreJudged :
    (heldAtResume 950).ch.trig.held = [⟨6, .mark, 7, 0, 950, .a, 7, 0, 60, 0, 1010, 1010, false⟩] ∧
    (heldAtResume 950).ch.origin 7 = some 950 ∧ (heldAtResume 950).ch.store.event 7 = some (event 7 10 950) ∧
    (950 + 60 : Frame) < 1011 ∧ (1010 : Frame) ≤ 950 + 60 ∧ (begun ready 0).ch.trig.held = [] := by decide

theorem hyp_ResumesBegin :
    Turn .loc (hd 0) (.resume (some .preset)) (broken none none) ∧ Names (hd 0) 0 ∧
    (broken none none).chans[(0 : Ch)].ctl.mode = .breakIn ∧
    (broken none none).chans[(0 : Ch)].ctl.ctx = some ⟨7, 0, 0, 990, .onTime⟩ ∧
    (broken none none).chans[(0 : Ch)].ctl.resume = none := by unfold Turn Names; decide

/-- The item of event 7 at the pointer. -/
def pointing (o : Frame) : State := airing o fun q => { q with preroll := some (item 7 o) }

/-- The item of event 7 as a landing for frame 1050. -/
def landing (o : Frame) : State := airing o fun q => { q with landing := some { item := item 7 o, target := 1050 } }

/-- A break-in clip that waits for a player. -/
def clip : Item := { Item.fresh .brk 0 0 1000 none 0 with handle := some 9 }

theorem hyp_ItemsAreCuedOnTimeOrAtOnce :
    (∀ o ∈ [(1050 : Frame), 1075],
      (pointing o).chans[(0 : Ch)].seq.cued = none ∧ (pointing o).chans[(0 : Ch)].seq.preroll = some (item 7 o) ∧
      (pointing o).time.hfn + ready.params.chans[(0 : Ch)].lead ≤ o ∧
      o - (ready.params.chans[(0 : Ch)].lead + ready.params.chans[(0 : Ch)].margin) ≤ (pointing o).time.hfn ∧
      (pointing o).chans[(0 : Ch)].cuesAllowed o = true ∧ (pointing o).chans[(0 : Ch)].freePlayer none = some .a ∧
      (pointing o).chans[(0 : Ch)].store.event 7 = some (event 7 10 o) ∧ cueHandle (event 7 10 o) (item 7 o) = some (507, false) ∧
      (item 7 o).endsAfter o = true) ∧
    ((pointing 1049).chans[(0 : Ch)].seq.landing = none ∧ (pointing 1049).chans[(0 : Ch)].seq.breakClip = none ∧
      (1049 : Frame) < (pointing 1049).time.hfn + ready.params.chans[(0 : Ch)].lead ∧
      (1050 : Frame) = max 1049 ((pointing 1049).time.hfn + ready.params.chans[(0 : Ch)].lead) ∧
      (pointing 1049).chans[(0 : Ch)].cuesAllowed 1050 = true ∧ (pointing 1049).chans[(0 : Ch)].freePlayer (item 7 1049).avoid = some .a ∧
      (item 7 1049).endsAfter 1050 = true) ∧
    ((landing 990).chans[(0 : Ch)].seq.landing = some { item := item 7 990, target := 1050 } ∧ (item 7 990).kind = .pass ∧ (item 7 990).player = none ∧
      (landing 990).chans[(0 : Ch)].ctl.pendingBreak = none ∧ (landing 990).chans[(0 : Ch)].rollsBeforeReturn 1050 = true ∧
      (landing 990).chans[(0 : Ch)].freePlayer none = some .a ∧ (item 7 990).endsAfter 1050 = true) ∧
    (withSeq fun q => { q with breakClip := some clip }).chans[(0 : Ch)].seq.breakClip = some clip ∧ clip.kind = .brk ∧
    clip.player = none ∧ clip.handle = some 9 ∧ clip.endsAfter 1050 = true ∧
    (withSeq fun q => { q with breakClip := some clip }).chans[(0 : Ch)].freePlayer clip.avoid = some .a := by decide

/-- Player A with four STOPs queued and one in flight. -/
def crowded (s : State) : State := s.setCh 0 { s.chans[(0 : Ch)] with seq := { s.chans[(0 : Ch)].seq with
  a := { s.chans[(0 : Ch)].seq.a with queue := List.replicate 4 (3, .stop 1000), flight := some ⟨2, .stop 1000, 990, 0, false, true⟩ } } }

theorem hyp_CuesFindNoRoom :
    hasRoom ((pointing 1050).chans[(0 : Ch)].seq.player .a) = true ∧
    (∀ o ∈ [(1050 : Frame), 1049], hasRoom ((crowded (pointing o)).chans[(0 : Ch)].seq.player .a) = false ∧
      (crowded (pointing o)).chans[(0 : Ch)].freePlayer none = some .a ∧ (crowded (pointing o)).chans[(0 : Ch)].cuesAllowed 1050 = true) ∧
    hasRoom ((crowded (landing 990)).chans[(0 : Ch)].seq.player .a) = false ∧
    (crowded (landing 990)).chans[(0 : Ch)].freePlayer none = some .a ∧ (crowded (landing 990)).chans[(0 : Ch)].rollsBeforeReturn 1050 = true ∧
    hasRoom ((crowded (withSeq fun q => { q with breakClip := some clip })).chans[(0 : Ch)].seq.player .a) = false ∧
    (crowded (withSeq fun q => { q with breakClip := some clip })).chans[(0 : Ch)].freePlayer none = some .a := by decide

theorem hyp_ABreakClipIsLostWhole :
    (withSeq fun q => { q with breakClip := some { clip with stop := some 1050 } }).chans[(0 : Ch)].seq.breakClip =
      some { clip with stop := some 1050 } ∧
    { clip with stop := some 1050 }.endsAfter (ready.time.hfn + ready.params.chans[(0 : Ch)].lead) = false ∧
    { clip with stop := some 1051 }.endsAfter (ready.time.hfn + ready.params.chans[(0 : Ch)].lead) = true ∧
    (withSeq fun q => { q with breakClip := some { clip with stop := some 1050 } }).chans[(0 : Ch)].seq.landing = none ∧
    (withSeq fun q => { q with breakClip := some { clip with stop := some 1050 } }).chans[(0 : Ch)].seq.onAir = none ∧
    (broken none none).chans[(0 : Ch)].ctl.mode = .breakIn := by decide

theorem hyp_ItemsAreLostWhole :
    (pointing 950).chans[(0 : Ch)].seq.landing = none ∧ (pointing 950).chans[(0 : Ch)].seq.preroll = some (item 7 950) ∧
    (item 7 950).endsAfter ((pointing 950).time.hfn + ready.params.chans[(0 : Ch)].lead) = false ∧
    (item 7 951).endsAfter ((pointing 950).time.hfn + ready.params.chans[(0 : Ch)].lead) = true ∧
    (pointing 950).chans[(0 : Ch)].active = true ∧ (pointing 950).chans[(0 : Ch)].ctl.pendingBreak = none ∧
    (pointing 950).chans[(0 : Ch)].ctl.mode ≠ .breakIn ∧ (landing 950).chans[(0 : Ch)].seq.landing = some { item := item 7 950, target := 1050 } := by decide

/-- Player A in a state with frames, holding the item of event 7. -/
def holding (st : PState) (roll endF stopF : Option Frame) : State := airing 1000 fun q => { q with
  onAir := some ⟨{ item 7 1000 with player := some .a, onAirStart := some 1000 }, 0, 0, 0, some 1100, none, false⟩
  a := { q.a with state := st, loaded := some { item 7 1000 with player := some .a }, roll := roll, endF := endF, stopF := stopF } }

theorem hyp_PlayersRollEndAndStop :
    ((holding .cued (some 1000) none none).chans[(0 : Ch)].seq.player .a).roll = some ((ready.time.hfn : Nat) : Frame) ∧
    ((holding .cued (some 1000) none none).chans[(0 : Ch)].seq.player .a).loaded = some { item 7 1000 with player := some .a } ∧
    (holding .cued (some 1000) none none).chans[(0 : Ch)].ctl.mode ≠ .returning ∧
    ((holding .playing none (some 1000) none).chans[(0 : Ch)].seq.player .a).endF = some ((ready.time.hfn : Nat) : Frame) ∧
    ((holding .playing none (some 1000) none).chans[(0 : Ch)].seq.player .a).stopF ≠ some ((ready.time.hfn : Nat) : Frame) ∧
    (holding .playing none (some 1000) none).chans[(0 : Ch)].carries .a = true ∧
    (withA fun p => { p with state := .playing, endF := some 1000 }).chans[(0 : Ch)].carries .a = false ∧
    ((holding .playing none none (some 1000)).chans[(0 : Ch)].seq.player .a).stopF = some ((ready.time.hfn : Nat) : Frame) := by decide

theorem hyp_SilentPlayersFault :
    ((withA fun p => { p with flight := some ⟨9, .query 5, 980, 12, false, true⟩ }).chans[(0 : Ch)].seq.player .a).flight
      = some ⟨9, .query 5, 980, 12, false, true⟩ ∧
    ready.params.part.replyTimeout ≤ 12 ∧
    ((withA fun p => { p with flight := some ⟨9, .query 5, 980, 12, false, true⟩ }).chans[(0 : Ch)].seq.player .a).state ≠ .fault ∧
    ready.params.chans[(0 : Ch)].stallLimit ≤ ((withA fun p => { p with state := .playing, lateRun := 25 }).chans[(0 : Ch)].seq.player .a).lateRun ∧
    11 < ready.params.part.replyTimeout ∧ 24 < ready.params.chans[(0 : Ch)].stallLimit ∧
    (∀ f, (ready.chans[(0 : Ch)].seq.player .a).flight = some f → f.probe = true ∨ f.age < ready.params.part.replyTimeout) :=
  ⟨by decide, by decide, by decide, by decide, by decide, by decide, none_all (by decide)⟩

theorem hyp_PlayersAreProbedAndAsked :
    ((withA fun p => { p with state := .fault, probeTimer := 25 }).chans[(0 : Ch)].seq.player .a).state = .fault ∧
    ready.params.part.probeInterval ≤ 25 ∧ (pointing 1000).chans[(0 : Ch)].seq.sweep = none ∧
    ((pointing 1000).chans[(0 : Ch)].sweepWindow (pointing 1000).time.hfn ready.params.chans[(0 : Ch)].sweepDepth).find?
      (fun e => decide (e.readiness = .unknown)) = some (event 7 10 1000) ∧
    [PlayerId.a, .b].find? (fun q => ((pointing 1000).chans[(0 : Ch)].seq.player q).quiet) = some .a := by decide

/-- Channel 0 in MIRROR under HOT, with its anchor on event 7 and a shadow with a realign run, or none. -/
def hot (shadow : Bool) (run : Nat) : State :=
  { onCh fun c => { c with store := { c.store with current := [event 7 10 990], anchor := some ⟨7, 10, 1000⟩ }
                           seq := { c.seq with shadow := shadow, realign := run } } with
    params := { ready.params with chans := ready.params.chans.set 0 { ready.params.chans[(0 : Ch)] with standby := .hot } } }

theorem hyp_TheShadowStartsAndRejoins :
    (hot false 0).chans[(0 : Ch)].ctl.mode = .mirror ∧ (hot false 0).params.chans[(0 : Ch)].standby = .hot ∧
    (hot false 0).chans[(0 : Ch)].seq.shadow = false ∧ (hot false 0).chans[(0 : Ch)].anchorResolved = true ∧
    3 ≤ (hot true 25).params.chans[(0 : Ch)].lead ∧ (hot true 25).chans[(0 : Ch)].seq.shadow = true ∧ (hot true 25).params.chans[(0 : Ch)].realignPersistence ≤ 25 := by decide

theorem hyp_DueTriggersAreDealtWith :
    (∀ m ∈ [Mode.mirror, .joining, .takeover, .breakIn, .returning], (inMode m none).powered = true ∧
      m = (inMode m none).chans[(0 : Ch)].ctl.mode) := by decide

/-- A trigger of event 7, inserted at `n`, for frame `f`. -/
def due (a : TrigAction) (n f : Frame) (late : Bool) : PendTrig :=
  { code := 6, action := a, ownerEvent := 7, ownerPass := 0, ownerStart := 950, source := .a, event := 7, index := 0, offset := 60,
    pass := 0, frame := f, insertion := n, late := late }

/-- Event 7 with a trigger of code 6 at frame 1010, pending for its cued item with a copied action; the table's entry is empty. -/
def rejudged (offset : Nat) : W :=
  let e := event 7 10 950
  begun (onCh fun c => { c with
    store := { c.store with current := [{ e with triggers := [⟨6, offset, some 1010⟩] }] }
    ctl := { c.ctl with mode := .takeover }, trig := { c.trig with pending := [due (.ident 3 true) 1010 1010 false] }
    seq := { c.seq with cued := some { item 7 950 with player := some .a } } }) 0

theorem hyp_TriggersAreJudgedAgain :
    (rejudged 60).ch.trig.pending.find? (fun z => decide (z.event = (event 7 10 950).id) && decide (z.code = 6) &&
      decide (z.offset = 60) && decide (z.frame = 1010)) = some (due (.ident 3 true) 1010 1010 false) ∧
    (∀ z ∈ (rejudged 60).ch.trig.pending, z.event = (event 7 10 950).id → z.code = 6 → z.offset = 70 → z.frame ≠ 1010) ∧
    (rejudged 60).ch.ctl.mode ≠ .mirror ∧ (rejudged 60).ch.seq.cued = some { item 7 950 with player := some .a } := by decide

/-- R157, R159: judged again, an entry that did not move keeps the action it copied; one that moved is judged by the table. -/
theorem test_unmoved_entries_keep_their_action :
    (rejudge (envOf ready 0) (rejudged 60)).ch.trig.pending = [due (.ident 3 true) 1010 1010 false] ∧
    (rejudge (envOf ready 0) (rejudged 70)).ch.trig.pending = [] ∧ trigAction ready.table 6 = none := by decide

/-- Channel 0 in a mode with triggers pending. -/
def withTriggers (m : Mode) (l : List PendTrig) : State := onCh fun c => { c with
  ctl := { c.ctl with mode := m }, trig := { c.trig with pending := l } }

theorem hyp_DueTriggersHaveTheirEffects :
    ((begun (withTriggers .takeover [due .notify 1000 1010 false, due .mark 1001 1001 false]) 0).due
        (envOf (withTriggers .takeover [due .notify 1000 1010 false, due .mark 1001 1001 false]) 0)).length = 1 ∧
    (∀ x ∈ [due .notify 1000 1010 false, due .fillNow 999 1000 false, due .identOn 1000 1000 true, due (.ident 3 true) 1000 1000 false,
        due .identBlink 1000 1000 false, due .identOff 1000 1000 false, due (.outputCue [1] 5) 1000 1005 false, due .mark 1000 1000 false,
        due .none 1000 1000 false], ¬ (x.insertion < 1000 ∧ x.frame < 1000)) ∧
    ((due .mark 999 999 false).insertion < 1000 ∧ (due .mark 999 999 false).frame < 1000) ∧
    (true = true ↔ (due .identOn 1000 1000 true).late = true ∨ (due .identOn 1000 1000 true).insertion < 1000) ∧
    (airing 950 fun q => { q with onAir := some ⟨item 7 950, 50, 0, 0, none, none, false⟩ }).chans[(0 : Ch)].seq.onAir.isSome = true ∧
    (due .fillNow 999 1000 false).ownedBy (item 7 950) = true := by decide

/-- A FILL_NOW that falls due while its owner waits for a late cue on player A, a WAIT item on air for it. -/
def waitingFor (i : Item) : State := airing 950 fun q => { q with
  onAir := some ⟨waitFor 950 (some i), 50, 0, 0, none, none, false⟩, cued := some i
  landing := some { item := i, target := 950 }, a := { q.a with loaded := some i } }

theorem hyp_FillNowWaitsForItsItem :
    (waitingFor (item 7 950)).chans[(0 : Ch)].seq.onAir.map (·.item.isPass) = some false ∧
    ((begun (waitingFor (item 7 950)) 0).player .a).loaded = some (item 7 950) ∧ (item 7 950).isPass = true ∧
    (due .fillNow 999 1000 false).ownedBy (item 7 950) = true ∧
    (waitingFor (item 7 950)).chans[(0 : Ch)].seq.cued = some (item 7 950) ∧
    (waitingFor (item 7 950)).chans[(0 : Ch)].seq.landing.map (·.item) = some (item 7 950) := by decide

/-- Event 7 from frame 1000 with a trigger of a code at offset 60. -/
def marked (code : Nat) : Event := { event 7 10 1000 with triggers := [⟨60, code, none⟩] }

/-- Channel 0 in a mode with event 7 and its trigger. -/
def judging (m : Mode) (code : Nat) : W :=
  begun (onCh fun c => { c with ctl := { c.ctl with mode := m }, store := { c.store with current := [marked code] } }) 0

theorem hyp_TriggersAreJudged :
    (judging .mirror 5).ch.ctl.mode = .mirror ∧ clip.ofEvent = false ∧ (judging .takeover 5).ch.ctl.mode ≠ .mirror ∧
    (item 7 1000).ofEvent = true ∧ (judging .takeover 5).ch.store.event 7 = some (marked 5) ∧
    (marked 5).res = some { origin := 1000, start := 1000, stop := 1100 } ∧
    trigAction (envOf ready 0).table 6 = none ∧ trigAction (envOf ready 0).table 5 = some .mark ∧
    ((999 : Frame) < (envOf ready 0).now ∧ (1000 : Frame) = (envOf ready 0).now ∧ (envOf ready 0).built = true) ∧
    ((envOf ready 0).now ≤ 1060 ∧ (1060 : Frame) ≠ (envOf ready 0).now ∧ (1000 : Frame) ≤ 1060) ∧ (1060 : Frame) < 1061 := by decide

/-- A record for the log. -/
def rec0 : RecProto := ⟨1000, 0, .channelReset, 0, 0, 0, .main, .chMode .mirror, none⟩

/-- A TRIGGER record of channel 0. -/
def trigger0 : RecProto := { rec0 with kind := .trigger, detail := .outcome .done, trigger := some 9 }

/-- R160, R179: an item record that comes after a TRIGGER record of its period stands before it in the ring. -/
theorem test_trigger_records_last :
    ((ready.record trigger0).record { rec0 with kind := .itemEnd }).closePeriod.log.ring.map (fun r => (r.number, r.body.kind)) =
      [(0, .itemEnd), (1, .trigger)] ∧
    ((boundaryAt 0 (ready.record trigger0)).log.ring.length, (boundaryAt 0 (ready.record trigger0)).log.triggers) = (1, []) := by decide

/-- A log of `n` records numbered from 0, all unreported. -/
def logged (n : Nat) : Log :=
  { ring := (List.range n).map fun i => ⟨i, rec0, 0⟩, counter := n, unreported := n, overrun := 0, tick := 0, triggers := [] }

theorem hyp_RecordsJoinTheRingAndAreReported :
    LogOk (logged 4) ∧ asRunDue { ready with log := logged 4 } = some 4 ∧ LogOk (logged 3) ∧ asRunDue { ready with log := logged 3 } = none ∧
    (logged 3).ring.length < 1024 ∧ trigger0.kind = .trigger ∧ rec0.kind ≠ .trigger ∧
    (ready.record trigger0).log.triggers = trigger0 :: [] := by
  and_intros <;> decide

theorem logged_ok (n u : Nat) (hu : u ≤ n) (hn : n ≤ 1024) : LogOk { logged n with unreported := u } := by
  have hl : (logged n).ring.length = n := by simp [logged]
  refine ⟨by simpa [hl] using hn, by simpa [hl] using hu, by simp only [logged, two32]; omega, ?_⟩
  show (logged n).ring.map (·.number) = _
  have h : (logged n).ring.map (·.number) = List.range n := by simp only [logged, List.map_map]; exact List.map_id _
  rw [h]
  show List.range n = (List.range (logged n).ring.length).map fun i => (n + two32 - (logged n).ring.length + i) % two32
  rw [hl]
  refine (List.map_id _).symm.trans (List.map_congr_left fun i hi => ?_)
  have : i < n := List.mem_range.mp hi
  simp only [id, two32]; omega

theorem hyp_RecordsJoinAFullRing :
    LogOk { logged 1024 with unreported := 1024 } ∧ LogOk { logged 1024 with unreported := 1023 } ∧ (logged 1024).ring.length = 1024 :=
  ⟨logged_ok 1024 1024 le_rfl le_rfl, logged_ok 1024 1023 (by decide) le_rfl, by simp [logged]⟩

/-- A batch that removes event 1. -/
def oneOp : List Byte := [1, 0, 0, 0, 1]

set_option maxRecDepth 8000 in
theorem hyp_BatchesFollowTheSequence :
    (readOps (statedPart (hdFor 0 7) oneOp)).map (·.length) = some 1 ∧
    (readOps (statedPart (hdFor 0 162) (List.replicate 32 oneOp).flatten)).map (·.length) = some 32 ∧
    (∀ st ∈ [MirrorState.empty, .gap, .diverged, .current, .stale, .syncing], ∀ n ∈ [7, 8, 9],
      Turn .main (hdFor 0 7) (.mirrorBatch n oneOp) (mirrored st 9 (decide (st = .syncing))) ∧ Names (hdFor 0 7) 0 ∧
      (mirrored st 9 (decide (st = .syncing))).chans[(0 : Ch)].mirror.state = st ∧
      (mirrored st 9 (decide (st = .syncing))).chans[(0 : Ch)].mirror.lastSeq = 7 ∧
      (st = .syncing → (mirrored st 9 (decide (st = .syncing))).chans[(0 : Ch)].store.refresh.isSome = true)) ∧
    8 = (7 + 1) % 65536 ∧ 7 ≠ (7 + 1) % 65536 ∧ 9 ≠ (7 + 1) % 65536 := by
  and_intros <;> first | decide | (unfold Turn Names; decide)

/-- A PUT of event `id` at key `key`, FIXED at the label of frame `f` of day 0. -/
def putFixed (id key f : Nat) : Put :=
  { id := id, key := key, timing := 0, action := 0, passes := 1, day := 0, label := labelOfDay .f25 f, duration := 100,
    clip := 5, inPoint := 0, subst := 0, triggers := [] }

/-- Channel 0 with event 7 from frame 1000 in a lifecycle, at frame 1000. -/
def living (x : Lifecycle) (o : Frame) : W :=
  begun (onCh fun c => { c with store := { c.store with current := [{ event 7 10 o with lifecycle := x }] } }) 0

/-- What an operation on CURRENT is answered. -/
def answered (op : BatchOp) (w : W) : Status := (opCurrent (envOf ready 0) op w).2

theorem hyp_OperationsAreRefusedOrApplied :
    answered (.put { putFixed 8 20 1200 with id := 0 }) (living .pending 1000) = .malformed ∧
    answered (.put (putFixed 8 20 1200)) (living .pending 1000) = .ok ∧
    answered (.put (putFixed 8 5 800)) (living .pending 1000) = .tooLate ∧
    answered (.put (putFixed 7 10 1060)) (living .cued 1049) = .tooLate ∧
    answered (.put (putFixed 7 10 1060)) (living .cued 1050) = .ok ∧
    answered (.put (putFixed 7 10 1000)) (living .onAir 1000) = .deferred ∧
    answered (.remove 8) (living .pending 1000) = .notFound ∧ answered (.remove 7) (living .onAir 1000) = .onAir ∧
    answered (.remove 7) (living .cued 1049) = .tooLate ∧ answered (.remove 7) (living .cued 1050) = .ok ∧
    answered (.remove 9) { living .pending 1000 with ch := { (living .pending 1000).ch with
      store := { (living .pending 1000).ch.store with orphan := some { event 9 30 900 with lifecycle := .orphan } } } } = .onAir := by
  decide

theorem hyp_RefreshOperationsFollowTheDigest :
    (mirrored .syncing 9 true).chans[(0 : Ch)].store.refresh = some ⟨5, [], 0, 0⟩ ∧ (0, 0) = digestOf [] ∧
    ((opRefresh (envOf ready 0) (.put (putFixed 8 20 1200)) (begun (mirrored .syncing 9 true) 0)).1.ch.store.refresh.map
      fun r => ((r.count, r.sum) = digestOf r.events ∧ r.events.length = 1 : Bool)) = some true ∧
    (opRefresh (envOf ready 0) (.remove 8) (begun (mirrored .syncing 9 true) 0)).2 = .notFound ∧
    (opRefresh { envOf ready 0 with cp := { (envOf ready 0).cp with eventLimit := 0 } } (.put (putFixed 8 20 1200))
      (begun (mirrored .syncing 9 true) 0)).2 = .limitReached := by decide

theorem hyp_RefreshesOpenAndClose :
    Turn .main (hd 0) (.refreshOpen 65535) ready ∧ Names (hd 0) 0 ∧
    (∀ st ∈ [MirrorState.empty, .gap, .diverged, .current, .stale, .syncing], ∀ n ∈ [7, 8, 9],
      Turn .main (hd 0) (.refreshClose n 0 0) (mirrored st 9 (decide (st = .syncing)))) ∧
    (mirrored .syncing 9 true).chans[(0 : Ch)].store.refresh = some ⟨5, [], 0, 0⟩ ∧
    (mirrored .syncing 9 true).chans[(0 : Ch)].ctl.mode = .mirror ∧ (mirrored .syncing 9 true).chans[(0 : Ch)].store.anchor = none ∧
    (mirrored .syncing 9 true).chans[(0 : Ch)].mirror.lastSeq = 7 := by
  and_intros <;> first | decide | (unfold Names; decide) | (unfold Turn; decide)

/-- A store with a refresh of one SEQUENTIAL event open, and nothing else. -/
def refreshed : Store :=
  { current := [], refresh := some ⟨5, [{ event 7 10 0 with res := none }], 1, 6019⟩, orphan := none, anchor := none, scan := none }

theorem hyp_RefreshedStoresAreInOrder :
    StoreOk refreshed ∧ (∀ e ∈ [{ event 7 10 0 with res := none }], e.fixed = none) ∧ StoreOk (mirrored .syncing 9 true).chans[(0 : Ch)].store := by
  have h : digestOf [{ event 7 10 0 with res := none }] = (1, 6019) := by decide
  have h0 : digestOf [] = (0, 0) := by decide
  have hm : (mirrored .syncing 9 true).chans[(0 : Ch)].store =
      { current := [], refresh := some ⟨5, [], 0, 0⟩, orphan := none, anchor := none, scan := none } := by decide
  rw [hm]
  refine ⟨⟨by simp [Ordered, refreshed], by simp [refreshed], by simp [refreshed], ?_⟩, by simp [event], by simp [StoreOk, Ordered, h0]⟩
  rintro r ⟨⟩
  exact ⟨by simp [Ordered], by simp [event], h.symm⟩

/-- Two events of a generation. -/
def two : List Event := [{ event 1 10 0 with fixed := some 100 }, { event 2 20 0 with fixed := some 200 }]

/-- How many events an applied PUT leaves. -/
def appliedLength : OpResult → Nat
  | .applied _ l _ _ => l.length
  | _ => 0

theorem hyp_AppliedPutsKeepTheOrder :
    Ordered two ∧ (∀ p ∈ [putFixed 3 15 150, putFixed 3 21 201, putFixed 1 5 99, putFixed 2 20 101],
      appliedLength (putOn .f25 true 3 1 none 0 p two) = if p.id = 3 then 3 else 2) :=
  ⟨⟨by decide, by decide, by simp [two]⟩, by decide⟩

/-- A resolution at frame 1000, anchored or not. -/
def ctxAt (a : Option Anchor) : RCtx := { now := 1000, anchor := a, orphanItemEnd := none, orphanFixed := none }

/-- A store of `two` with an anchor. -/
def storeOf (a : Option Anchor) : Store := { current := two, refresh := none, orphan := none, anchor := a, scan := none }

theorem hyp_GenerationsResolveAndRetire :
    (∀ y ∈ [{ event 1 10 0 with fixed := some 100 }], y.id ≠ (⟨2, 5, 1000⟩ : Anchor).event) ∧
    ((resolveList (ctxAt (some ⟨2, 5, 1000⟩)) two).map fun e => e.res.map fun r => (r.origin, r.start, r.stop)) =
      [none, some (995, 995, 1095)] ∧
    ((resolveList (ctxAt none) two).map fun e => e.res.map fun r => (r.origin, r.start, r.stop)) =
      [some (100, 100, 200), some (200, 200, 300)] ∧
    (∀ y ∈ two, y.id ≠ (⟨9, 5, 1000⟩ : Anchor).event) ∧ (∀ y ∈ [event 1 10 0], y.fixed = none ∨ y.lifecycle = .orphan) ∧
    ((({ event 1 10 0 with lifecycle := .onAir, res := some { origin := 950, start := 950, stop := 1050 } }).resolveAt (ctxAt none) 950 950
      (nextFixed [{ event 2 20 0 with fixed := some 1001 }])).res.map fun r : Resolved => (r.asked, r.stop)) = some (1001, 1002) ∧
    (({ event 1 10 0 with action := .drop }).resolveAt (ctxAt none) 950 960 none).res.map Resolved.stop = some 960 ∧
    ((resolveRetire (ctxAt none) 25 3 (storeOf none)).current.map (·.id)) = [] ∧
    ((resolveRetire (ctxAt none) 25 3 (storeOf (some ⟨2, 5, 1000⟩))).current.map (·.id)) = [2] ∧
    (∀ o ∈ (storeOf none).orphan, o.lifecycle = .orphan) := by decide

/-- Channel 0 with `n` events of keys 1 to n, and a scan or none. -/
def listed (n : Nat) (x : Option Scan) : State := onCh fun c => { c with
  store := { c.store with current := (List.range n).map fun i => event (i + 1) (i + 1) 1000, scan := x } }

theorem hyp_DigestChecksCountAndSum :
    (∀ n ∈ [0, 64, 65], Turn .main (hd 0) (.digestCheck 1 n 0) (listed n none) ∧ (listed n none).chans[(0 : Ch)].store.scan = none ∧
      ((listed n none).chans[(0 : Ch)].store.current.filter (fun e => decide (1 ≤ e.key))).length = n) ∧ Names (hd 0) 0 ∧
    Turn .main (hd 0) (.digestCheck 0 0 0) (scanning 0 10) ∧ (scanning 0 10).chans[(0 : Ch)].store.scan.isSome = true := by
  and_intros <;> first | decide | (unfold Names; decide) | (unfold Turn; decide)

theorem hyp_DigestKeysRise (n : Nat) : (listed n none).chans[(0 : Ch)].store.current.Pairwise (fun x y => x.key < y.key) := by
  show ((List.range n).map fun i => event (i + 1) (i + 1) 1000).Pairwise (fun x y => x.key < y.key)
  rw [List.pairwise_map]
  exact List.pairwise_lt_range.imp fun h => by simpa [event] using h

/-- `ready` with the time UNSET at a frame. -/
def unset (hfn : Nat) : State := { ready with time := { ready.time with timeState := .unset, hfn := hfn } }

theorem hyp_SiteBeatsFindTheNearestDay :
    (∀ c : Ch, (unset 1000).chans[c].ctl.mode = .mirror) ∧ (unset 1000).time.timeState = .unset ∧
    nearestDay .f25 5 (hfnOf .f25 5 zeroLabel) 1000 = 5 ∧ nearestDay .f25 5 (hfnOf .f25 5 (lb 0x23 0 0 0)) 1000 = 6 ∧
    nearestDay .f25 5 (hfnOf .f25 5 zeroLabel) 2159000 = 4 ∧ nearestDay .f25 5 (hfnOf .f25 5 (lb 0x12 0 0 0)) 0 = 5 ∧
    apart (5 * 2160000) (hfnOf .f25 5 (lb 0x12 0 0 0)) = apart (6 * 2160000) (hfnOf .f25 5 (lb 0x12 0 0 0)) := by decide

theorem hyp_SiteBeatsRestartTheTimer :
    Turn .main (hd 0) (.siteBeat 0 zeroLabel) ready ∧ labelValid ready.time.rate zeroLabel = true ∧
    labelValid ready.time.rate (lb 0x24 0 0 0) = false ∧ Turn .main (hd 0) (.siteBeat 65535 (lb 0x24 0 0 0)) ready ∧
    ready.time.timeState = .set ∧ { ready with time := { ready.time with timeState := .unset } }.time.timeState = .unset ∧
    (∀ c : Ch, ready.chans[c].ctl.mode = .mirror) ∧ (∃ c : Ch, (inMode .takeover none).chans[c].ctl.mode ≠ .mirror) := by
  and_intros <;> decide

theorem hyp_HandoversAreRecorded :
    (∀ l ∈ [lb 0 0 0x43 0, lb 0 0 0x42 0x24], Turn .main (hd 0) (.handover 0 l) ready ∧ labelValid ready.time.rate l = true) ∧
    Names (hd 0) 0 ∧ hfnOf .f25 0 (lb 0 0 0x43 0) = 1075 ∧ hfnOf .f25 0 (lb 0 0 0x42 0x24) = 1074 ∧
    ready.time.hfn + ready.params.chans[(0 : Ch)].lead + ready.params.chans[(0 : Ch)].margin = 1075 ∧
    ready.chans[(0 : Ch)].ctl.mode = .mirror ∧ ready.time.timeState = .set ∧
    Turn .main (hd 0) (.handover 0 (lb 0 0 0x43 0)) (inMode .takeover none) := by
  and_intros <;> first | decide | (unfold Names; decide) | (unfold Turn; decide)

theorem hyp_TakeoversAreAskedForAndTargetsClamped :
    (∀ m ∈ [Mode.mirror, .joining, .takeover, .breakIn], Turn .loc (hd 0) (.takeover .asap true) (inMode m none) ∧
      (inMode m none).chans[(0 : Ch)].ctl.mode = m) ∧
    Turn .loc (hd 0) (.takeover .asap true) (inMode .returning (some (switch .handback 1002 true))) ∧ Names (hd 0) 0 ∧
    (∀ l ∈ [lb 0 0 0x40 0x01, lb 0 0 0x40 0x02, lb 0 0 0x42 0x24, lb 0 0 0x43 0], labelValid ready.time.rate l = true ∧
      Turn .loc (hd 0) (.takeover (.at 0 l) false) ready ∧
      Turn .loc (hd 0) (.takeover (.at 0 l) false) (inMode .returning (some (switch .handback 1002 true))) ∧
      Turn .loc (hd 0) (.handback (.at 0 l) true) (inMode .takeover none) ∧
      Turn .main (hd 0) (.handbackAsk (.at 0 l)) (inMode .takeover none)) ∧
    ready.time.timeState = .set ∧ hfnOf .f25 0 (lb 0 0 0x40 0x02) = 1002 := by
  and_intros <;> first | decide | (unfold Names; decide) | (unfold Turn; decide)

/-- Channel 0 in a mode under a monitor state, with permission or not. -/
def permitted (m : Mode) (st : MonState) (b : Bool) : State :=
  { onCh fun c => { c with ctl := { c.ctl with mode := m, monitor := st } } with
    params := { ready.params with chans := ready.params.chans.set 0 { ready.params.chans[(0 : Ch)] with permission := b } } }

theorem hyp_HandbacksAreAskedFor :
    (∀ st ∈ [MonState.healthy, .suspect], ∀ m ∈ [Mode.takeover, .mirror], ∀ b ∈ [true, false],
      Turn .loc (hd 0) (.handback .asap b) (permitted m st b) ∧ Turn .main (hd 0) (.handbackAsk .asap) (permitted m st b) ∧
      (permitted m st b).params.chans[(0 : Ch)].permission = b ∧ (permitted m st b).chans[(0 : Ch)].ctl.mode = m ∧
      (permitted m st b).chans[(0 : Ch)].ctl.monitor = st) ∧ Names (hd 0) 0 := by
  and_intros <;> first | decide | (unfold Names; decide) | (unfold Turn; decide)

theorem hyp_BreakInsAndResumesAreAskedFor :
    (∀ m ∈ [Mode.mirror, .joining, .takeover, .breakIn, .returning],
      Turn .loc (hd 0) (.breakIn 1 16777215 (some 1) (some .default)) (inMode m none) ∧
      Turn .loc (hd 0) (.resume (some .preset)) (inMode m none)) ∧ Names (hd 0) 0 ∧ (1 ≠ 0) ∧ (some 1 ≠ some 0) ∧ 16777215 ≤ 16777215 ∧
    (inMode .takeover none).chans[(0 : Ch)].ctl.pendingBreak = none ∧
    Turn .loc (hd 0) (.breakIn 1 0 none (some .onTime)) (onCh fun c => { c with ctl := { c.ctl with
      mode := .takeover, pendingBreak := some (pendingBreak 1050) } }) ∧
    Turn .loc (hd 0) (.resume (some .preset)) (broken none none) ∧ (broken none none).chans[(0 : Ch)].ctl.ctx.isSome = true ∧
    Turn .loc (hd 0) (.resume (some .onTime)) (broken none (some ⟨.resume, .onTime, 1050⟩)) := by
  and_intros <;> first | decide | (unfold Names; decide) | (unfold Turn; decide)

theorem hyp_PartParametersAreSetAndRead :
    Turn .loc (hd 15) (.setParam (.part .retireGrace) 65535) ready ∧ PartParam.admits .retireGrace 65535 = true ∧
    Turn .loc (hd 15) (.setParam (.part .batchSize) 16) ready ∧ PartParam.admits .batchSize 16 = true ∧
    PartParam.admits .batchSize 17 = false ∧ PartParam.admits .replyTimeout 0 = false ∧ (hd 0).channel ≠ 15 ∧
    Turn .loc (hd 0) (.setParam (.part .retireGrace) 0) ready ∧ Turn .loc (hd 15) (.getParam (.part .rateCode)) ready ∧
    Turn .loc (hd 0) (.getParam (.trigger 255)) ready ∧ Turn .loc (hd 0) (.getParam (.trigger 256)) ready := by
  and_intros <;> decide

theorem hyp_ChannelParametersAreSetAndRead :
    Turn .loc (hd 15) (.setParam (.chan .eventLimit) 4096) ready ∧ Turn .loc (hd 7) (.setParam (.chan (.attrClass 7)) 1) ready ∧
    ChanParam.badAttr (.attrClass 7) = false ∧ ChanParam.badAttr (.attrClass 8) = true ∧ Names (hd 7) 7 ∧
    ChanParam.admits .eventLimit 4096 = true ∧ ChanParam.admits (.attrClass 7) 3 = false ∧
    (∀ c ∈ List.finRange 8, ready.chans[c].store.current.length ≤ 4096 ∧ ready.chans[c].store.refresh = none) ∧
    ChanParam.admits .eventLimit 16 = true ∧ 16 < (listed 17 none).chans[(0 : Ch)].store.current.length ∧
    Turn .loc (hd 0) (.setParam (.chan .eventLimit) 16) (listed 17 none) ∧ Turn .loc (hd 15) (.getParam (.chan .policy)) ready ∧
    (7 < (hd 8).channel ∧ (hd 8).channel ≠ 15) ∧ Turn .loc (hd 8) (.setParam (.chan .policy) 0) ready ∧
    Turn .loc (hd 8) (.getParam (.chan (.attrClass 8))) ready := by
  and_intros <;> first | decide | (unfold Names; decide)

/-- `ready` with 64 flow entries. -/
def fullFlows : State := { ready with flows := ready.flows ++ (List.range 58).map fun i => ⟨i + 100, 1, .output, some 1⟩ }

theorem hyp_FlowEntriesAreLoadedAndCleared :
    flowFormed ⟨65535, 0, .output, some 7⟩ = true ∧ Turn .loc (hd 0) (.flowLoad 65535 0 (some .output) 7) ready ∧
    entryByTag ready.flows 65535 = none ∧ (∀ x ∈ ready.flows, ¬ (x.role = .output ∧ x.channel = some 7)) ∧ ready.flows.length < 64 ∧
    64 ≤ fullFlows.flows.length ∧ Turn .loc (hd 0) (.flowLoad 65535 0 (some .output) 7) fullFlows ∧
    Turn .loc (hd 0) (.flowLoad 9 1 (some .mainCtl) 0) { ready with flows := [FlowEntry.bootstrap] } ∧ flowFormed ⟨9, 1, .mainCtl, none⟩ = true ∧
    entryByTag ready.flows 4 = some ⟨4, 3, .playerA, some 0⟩ ∧ Turn .loc (hd 0) (.flowLoad 4 1 (some .playerA) 0) ready ∧
    flowFormed ⟨4, 1, .playerA, some 0⟩ = true ∧ (∀ x ∈ ready.flows, x.tag ≠ 4 → ¬ (x.role = .playerA ∧ x.channel = some 0)) ∧
    (∃ x ∈ ready.flows, x.tag ≠ 9 ∧ x.role = .playerA ∧ x.channel = some 0) ∧
    entryByTag ready.flows 1 = some FlowEntry.bootstrap ∧ Turn .loc (hd 0) (.flowLoad 1 0 (some .output) 7) ready ∧
    Turn .loc (hd 0) (.flowLoad 65535 3 (some .localCtl) 0) ready ∧ 65535 < two16 ∧ (∀ x ∈ ready.flows, x.tag = 65535 → x.role = .localCtl) ∧
    (∃ x ∈ ready.flows, x.tag = 2 ∧ x.role ≠ .localCtl) ∧ Turn .loc (hd 0) (.flowClear 4) ready ∧ Turn .loc (hd 0) (.flowClear 1) ready ∧
    entryByTag ready.flows 99 = none ∧ Turn .loc (hd 0) (.flowLoad 0 0 (some .output) 7) ready ∧
    Turn .loc (hd 0) (.flowLoad 65536 0 (some .output) 7) ready ∧ Turn .loc (hd 0) (.flowLoad 1 4 (some .output) 7) ready ∧
    Turn .loc (hd 0) (.flowLoad 1 3 none 7) ready ∧ Turn .loc (hd 0) (.flowLoad 65535 3 (some .output) 8) ready ∧
    Role.output ≠ .mainCtl ∧ Role.output ≠ .localCtl := by
  and_intros <;> decide

theorem hyp_TriggerEntriesAreLoadedAndCleared :
    Turn .loc (hd 0) (.triggerLoad 6 .notify) ready ∧ loadedAction .notify = some .notify ∧ loadable (6, .notify) = true ∧
    loadedAction (.outputCue [1] 250) = some (.outputCue [1] 250) ∧ loadable (255, .outputCue [1] 250) = true ∧
    Turn .loc (hd 0) (.triggerLoad 5 .notify) ready ∧ Turn .loc (hd 0) (.triggerLoad 6 (.outputCue [] 0)) ready ∧
    Turn .loc (hd 0) (.triggerLoad 255 (.outputCue [1] 251)) ready ∧ Turn .loc (hd 0) (.triggerLoad 6 (.ident 16 (some true))) ready ∧
    Turn .loc (hd 0) (.triggerClear 6) { ready with table := [(6, .notify)] } ∧ TableOk [(6, .notify)] ∧
    (trigAction [(6, .notify)] 6).isSome = true ∧ trigAction ready.table 6 = none ∧ Turn .loc (hd 0) (.triggerClear 5) ready ∧
    TableOk ready.table := by
  and_intros <;> decide

/-- `ready` with graphic slot 15, two samples by one, in a state with bytes. -/
def drawing (st : GState) (bytes : List Host.Cell) : State :=
  { ready with graphics := ready.graphics.set 15 ⟨st, 2, 1, 8, bytes⟩ }

/-- Eight bytes at positions 0 to 7. -/
def allBytes : List Host.Cell := (List.range 8).map fun i => (i, 255#8)

theorem hyp_GraphicsAreLoaded :
    (Instr.graphicBegin .loc (hd 0) 16 2 1).request = some (.loc, { head := hd 0, body := .graphicBegin 16 2 1 }) ∧
    Turn .loc (hd 0) (.graphicBegin 16 2 1) ready ∧ Turn .loc (hd 0) (.graphicSegment 15 0 []) ready ∧ (statedPart (hd 0) []).length = 0 ∧
    Turn .loc (hd 0) (.graphicBegin 15 2 1) ready ∧ Turn .loc (hd 0) (.graphicBegin 15 1920 1080) ready ∧
    (∀ c : Ch, (ready.chans[c].out.window.enabled = true → ready.chans[c].out.window.slot ≠ 15) ∧
      ready.params.chans[c].fill ≠ .slate 15) ∧
    (∃ c : Ch, (onCh fun c => { c with out := { c.out with window := { c.out.window with enabled := true, slot := 15 } } }).chans[c].out.window.enabled = true) ∧
    Turn .loc (hdFor 0 6) (.graphicSegment 15 7 [1]) (drawing .loading []) ∧ [1] = statedPart (hdFor 0 6) [1] ∧ (drawing .loading []).graphics[(15 : Fin 16)].state = .loading ∧
    7 + 1 ≤ (drawing .loading []).graphics[(15 : Fin 16)].expected ∧ GraphicOk (drawing .loading []).graphics[(15 : Fin 16)] ∧
    (drawing .loading []).graphics[(15 : Fin 16)].expected < 8 + 1 ∧ (drawing .ready allBytes).graphics[(15 : Fin 16)].state ≠ .loading ∧
    Turn .loc (hd 0) (.graphicEnd 15) (drawing .loading allBytes) ∧ GraphicOk (drawing .loading allBytes).graphics[(15 : Fin 16)] ∧
    (drawing .loading allBytes).graphics[(15 : Fin 16)].bytes.length = 8 ∧ 8 = 2 * 1 * 4 ∧
    (drawing .loading []).graphics[(15 : Fin 16)].bytes.length ≠ 8 := by
  and_intros <;> decide

theorem hyp_WindowsAreSet :
    Turn .loc (hd 7) (.windowSet true 15 1918 1079 17 1) ready ∧ Names (hd 7) 7 ∧ Turn .loc (hd 7) (.windowSet true 16 0 0 16 0) ready ∧
    Turn .loc (hd 7) (.windowSet true 0 1919 0 16 0) ready ∧ 7 < (hd 8).channel ∧ Turn .loc (hd 8) (.windowSet true 0 0 0 16 0) ready := by
  and_intros <;> first | decide | (unfold Names; decide)

theorem hyp_QueriesReportAndChangeNothing :
    Turn .loc (hd 0) .queryChannel ready ∧ Names (hd 0) 0 ∧ Turn .loc (hd 0) (.queryEvents 0 16) ready ∧
    Turn .loc (hd 0) (.queryEvents 0 17) ready ∧ Turn .loc (hd 15) .queryMonitor ready ∧ Turn .loc (hd 8) .queryMonitor ready ∧
    7 < (hd 8).channel ∧ (hd 8).channel ≠ 15 ∧ Turn .loc (hd 0) .partStatus ready ∧ Turn .loc (hd 0) (.logRead 0 0) ready ∧
    Turn .loc (hd 0) (.logRead 4 1) { ready with log := logged 4 } ∧ (∀ x ∈ (logged 4).ring, x.number ≠ 4) ∧
    Turn .loc (hd 0) (.logRead 3 16) { ready with log := logged 4 } ∧
    (logged 4).ring = (logged 3).ring ++ ⟨3, rec0, 0⟩ :: [] ∧ (∀ z ∈ (logged 3).ring, z.number ≠ 3) ∧
    (logged 4).ring.head? = some ⟨0, rec0, 0⟩ ∧ (logged 4).ring.getLast? = some ⟨3, rec0, 0⟩ := by
  and_intros <;> first | decide | (unfold Names; decide)

theorem hyp_TimeCountersAndLogAreServed :
    Turn .loc (hd 0) (.timeSet 65535 (lb 0x23 0x59 0x59 0x24)) ready ∧ labelValid ready.time.rate (lb 0x23 0x59 0x59 0x24) = true ∧
    (∀ c : Ch, ready.chans[c].ctl.mode = .mirror) ∧ Turn .loc (hd 0) (.timeSet 0 zeroLabel) (inMode .joining none) ∧
    (∀ t ∈ [(0 : Frame), 76], (inMode .mirror (some (switch .takeover t false))).chans[(0 : Ch)].ctl.switch = some (switch .takeover t false) ∧
      Turn .loc (hd 0) (.timeSet 0 zeroLabel) (inMode .mirror (some (switch .takeover t false)))) ∧
    (75 : Frame) - (ready.params.chans[(0 : Ch)].lead + ready.params.chans[(0 : Ch)].margin) ≤ hfnOf .f25 0 zeroLabel ∧
    (hfnOf .f25 0 zeroLabel : Frame) < 76 - (ready.params.chans[(0 : Ch)].lead + ready.params.chans[(0 : Ch)].margin) ∧
    (∃ c : Ch, (inMode .joining none).chans[c].ctl.mode ≠ .mirror) ∧ labelValid ready.time.rate (lb 0 0 0 0x25) = false ∧
    Turn .loc (hd 0) (.timeSet 0 (lb 0 0 0 0x25)) ready ∧ Turn .loc (hd 7) .clearCounters ready ∧ Names (hd 7) 7 ∧
    Turn .loc (hd 15) .clearCounters ready ∧ Turn .loc (hd 8) .clearCounters ready ∧ 7 < (hd 8).channel ∧
    Turn .loc (hd 0) .logFlush { ready with log := logged 4 } ∧ LogOk (logged 4) ∧ ready.localUp = true ∧
    Turn .loc (hd 0) .logFlush State.reset ∧ State.reset.localUp = false ∧ LogOk State.reset.log := by
  and_intros <;> first | decide | (unfold Names; decide) | (unfold Turn; decide)

theorem hyp_ChannelResetsAreWhole :
    Turn .loc (hd 0) (.resetChannel 7) ready ∧ 7 = (7 : Ch).val ∧ Turn .loc (hd 0) (.resetChannel 8) ready ∧ 7 < 8 ∧
    Turn .loc (hd 0) (.resetChannel 0) (scanning 0 10) ∧ (scanning 0 10).chans[(0 : Ch)].store.scan.isSome = true ∧
    (∀ st ∈ [PState.idle, .cueing, .cued, .playing, .stopping, .fault], Turn .loc (hd 0) (.resetChannel 0) (withA fun p => { p with state := st }) ∧
      ((withA fun p => { p with state := st }).chans[(0 : Ch)].seq.player .a).state = st ∧
      ∀ q ∈ ((withA fun p => { p with state := st }).chans[(0 : Ch)].seq.player .a).queue, q.2.isCue = false) ∧
    (∃ q ∈ ((withA fun p => { p with state := .cueing, queue := [(3, .cue 9 0 100 1050)] }).chans[(0 : Ch)].seq.player .a).queue,
      q.2.isCue = true) := by
  and_intros <;> first | decide | (unfold Turn; decide)

theorem hyp_RequestsStandTheirChecks :
    (Instr.logFlush .loc (hd 1)).request = some (.loc, { head := hd 1, body := .logFlush }) ∧
    (({ ready with inLocal := [⟨hd 0, .logFlush⟩] }).inbound .loc).head? = some ⟨hd 0, .logFlush⟩ ∧
    (⟨hd 0, .logFlush⟩ : Request) ≠ ⟨hd 1, .logFlush⟩ ∧ ready.inbound .loc = [] ∧ (⟨1, 0, 1, 0⟩ : Head).present < (⟨1, 0, 1, 0⟩ : Head).bodyLen ∧
    (Instr.logFlush .main (hd 0)).request = some (.main, { head := hd 0, body := .logFlush }) ∧ 6 < reqCode .logFlush ∧
    reqCode (.handbackAsk .asap) ≤ 6 ∧ Turn .main (hd 8) (.refreshOpen 1) ready ∧ 7 < (hd 8).channel ∧
    Turn .main (hd 0) (.mirrorBatch 1 []) ready ∧ readOps (statedPart (hd 0) []) = some [] ∧
    Turn .main (hdFor 0 3) (.mirrorBatch 1 [2]) ready ∧ readOps (statedPart (hdFor 0 3) [2]) = none ∧
    (hdFor 0 3).present = 2 + [2#8].length ∧ (hdFor 0 3).bodyLen ≤ (hdFor 0 3).present ∧
    Names (hd 0) 0 ∧ Turn .loc (hd 0) (.breakIn 1 16777216 none (some .default)) ready ∧ Turn .loc (hd 0) (.resume none) ready ∧
    Turn .loc (hd 0) (.takeover (.at 0 (lb 0x24 0 0 0)) true) ready ∧ labelValid ready.time.rate (lb 0x24 0 0 0) = false ∧
    Turn .loc (hd 0) (.getParam .unknown) ready ∧ Turn .loc (hd 0) (.setParam (.trigger 6) 0) ready := by
  and_intros <;> first | decide | (unfold Names; decide)

/-- Channel 0 in a mode with the main's and player A's takes, a held frame and its run, and an item on air or none. -/
def output (m : Mode) (t : Bool) (run : Nat) (k : Option ItemKind) : Chan :=
  { Chan.reset with
    ctl := { Ctl.reset with mode := m }
    intake := { Intake.reset with takeMain := if t then some taken else none, takeA := if t then some taken else none }
    out := { Out.reset with held := some ⟨[], 4, .main⟩, holdRun := run }
    seq := { Seq.reset with onAir := k.map fun k =>
      ⟨{ item 7 1000 with kind := k, player := if k = .pass then some .a else none }, 0, 0, 0, none, none, false⟩ } }

theorem hyp_OutputFramesFollowTheMode :
    Picture.wf [] = true ∧ 1079 < 1080 ∧ 3839 < 3840 ∧ (output .mirror true 0 none).intake.takeMain = some taken ∧
    (output .joining true 0 none).forced = false ∧ (output .takeover true 0 (some .pass)).intake.take .a = some taken ∧
    ((output .takeover true 0 (some .pass)).seq.onAir.map fun a => (a.item.kind, a.item.player, a.fillMark)) = some (.pass, some .a, false) ∧
    (output .takeover false 249 (some .pass)).intake.take .a = none ∧
    (output .takeover false 249 (some .pass)).out.holdRun < ready.params.chans[(0 : Ch)].freezeLimit ∧
    ready.params.chans[(0 : Ch)].freezeLimit ≤ (output .takeover false 250 (some .pass)).out.holdRun ∧
    (output .mirror false 0 none).intake.takeMain = none ∧ Chan.reset.out.held = none ∧
    ((output .takeover false 0 (some (.fill .gap))).seq.onAir.map fun a => a.item.kind) = some (.fill .gap) ∧
    (output .takeover false 0 none).seq.onAir = none := by decide

/-- `taken` stamped with a frame. -/
def stamped (n : Nat) : EssFrame := { taken with hdr := { taken.hdr with hfn := some n } }

/-- A source with frames waiting. -/
def waiting (l : List EssFrame) : Source := { Source.reset with fifo := l }

theorem hyp_TakesFollowTheFifo :
    [taken, stamped 5].length = (waiting [taken, stamped 5, stamped 6, taken]).fifo.length - (1 + 1) ∧
    (waiting [taken, stamped 5, stamped 6, taken]).fifo = [taken, stamped 5] ++ stamped 6 :: [taken] ∧
    ([] : List EssFrame).length = (waiting [taken]).fifo.length - (1 + 1) ∧ (waiting [taken]).fifo = [] ++ taken :: [] ∧ (waiting []).fifo = [] ∧
    (playerTake 6 (waiting [taken, stamped 5, stamped 6, stamped 7])).2 = some (stamped 6) ∧
    (playerTake 6 (waiting [taken, stamped 5, stamped 6, stamped 7])).1.fifo = [stamped 7] ∧
    (playerTake 6 (waiting [taken, stamped 5, stamped 6, stamped 7])).1.dropped = 2 := by decide

/-- The graphics with slot 15 READY. -/
def slots : Vector Graphic 16 := ready.graphics.set 15 ⟨.ready, 2, 1, 8, []⟩

/-- A window on slot 15. -/
def shown (blink phase : Nat) : Window := { enabled := true, slot := 15, x := 0, y := 0, alpha := 16, blink := blink, phase := phase }

theorem hyp_IdentsAreDrawn :
    (∀ b ∈ [(0, 0), (5, 4)], IdentShows slots (shown b.1 b.2) slots[(15 : Fin 16)]) ∧ slots[(15 : Fin 16)].state = .ready ∧
    ¬ IdentShows slots (shown 5 5) slots[(15 : Fin 16)] ∧ ¬ IdentShows ready.graphics (shown 0 0) ready.graphics[(15 : Fin 16)] ∧
    slots[(14 : Fin 16)].state ≠ .ready := by
  unfold IdentShows; decide

/-- Channel 0's item on air in TAKEOVER, event 7 standing from frame 1000. -/
def aired (x : Item) : Chan :=
  (airing 1000 fun q => { q with onAir := some ⟨x, 0, 0, 0, none, none, false⟩ }).chans[(0 : Ch)]

theorem hyp_StampsFollowTheItem :
    (item 7 1000).kind = .pass ∧ (item 7 1000).event ≠ 0 ∧
    (∀ k ∈ [ItemKind.pass, .fill .blank, .fill .absent, .fill .wait, .fill .gap, .fill .scheduleEnd, .brk],
      (aired { item 7 1000 with kind := k, forEvent := 7 }).origin 7 = some 1000 ∧
      (aired { item 7 1000 with kind := k, forEvent := 7 }).store.event 7 = some (event 7 10 1000) ∧
      (aired { item 7 1000 with kind := k, forEvent := 7 }).ctl.mode = .takeover) ∧
    ({ item 7 1000 with kind := .fill .wait, forEvent := 0 }).forEvent = 0 := by decide

theorem hyp_StampsSetTheAnchor :
    (begun (onCh fun c => { c with intake := { c.intake with takeMain := some { taken with hdr := { taken.hdr with
      stamp := some ⟨7, 5, 0⟩ } } } }) 0).ch.intake.takeMain.bind (·.hdr.stamp) = some ⟨7, 5, 0⟩ ∧
    (begun ready 0).mode = .mirror ∧ (begun (inMode .joining none) 0).mode = .joining ∧ (begun ready 0).ch.intake.takeMain = none ∧
    taken.hdr.stamp = none ∧ (begun (inMode .takeover none) 0).mode = .takeover := by decide

theorem hyp_BatchBytesReadBack : ∀ o ∈ [BatchOp.remove 4294967295, .put (putFixed 3 4294967295 2159999)], BatchOp.fits o = true := by decide

theorem hyp_StepsKeepThePart : step ready = .next ready ∧ TimeOk ready.time ∧ FlowsOk ready ∧ LogOk ready.log ∧ ConfigOk ready := by
  refine ⟨rfl, ?_⟩
  unfold TimeOk FlowsOk LogOk ConfigOk FlowTableOk TableOk; decide

theorem hyp_StepsKeepTheBuffers : (∀ k : Fin 16, GraphicOk ready.graphics[k]) ∧ ∀ c : Ch, IntakeOk ready.chans[c].intake := by
  refine ⟨?_, fun c => ?_⟩
  · unfold GraphicOk; decide
  · have h : ready.chans[c].intake = Intake.reset := by revert c; decide
    rw [h]
    simp [IntakeOk, SourceOk, Intake.reset, Source.reset]

theorem hyp_StepsKeepTheStores : ∀ c : Ch, StoreOk ready.chans[c].store := by
  intro c
  have h : ready.chans[c].store = { current := [], refresh := none, orphan := none, anchor := none, scan := none } := by
    revert c; decide
  rw [h]
  simp [StoreOk, Ordered]

/-- A store whose orphan stands apart from a REFRESH generation, with an order key that a CURRENT event shares. -/
def orphaned : Store :=
  { current := [event 7 10 1000], refresh := some ⟨5, [event 7 10 1000], 1, digestTerm (event 7 10 1000)⟩,
    orphan := some { event 8 10 1000 with lifecycle := .orphan }, anchor := none, scan := none }

theorem hyp_StepsKeepThePool : PoolOk ready ∧ OrphanApart orphaned ∧ (onCh fun c => { c with store := orphaned }).heldAll = 3 := by
  unfold PoolOk OrphanApart
  refine ⟨⟨by decide, fun c => ?_⟩, ?_, by decide⟩
  · have h : ready.chans[c].store.orphan = none := by revert c; decide
    rw [h]; exact fun o ho => absurd ho (by simp)
  · simp [orphaned, event]

theorem hyp_StepsKeepTheModes : ∀ c : Ch, ModeOk ready.chans[c].ctl := by
  intro c
  have h : ready.chans[c].ctl = Ctl.reset := by revert c; decide
  rw [h]
  simp [ModeOk, Ctl.reset]

/-! ## The spec's worked list (chapters 2 and 6), with its frame H, and small steps of the part -/

/-- The frame H of the worked examples. -/
def H : Nat := 26815500

/-- An event of the worked list. -/
def listEvent (id key dur passes : Nat) (fixed : Option Nat) (action : Action) (clip : Nat) : Event :=
  { event id key 0 with fixed := fixed, duration := dur, passes := passes, clip := clip, action := action, res := none }

/-- The five events of the worked resolution. -/
def five : List Event :=
  [listEvent 1001 100 750 1 none .play 65537, listEvent 1002 200 1500 2 none .play 65538,
   listEvent 1003 300 45000 1 (some 26820000) .play 65539, listEvent 1004 400 500 1 none .drop 65540,
   listEvent 1005 500 250 1 none .blank 0]

/-- The worked list resolved at H, its anchor 600 frames into event 1001. -/
def fiveStore : Store :=
  { current := five, refresh := none, orphan := none, anchor := some ⟨1001, 600, H⟩, scan := none : Store }.resolve
    { now := H, anchor := none, orphanItemEnd := none, orphanFixed := none }

theorem test_worked_resolution :
    fiveStore.current.map (fun e => (e.id, e.res.map fun r => (r.origin - (H : Int), r.start - (H : Int), r.stop - (H : Int)))) =
      [(1001, some (-600, -600, 150)), (1002, some (150, 150, 3150)), (1003, some (4500, 4500, 49500)),
       (1004, some (49500, 49500, 49500)), (1005, some (49500, 49500, 49750))] := by decide

theorem test_worked_digest :
    digestOf (five.take 3) = (3, 190055330) ∧ digestOf ((five.take 3).drop 1) = (2, 189329867) ∧
    (five.take 3).map digestTerm = [725463, 729030, 188600837] := by decide

theorem test_worked_items :
    ([100, 1700, 3500, 49500, 50000].map fun d =>
      let i := ({ Chan.reset with store := fiveStore }.itemAt ((H : Int) + d)).trim ((H : Int) + d)
      (i.kind, i.event, i.pass, i.stop.map (fun x => x - (H : Int)), if i.isPass then i.inPoint else 0)) =
      [(.pass, 1001, 0, some 150, 700), (.pass, 1002, 1, some 3150, 50), (.fill .gap, 0, 0, some 4500, 0),
       (.fill .blank, 1005, 0, some 49750, 0), (.fill .scheduleEnd, 0, 0, none, 0)] := by decide

/-- What a command leaves, as far as a test looks at it. -/
def after {α : Type} (f : State → α) (i : Instr) (s : State) : Option α :=
  match exec i s with
  | .next t => some (f t)
  | _ => none

theorem test_takeover_asap :
    after (fun t => (t.chans[(0 : Ch)].ctl.mode, t.chans[(0 : Ch)].ctl.switch)) (.takeover .loc (hd 0) .asap false) ready =
      some (.joining, some { kind := .takeover, cause := .manual, target := 1075, force := false }) := by decide

theorem test_handback_asap :
    after (fun t => (t.chans[(0 : Ch)].ctl.mode, t.chans[(0 : Ch)].ctl.switch)) (.handback .loc (hd 0) .asap true) (inMode .takeover none) =
      some (.returning, some { kind := .handback, cause := .manual, target := 1002, force := true }) := by decide

theorem test_cue_window :
    after (fun t => (t.chans[(0 : Ch)].seq.a.state, t.chans[(0 : Ch)].seq.a.flight.map (·.req), t.sent.map fun x => (x.port, x.tag)))
      (.cueWindow 0) (pointing 1075) = some (.cueing, some (.cue 507 0 100 1075), [(3, 4)]) := by decide

theorem test_late_cue :
    after (fun t => t.chans[(0 : Ch)].seq.a.flight.map (·.req)) (.lateCue 0) (pointing 1020) = some (some (.cue 507 30 70 1050)) := by
  decide

/-- R106, R107: CUED for a cue that was cancelled leaves the record to the CUE that waits behind it, and the STOP is sent. -/
theorem test_cued_for_a_cancelled_cue :
    after (fun t => (t.chans[(0 : Ch)].seq.a.state, t.chans[(0 : Ch)].seq.a.flight.map (·.req), t.chans[(0 : Ch)].seq.a.queue))
      (.cued (frm3 4) replying) recued = some (.cueing, some (.stop 1000), [(11, .cue 9 0 100 1001)]) := by decide

/-- `recued` for the break-in clip, with a stop frame of its own or none. -/
def waitingClip (own : Option Frame) : W :=
  begun (recued.setCh 0 { recued.chans[(0 : Ch)] with seq := { recued.chans[(0 : Ch)].seq with
    a := { recued.chans[(0 : Ch)].seq.a with stopF := own, tags := 12 } } }) 0

theorem hyp_StopsJoinTheQueue :
    ((waitingClip (some 1040)).player .a).stopF.isSome = true ∧
    ((waitingClip (some 1040)).player .a).queue = [] ++ (10, .stop 1000) :: [(11, .cue 9 0 100 1001)] ∧
    (∀ q ∈ [((11, .cue 9 0 100 1001) : Nat × PReq)], q.2.isStop = false) ∧ ((waitingClip none).player .a).stopF = none ∧
    ((waitingClip none).player .a).queue.length < 4 ∧ ((waitingClip none).player .a).flight.isSome = true ∧
    ((begun ready 0).player .a).flight = none ∧ ((begun ready 0).player .a).queue = [] ∧
    ((begun ready 0).player .a).stopF = none := by decide

/-- R108: a STOP for the clip leaves the STOP that cancelled the item before it, and moves one of its own. -/
theorem test_stops_of_two_items :
    ((issueStop (envOf ready 0) .a 1050 (waitingClip none)).player .a).queue =
      [(10, .stop 1000), (12, .stop 1050), (11, .cue 9 0 100 1001)] ∧
    ((issueStop (envOf ready 0) .a 1050 (waitingClip (some 1040))).player .a).queue = [(10, .stop 1050), (11, .cue 9 0 100 1001)] ∧
    ((issueStop (envOf ready 0) .a 1060 (issueStop (envOf ready 0) .a 1050 (waitingClip none))).player .a).queue =
      [(10, .stop 1000), (12, .stop 1060), (11, .cue 9 0 100 1001)] := by decide

/-- R34: the floor stands once the event has left the air; one that lies beyond now + 2 is no floor of this HFN. -/
theorem test_floor_after_the_air :
    [1002, 1003].map (fun f => onAirFloor (ctxAt none) 900
      { event 7 10 800 with res := some { origin := 800, start := 800, stop := f, asked := 900, floor := some f } }) =
      [some 1002, none] := by decide

/-- The item of event 7, from 1020, at the pointer as a continuation from 1060. -/
def continuing : Chan :=
  (airing 1020 fun q => { q with preroll := some { item 7 1020 with start := 1060, entry := some 1060, contin := true } }).chans[(0 : Ch)]

/-- R104, R115: with its first part's cue gone, the pointer names the whole item; once the first part has aired, what follows it. -/
theorem test_pointer_after_a_cancelled_first_part :
    [1000, 1060].map (fun now => (pointerItem continuing none now 1000).map fun i => (i.start, i.contin)) =
      [some (1020, false), some (1060, true)] := by decide

theorem test_cued_late :
    after (fun t => (t.chans[(0 : Ch)].seq.a.state, t.chans[(0 : Ch)].seq.a.flight.map (·.req))) (.cued (frm3 4) replying) (cueing 1000 1) =
      some (.stopping, some (.stop 1000)) := by decide

/-- The item of event 7 at the pointer after a failed cue, its substitute tried, with the clip's readiness UNKNOWN. -/
def failedOnce (o : Frame) : State :=
  let s := airing o fun q => { q with preroll := some { item 7 o with attempts := 1, subTried := true } }
  s.setCh 0 { s.chans[(0 : Ch)] with
    store := { s.chans[(0 : Ch)].store with current := [{ event 7 10 o with subst := some 600 }] }
    mirror := { s.chans[(0 : Ch)].mirror with state := .current, lastSeq := 7 } }

/-- R102: a PLAY event that is UNKNOWN cues its clip, whatever an earlier cue of the item carried. -/
theorem test_late_cue_by_readiness :
    after (fun t => t.chans[(0 : Ch)].seq.a.flight.map (·.req)) (.lateCue 0) (failedOnce 1020) = some (some (.cue 507 30 70 1050)) := by
  decide

/-- R105, R113, R115: a PUT that moves the waiting item gives a new item there, which waits for its cue window. -/
theorem test_put_gives_a_new_item :
    after (fun t => (t.chans[(0 : Ch)].seq.preroll.map (fun i => (i.start, i.attempts, i.subTried)), t.chans[(0 : Ch)].seq.cued.isSome))
      (.mirrorBatch .main (hdFor 0 37) 8 (0 :: putBytes (putFixed 7 10 1200))) (failedOnce 1020) = some (some (1200, 0, false), false) := by
  decide +kernel

/-- R190: bytes beyond the stated body length are disregarded, here those of a second operation and of a whole batch. -/
theorem test_bytes_beyond_the_stated_length :
    (readOps (statedPart ⟨1, 0, 7, 12⟩ (oneOp ++ oneOp))).map (·.length) = some 1 ∧ statedPart ⟨1, 0, 0, 7⟩ oneOp = [] ∧
    statedPart ⟨1, 0, 12, 12⟩ (oneOp ++ oneOp) = oneOp ++ oneOp ∧
    after (fun t => t.chans[(0 : Ch)].store.current.map (·.key)) (.mirrorBatch .main ⟨1, 0, 0, 37⟩ 8 (0 :: putBytes (putFixed 7 11 1200)))
      (failedOnce 1020) = some [10] ∧
    after (fun t => t.graphics[(15 : Fin 16)].bytes) (.graphicSegment .loc ⟨1, 0, 6, 7⟩ 15 0 [1, 2]) (drawing .loading []) =
      some [(0, 1)] := by
  decide +kernel

/-- `cueing` in RETURNING to frame 1040. -/
def returning : State :=
  let s := cueing 1000 1
  s.setCh 0 { s.chans[(0 : Ch)] with ctl := { s.chans[(0 : Ch)].ctl with
    mode := .returning, switch := some { kind := .handback, cause := .manual, target := 1040, force := true } } }

/-- R105, R142: after a late CUED whose new cue has to wait, no player stands before the other. -/
theorem test_cued_late_in_returning :
    after (fun t => (t.chans[(0 : Ch)].seq.preroll.map (fun i => (i.attempts, i.avoid)), t.chans[(0 : Ch)].seq.cued.isSome))
      (.cued (frm3 4) replying) returning = some (some (1, none), false) := by decide

theorem test_site_beat_expiry :
    after (fun t => (t.expired, t.chans[(0 : Ch)].mirror.state)) .siteBeatExpiry { mirrored .current 0 false with beat := 125 } =
      some (true, .stale) := by decide

theorem test_refresh_open_and_close :
    after (fun t => (t.chans[(0 : Ch)].mirror.state, t.chans[(0 : Ch)].mirror.lastSeq)) (.refreshOpen .main (hd 0) 41) ready =
      some (.syncing, 41) ∧
    after (fun t => (t.chans[(0 : Ch)].mirror.state, t.chans[(0 : Ch)].mirror.lastSeq)) (.refreshClose .main (hd 0) 8 0 0)
      (mirrored .syncing 9 true) = some (.current, 8) := by decide

theorem test_window_set :
    after (fun t => t.chans[(7 : Ch)].out.window) (.windowSet .loc (hd 7) true 3 100 50 20 5) ready =
      some { enabled := true, slot := 3, x := 100, y := 50, alpha := 16, blink := 5, phase := 0 } := by decide

theorem test_break_in :
    after (fun t => t.chans[(0 : Ch)].ctl.pendingBreak) (.breakIn .loc (hd 0) 9 4 (some 100) (some .default)) (inMode .takeover none) =
      some (some { handle := 9, inPoint := 4, duration := some 100, mode := .onTime, b := 1050, player := .a }) := by decide

theorem test_bad_frame :
    after (fun t => (t.ports[(3 : Port)].badFrame, t.ports[(3 : Port)].mark)) (.cued { frm3 4 with fcsOk := false } replying) ready =
      some (1, true) := by decide

set_option maxRecDepth 4000 in
theorem test_time_set :
    after (fun t => (t.time.hfn, t.time.timeState)) (.timeSet .loc (hd 0) 12 (lb 0x09 0x57 0 0)) ready = some (12 * 2160000 + 895500, .set) := by
  decide

end Sys2Proof.Tests
end

/-! PROOFS. The timecode of the Time Base (R4 to R9). A label stands at a minute of the day and a count of labels within
that minute. In these two numbers R6 is a sum without subtractions, and R7 finds them again from the frame of day. -/

namespace Sys2Proof.Machine

open Sys2Proof

/-! ## Two BCD digits -/

theorem bcdOk_iff (x : Byte) : bcdOk x = true ↔ x.toNat / 16 ≤ 9 ∧ x.toNat % 16 ≤ 9 := by
  simp [bcdOk]

theorem toBcd_toNat {n : Nat} (h : n < 100) : (toBcd n).toNat = n / 10 * 16 + n % 10 := by
  simp only [toBcd, BitVec.toNat_ofNat]; omega

theorem bcd_toBcd {n : Nat} (h : n < 100) : bcd (toBcd n) = n := by
  simp only [bcd, toBcd_toNat h]; omega

theorem bcdOk_toBcd {n : Nat} (h : n < 100) : bcdOk (toBcd n) = true := by
  rw [bcdOk_iff, toBcd_toNat h]; omega

theorem toBcd_bcd {x : Byte} (h : bcdOk x = true) : toBcd (bcd x) = x := by
  obtain ⟨hten, hone⟩ := (bcdOk_iff x).1 h
  have hlt : bcd x < 100 := by unfold bcd; omega
  apply BitVec.eq_of_toNat_eq
  rw [toBcd_toNat hlt]; unfold bcd; omega

/-! ## The rate codes -/

/-- The frames of a minute that drops labels: 1,798 at base 30 and 3,596 at base 60 (R7). -/
def RateCode.perMinute (rc : RateCode) : Nat := 60 * RateCode.base rc - RateCode.drop rc

/-- A dropped minute lacks d of its 60 × b labels. -/
theorem perMinute_add_drop (rc : RateCode) : RateCode.perMinute rc + RateCode.drop rc = 60 * RateCode.base rc := by
  cases rc <;> rfl

theorem drop_lt_base (rc : RateCode) : RateCode.drop rc < RateCode.base rc := by cases rc <;> decide

theorem base_le_sixty (rc : RateCode) : RateCode.base rc ≤ 60 := by cases rc <;> decide

/-- A day is 1,440 minutes, of which every tenth drops nothing. -/
theorem perDay_eq (rc : RateCode) :
    RateCode.perDay rc = 144 * (10 * RateCode.perMinute rc + RateCode.drop rc) := by
  cases rc <;> rfl

/-! ## The place of a label -/

/-- The minute of the day in which a label stands: R6's m. -/
def minuteOf (l : Label) : Nat := 60 * bcd l.hh + bcd l.mm

/-- The number of labels, dropped ones too, before a label in its minute. -/
def inMinute (rc : RateCode) (l : Label) : Nat := bcd l.ss * RateCode.base rc + bcd l.ff

/-- Minute `m` of the day has a label after `r` others, and that label exists (R5). -/
structure Place (rc : RateCode) (m r : Nat) : Prop where
  minute_lt : m < 1440
  labels_lt : r < 60 * RateCode.base rc
  exists_there : m % 10 = 0 ∨ RateCode.drop rc ≤ r

theorem labelValid_iff (rc : RateCode) (l : Label) :
    labelValid rc l = true ↔
      (bcdOk l.hh = true ∧ bcdOk l.mm = true ∧ bcdOk l.ss = true ∧ bcdOk l.ff = true) ∧
        bcd l.hh ≤ 23 ∧ bcd l.mm ≤ 59 ∧ bcd l.ss ≤ 59 ∧ bcd l.ff < RateCode.base rc := by
  simp [labelValid, and_assoc]

/-- A label after the first second of its minute has at least b labels before it, and d is less than b. -/
theorem labelExists_iff (rc : RateCode) (l : Label) :
    labelExists rc l = true ↔ minuteOf l % 10 = 0 ∨ RateCode.drop rc ≤ inMinute rc l := by
  have hmin : minuteOf l % 10 = bcd l.mm % 10 := by unfold minuteOf; omega
  have hff : inMinute rc l < RateCode.drop rc ↔ bcd l.ss = 0 ∧ bcd l.ff < RateCode.drop rc := by
    have hdrop := drop_lt_base rc
    unfold inMinute
    rcases Nat.eq_zero_or_pos (bcd l.ss) with hss | hss
    · simp [hss]
    · have := Nat.le_mul_of_pos_left (RateCode.base rc) hss
      omega
  rw [hmin, ← Nat.not_lt, hff]
  simp only [labelExists, Bool.not_eq_true', Bool.and_eq_false_iff, decide_eq_false_iff_not]
  tauto

theorem place_of_label {rc : RateCode} {l : Label} (hv : labelValid rc l = true) (he : labelExists rc l = true) :
    Place rc (minuteOf l) (inMinute rc l) := by
  obtain ⟨-, hhh, hmm, hss, hff⟩ := (labelValid_iff rc l).1 hv
  refine ⟨by unfold minuteOf; omega, ?_, (labelExists_iff rc l).1 he⟩
  have := Nat.mul_le_mul_right (RateCode.base rc) hss
  unfold inMinute; omega

/-! ## From label to frame of day (R6) -/

/-- The frame of day of place `m`, `r`: each minute before `m` counts a dropped minute's frames, and each tenth of them d more. -/
def frameAt (rc : RateCode) (m r : Nat) : Nat :=
  RateCode.perMinute rc * m + RateCode.drop rc * (m / 10) + r

/-- The labels before place `m`, `r` are the frames before it and the labels dropped up to minute `m`. -/
theorem frameAt_add_dropped (rc : RateCode) (m r : Nat) :
    frameAt rc m r + RateCode.drop rc * (m - m / 10) = 60 * RateCode.base rc * m + r := by
  have hm : m / 10 + (m - m / 10) = m := by omega
  calc frameAt rc m r + RateCode.drop rc * (m - m / 10)
      = RateCode.perMinute rc * m + RateCode.drop rc * (m / 10 + (m - m / 10)) + r := by unfold frameAt; ring
    _ = (RateCode.perMinute rc + RateCode.drop rc) * m + r := by rw [hm]; ring
    _ = 60 * RateCode.base rc * m + r := by rw [perMinute_add_drop]

theorem frameOfDay_eq (rc : RateCode) (l : Label) : frameOfDay rc l = frameAt rc (minuteOf l) (inMinute rc l) := by
  have hcount : (3600 * bcd l.hh + 60 * bcd l.mm + bcd l.ss) * RateCode.base rc + bcd l.ff =
      60 * RateCode.base rc * minuteOf l + inMinute rc l := by
    unfold minuteOf inMinute; ring
  have hdrop := frameAt_add_dropped rc (minuteOf l) (inMinute rc l)
  calc frameOfDay rc l
      = 60 * RateCode.base rc * minuteOf l + inMinute rc l - RateCode.drop rc * (minuteOf l - minuteOf l / 10) := by
        rw [← hcount]; rfl
    _ = frameAt rc (minuteOf l) (inMinute rc l) := by omega

/-- A place in minute `j` of ten minutes, after `D` whole tens. -/
theorem frameAt_tens (rc : RateCode) (D r : Nat) {j : Nat} (hj : j < 10) :
    frameAt rc (10 * D + j) r =
      (10 * RateCode.perMinute rc + RateCode.drop rc) * D + (RateCode.perMinute rc * j + r) := by
  have hD : (10 * D + j) / 10 = D := by omega
  rw [frameAt, hD]; ring

theorem frameAt_eq_tens (rc : RateCode) (m r : Nat) :
    frameAt rc m r = (10 * RateCode.perMinute rc + RateCode.drop rc) * (m / 10) + (RateCode.perMinute rc * (m % 10) + r) := by
  rw [← frameAt_tens rc (m / 10) r (Nat.mod_lt m (by decide)), Nat.div_add_mod]

/-- Within its ten minutes every place comes before the next ten. -/
theorem frame_in_ten_lt {rc : RateCode} {m r : Nat} (hr : r < 60 * RateCode.base rc) :
    RateCode.perMinute rc * (m % 10) + r < 10 * RateCode.perMinute rc + RateCode.drop rc := by
  have hminute := perMinute_add_drop rc
  have := Nat.mul_le_mul_left (RateCode.perMinute rc) (show m % 10 ≤ 9 by omega)
  omega

theorem frameAt_lt_perDay {rc : RateCode} {m r : Nat} (p : Place rc m r) : frameAt rc m r < RateCode.perDay rc := by
  have hten := frame_in_ten_lt (m := m) p.labels_lt
  have hday : m / 10 + 1 ≤ 144 := by have := p.minute_lt; omega
  have := Nat.mul_le_mul_left (10 * RateCode.perMinute rc + RateCode.drop rc) hday
  rw [frameAt_eq_tens, perDay_eq]
  linarith

/-- Every frame of day has a place: R7's D and M give it. -/
theorem exists_place {rc : RateCode} {f : Nat} (hf : f < RateCode.perDay rc) : ∃ m r, Place rc m r ∧ frameAt rc m r = f := by
  have hminute := perMinute_add_drop rc
  have hbase := drop_lt_base rc
  obtain ⟨ten, hten⟩ : ∃ ten, ten = 10 * RateCode.perMinute rc + RateCode.drop rc := ⟨_, rfl⟩
  have hD : f / ten < 144 := by rwa [Nat.div_lt_iff_lt_mul (by omega), hten, ← perDay_eq]
  have hM : f % ten < ten := Nat.mod_lt _ (by omega)
  have hsplit : ten * (f / ten) + f % ten = f := Nat.div_add_mod f ten
  generalize f / ten = D, f % ten = M at hD hM hsplit
  rcases Nat.lt_or_ge M (RateCode.drop rc) with hsmall | hlarge
  case inl =>
    refine ⟨10 * D + 0, M, ⟨by omega, by omega, .inl (by omega)⟩, ?_⟩
    rw [frameAt_tens rc D M (by decide), ← hten, Nat.mul_zero, Nat.zero_add, hsplit]
  case inr =>
    have hj : (M - RateCode.drop rc) / RateCode.perMinute rc < 10 := by
      rw [Nat.div_lt_iff_lt_mul (by omega)]; omega
    have hr : (M - RateCode.drop rc) % RateCode.perMinute rc < RateCode.perMinute rc := Nat.mod_lt _ (by omega)
    have hminutes := Nat.div_add_mod (M - RateCode.drop rc) (RateCode.perMinute rc)
    generalize (M - RateCode.drop rc) / RateCode.perMinute rc = j, (M - RateCode.drop rc) % RateCode.perMinute rc = x
      at hj hr hminutes
    refine ⟨10 * D + j, x + RateCode.drop rc, ⟨by omega, by omega, .inr (by omega)⟩, ?_⟩
    rw [frameAt_tens rc D _ hj, ← hten]; omega

/-! ## From frame of day to label (R7) -/

/-- R7's adjustment is the number of labels dropped up to the minute of the place. -/
theorem dropAdjust_frameAt {rc : RateCode} {m r : Nat} (p : Place rc m r) :
    dropAdjust (10 * RateCode.perMinute rc + RateCode.drop rc) (RateCode.perMinute rc) (RateCode.drop rc) (frameAt rc m r) =
      RateCode.drop rc * (m - m / 10) := by
  have hminute := perMinute_add_drop rc
  have hlabels := p.labels_lt
  have hten := frame_in_ten_lt (m := m) hlabels
  have hdropped : m - m / 10 = 9 * (m / 10) + m % 10 := by omega
  rw [frameAt_eq_tens, dropAdjust, Nat.mul_add_mod, Nat.mod_eq_of_lt hten, Nat.mul_add_div (by omega), Nat.div_eq_of_lt hten,
    hdropped]
  split
  case isTrue hsmall =>
    have hfirst : m % 10 = 0 := p.exists_there.resolve_right (by omega)
    rw [hfirst]; ring
  case isFalse hlarge =>
    have hd : RateCode.drop rc ≤ r := by
      rcases p.exists_there with hfirst | hd
      · simpa [hfirst] using hlarge
      · exact hd
    have hj : (RateCode.perMinute rc * (m % 10) + r - RateCode.drop rc) / RateCode.perMinute rc = m % 10 := by
      rw [Nat.add_sub_assoc hd, Nat.mul_add_div (by omega), Nat.div_eq_of_lt (by omega), Nat.add_zero]
    rw [hj]; ring

/-- R7 for all four rate codes at once: a code that drops nothing has adjustment 0. -/
theorem labelOfDay_eq (rc : RateCode) (f : Nat) :
    labelOfDay rc f = labelOfCount (RateCode.base rc)
      (f + dropAdjust (10 * RateCode.perMinute rc + RateCode.drop rc) (RateCode.perMinute rc) (RateCode.drop rc) f) := by
  cases rc
  case f25 | f50 => simp [labelOfDay, dropAdjust, RateCode.base, RateCode.drop]
  case f2997 | f5994 => rfl

theorem labelOfDay_frameAt {rc : RateCode} {m r : Nat} (p : Place rc m r) :
    labelOfDay rc (frameAt rc m r) = labelOfCount (RateCode.base rc) (60 * RateCode.base rc * m + r) := by
  rw [labelOfDay_eq, dropAdjust_frameAt p, frameAt_add_dropped]

/-- The digits of the label of a count of labels. -/
theorem labelOfCount_eq {b r : Nat} (m : Nat) (hr : r < 60 * b) :
    labelOfCount b (60 * b * m + r) =
      { hh := toBcd (m / 60), mm := toBcd (m % 60), ss := toBcd (r / b), ff := toBcd (r % b) } := by
  have hb : 0 < b := by omega
  have hsplit : 60 * b * m + r = b * (60 * m) + r := by ring
  have hss : r / b < 60 := by rwa [Nat.div_lt_iff_lt_mul hb]
  rw [labelOfCount, hsplit, Nat.mul_add_div hb, Nat.mul_add_mod b]
  generalize r / b = k at hss
  have hhour : (60 * m + k) / 3600 = m / 60 := by omega
  have hmin : (60 * m + k) / 60 = m := by omega
  have hsec : (60 * m + k) % 60 = k := by omega
  rw [hhour, hmin, hsec]

/-- A place has a valid label that stands there. -/
theorem labelOfDay_at_place {rc : RateCode} {m r : Nat} (p : Place rc m r) :
    labelValid rc (labelOfDay rc (frameAt rc m r)) = true ∧ minuteOf (labelOfDay rc (frameAt rc m r)) = m ∧
      inMinute rc (labelOfDay rc (frameAt rc m r)) = r := by
  have hm := p.minute_lt
  have hr := p.labels_lt
  have hbase := base_le_sixty rc
  have hff : r % RateCode.base rc < RateCode.base rc := Nat.mod_lt _ (by omega)
  have hss : r / RateCode.base rc < 60 := by rwa [Nat.div_lt_iff_lt_mul (by omega)]
  have hh : m / 60 < 100 := by omega
  have hmm : m % 60 < 100 := by omega
  have hss' : r / RateCode.base rc < 100 := by omega
  have hff' : r % RateCode.base rc < 100 := by omega
  rw [labelOfDay_frameAt p, labelOfCount_eq m hr, labelValid_iff]
  simp only [minuteOf, inMinute, bcd_toBcd, bcdOk_toBcd, hh, hmm, hss', hff']
  refine ⟨⟨by simp, by omega, by omega, by omega, hff⟩, Nat.div_add_mod m 60, ?_⟩
  rw [Nat.mul_comm]; exact Nat.div_add_mod r _

theorem labelOfDay_frameOfDay {rc : RateCode} {l : Label} (hv : labelValid rc l = true) (he : labelExists rc l = true) :
    labelOfDay rc (frameOfDay rc l) = l := by
  have p := place_of_label hv he
  obtain ⟨⟨hhh, hmm, hss, hff⟩, -, hmm', -, hff'⟩ := (labelValid_iff rc l).1 hv
  have hh : minuteOf l / 60 = bcd l.hh := by unfold minuteOf; omega
  have hm : minuteOf l % 60 = bcd l.mm := by unfold minuteOf; omega
  have hs : inMinute rc l / RateCode.base rc = bcd l.ss := by
    rw [inMinute, Nat.mul_comm, Nat.mul_add_div (by omega), Nat.div_eq_of_lt hff', Nat.add_zero]
  have hf : inMinute rc l % RateCode.base rc = bcd l.ff := by
    rw [inMinute, Nat.mul_comm, Nat.mul_add_mod, Nat.mod_eq_of_lt hff']
  rw [frameOfDay_eq, labelOfDay_frameAt p, labelOfCount_eq _ p.labels_lt, hh, hm, hs, hf, toBcd_bcd hhh, toBcd_bcd hmm,
    toBcd_bcd hss, toBcd_bcd hff]

theorem frameOfDay_lt_perDay {rc : RateCode} {l : Label} (hv : labelValid rc l = true) (he : labelExists rc l = true) :
    frameOfDay rc l < RateCode.perDay rc := by
  rw [frameOfDay_eq]; exact frameAt_lt_perDay (place_of_label hv he)

/-- The label of a frame of day is valid, exists and gives the frame back. -/
theorem labelOfDay_spec {rc : RateCode} {f : Nat} (hf : f < RateCode.perDay rc) :
    labelValid rc (labelOfDay rc f) = true ∧ labelExists rc (labelOfDay rc f) = true ∧
      frameOfDay rc (labelOfDay rc f) = f := by
  obtain ⟨m, r, p, rfl⟩ := exists_place hf
  obtain ⟨hvalid, hm, hr⟩ := labelOfDay_at_place p
  refine ⟨hvalid, ?_, ?_⟩
  · rw [labelExists_iff, hm, hr]; exact p.exists_there
  · rw [frameOfDay_eq, hm, hr]

/-! ## The move of R5, days and frame numbers (R8) -/

theorem labelMoved_valid {rc : RateCode} {l : Label} (hv : labelValid rc l = true) :
    labelValid rc (labelMoved rc l) = true := by
  unfold labelMoved
  split
  case isTrue => exact hv
  case isFalse =>
    have hdrop := drop_lt_base rc
    have hlt : RateCode.drop rc < 100 := by have := base_le_sixty rc; omega
    obtain ⟨⟨hhh, hmm, hss, -⟩, hh, hm, hs, -⟩ := (labelValid_iff rc l).1 hv
    rw [labelValid_iff]
    exact ⟨⟨hhh, hmm, hss, bcdOk_toBcd hlt⟩, hh, hm, hs, by rwa [bcd_toBcd hlt]⟩

theorem labelMoved_exists (rc : RateCode) (l : Label) : labelExists rc (labelMoved rc l) = true := by
  unfold labelMoved
  split
  case isTrue he => exact he
  case isFalse =>
    have hlt : RateCode.drop rc < 100 := by have := drop_lt_base rc; have := base_le_sixty rc; omega
    rw [labelExists_iff, inMinute, bcd_toBcd hlt]
    exact .inr (Nat.le_add_left _ _)

/-- An HFN is taken apart into the day and the frame of day that made it. -/
theorem whenOf_day_frame {rc : RateCode} {day f : Nat} (hday : day < 65536) (hf : f < RateCode.perDay rc) :
    whenOf rc (day * RateCode.perDay rc + f : Nat) =
      { hfn := (day * RateCode.perDay rc + f : Nat), day := day, label := labelOfDay rc f } := by
  have hdiv : (day * RateCode.perDay rc + f) / RateCode.perDay rc = day := by
    rw [Nat.mul_comm, Nat.mul_add_div (by omega), Nat.div_eq_of_lt hf, Nat.add_zero]
  have hmod : (day * RateCode.perDay rc + f) % RateCode.perDay rc = f := by
    rw [Nat.mul_comm, Nat.mul_add_mod, Nat.mod_eq_of_lt hf]
  unfold whenOf
  rw [← Int.natCast_div, ← Int.natCast_mod, hdiv, hmod, Int.toNat_natCast]
  congr 1
  omega

/-- The last label of the day stands at the last place of minute 1,439. -/
theorem frameOfDay_last {rc : RateCode} {l : Label} (hh : bcd l.hh = 23) (hm : bcd l.mm = 59) (hs : bcd l.ss = 59)
    (hf : bcd l.ff = RateCode.base rc - 1) : frameOfDay rc l = RateCode.perDay rc - 1 := by
  rw [frameOfDay_eq, minuteOf, inMinute, hh, hm, hs, hf]
  cases rc <;> rfl

/-! ## The statement -/

/-- Settles O11: R6 and R7 are inverse to each other because both go through the place of a label, and the move of R5 always
reaches a label that has one. -/
theorem labelsAndFramesAgree : Obligations.LabelsAndFramesAgree := by
  unfold Obligations.LabelsAndFramesAgree
  refine ⟨?formula, ⟨fun rc f hf => labelOfDay_spec hf, ?label⟩, ?days⟩
  case formula =>
    rintro rc b d F m l hrate hv he rfl
    obtain ⟨rfl, rfl, rfl⟩ : b = RateCode.base rc ∧ d = RateCode.drop rc ∧ F = RateCode.perDay rc := by
      simp only [List.mem_cons, Prod.mk.injEq, List.not_mem_nil, or_false] at hrate
      rcases hrate with ⟨rfl, rfl, rfl, rfl⟩ | ⟨rfl, rfl, rfl, rfl⟩ | ⟨rfl, rfl, rfl, rfl⟩ | ⟨rfl, rfl, rfl, rfl⟩ <;>
        exact ⟨rfl, rfl, rfl⟩
    exact ⟨rfl, frameOfDay_lt_perDay hv he, rfl, frameOfDay_last⟩
  case label =>
    intro rc l hv he
    exact ⟨frameOfDay_lt_perDay hv he, labelOfDay_frameOfDay hv he⟩
  case days =>
    intro rc day l hday hv
    have hvalid := labelMoved_valid hv
    have hexists := labelMoved_exists rc l
    refine ⟨hexists, ?_⟩
    rw [hfnOf, whenOf_day_frame hday (frameOfDay_lt_perDay hvalid hexists), labelOfDay_frameOfDay hvalid hexists]

end Sys2Proof.Machine

/-! PROOFS. The trigger table (R156, R157). A table is a sparse store whose codes rise, so what is read after a store or a
removal follows from the rules of sparse stores. A code below 6 is never looked up there. -/

namespace Sys2Proof.Machine

open Sys2Proof

/-! ## Sparse stores -/

section Cells

variable {α : Type}

/-- A store is read back at its address and leaves every other address, whether the list is ordered or not. -/
theorem cellAt_cellSet (k n : Nat) (v : α) (m : List (Nat × α)) :
    cellAt n (cellSet k v m) = if n = k then some v else cellAt n m := by
  induction m with
  | nil => simp only [cellSet, cellAt, eq_comm]
  | cons c m ih =>
    obtain ⟨j, w⟩ := c
    unfold cellSet
    split
    case isTrue => simp only [cellAt, eq_comm]
    case isFalse =>
      split
      case isTrue hkj => subst hkj; simp only [cellAt, eq_comm]; split <;> rfl
      case isFalse hkj => simp only [cellAt, ih]; grind

theorem cellAt_cellDrop_of_ne {k n : Nat} (hne : n ≠ k) (m : List (Nat × α)) : cellAt n (cellDrop k m) = cellAt n m := by
  induction m with
  | nil => rfl
  | cons c m ih =>
    obtain ⟨j, w⟩ := c
    unfold cellDrop
    split
    case isTrue hjk => subst hjk; simp [cellAt, hne.symm]
    case isFalse => simp only [cellAt, ih]

theorem risingBelow_cons {lo j : Nat} {v : α} {m : List (Nat × α)} :
    risingBelow lo ((j, v) :: m) = true ↔ lo ≤ j ∧ risingBelow (j + 1) m = true := by
  simp [risingBelow]

theorem risingBelow_of_le {lo lo' : Nat} {m : List (Nat × α)} (hle : lo' ≤ lo) (hr : risingBelow lo m = true) :
    risingBelow lo' m = true := by
  cases m with
  | nil => rfl
  | cons c m =>
    obtain ⟨hj, hm⟩ := risingBelow_cons.1 hr
    exact risingBelow_cons.2 ⟨hle.trans hj, hm⟩

/-- Nothing is listed below the bound of a rising list. -/
theorem cellAt_of_lt_rising {lo k : Nat} {m : List (Nat × α)} (hr : risingBelow lo m = true) (hk : k < lo) :
    cellAt k m = none := by
  induction m generalizing lo with
  | nil => rfl
  | cons c m ih =>
    obtain ⟨hj, hm⟩ := risingBelow_cons.1 hr
    rw [cellAt, if_neg (by omega), ih hm (by omega)]

/-- A rising list names an address once, so nothing is left there after its removal. -/
theorem cellAt_cellDrop_self {lo : Nat} (k : Nat) {m : List (Nat × α)} (hr : risingBelow lo m = true) :
    cellAt k (cellDrop k m) = none := by
  induction m generalizing lo with
  | nil => rfl
  | cons c m ih =>
    obtain ⟨-, hm⟩ := risingBelow_cons.1 hr
    unfold cellDrop
    split
    case isTrue hjk => exact cellAt_of_lt_rising hm (by omega)
    case isFalse hjk => rw [cellAt, if_neg hjk, ih hm]

theorem risingBelow_cellSet {lo k : Nat} (v : α) {m : List (Nat × α)} (hk : lo ≤ k) (hr : risingBelow lo m = true) :
    risingBelow lo (cellSet k v m) = true := by
  induction m generalizing lo with
  | nil => exact risingBelow_cons.2 ⟨hk, rfl⟩
  | cons c m ih =>
    obtain ⟨hj, hm⟩ := risingBelow_cons.1 hr
    unfold cellSet
    split
    case isTrue hkj => exact risingBelow_cons.2 ⟨hk, risingBelow_cons.2 ⟨hkj, hm⟩⟩
    case isFalse =>
      split
      case isTrue hkj => subst hkj; exact risingBelow_cons.2 ⟨hk, hm⟩
      case isFalse => exact risingBelow_cons.2 ⟨hj, ih (by omega) hm⟩

theorem risingBelow_cellDrop {lo : Nat} (k : Nat) {m : List (Nat × α)} (hr : risingBelow lo m = true) :
    risingBelow lo (cellDrop k m) = true := by
  induction m generalizing lo with
  | nil => rfl
  | cons c m ih =>
    obtain ⟨hj, hm⟩ := risingBelow_cons.1 hr
    unfold cellDrop
    split
    case isTrue => exact risingBelow_of_le (by omega) hm
    case isFalse => exact risingBelow_cons.2 ⟨hj, ih hm⟩

theorem mem_cellSet {k : Nat} {v : α} {m : List (Nat × α)} {x : Nat × α} (hx : x ∈ cellSet k v m) :
    x = (k, v) ∨ x ∈ m := by
  induction m with
  | nil => simpa [cellSet] using hx
  | cons c m ih => unfold cellSet at hx; grind

theorem mem_of_mem_cellDrop {k : Nat} {m : List (Nat × α)} {x : Nat × α} (hx : x ∈ cellDrop k m) : x ∈ m := by
  induction m with
  | nil => exact hx
  | cons c m ih => unfold cellDrop at hx; grind

end Cells

/-! ## The trigger table (R156) -/

theorem trigAction_loadable {code : Nat} (hcode : 6 ≤ code) (t : List (Nat × TrigAction)) :
    trigAction t code = cellAt code t := by
  obtain ⟨n, rfl⟩ := Nat.exists_eq_add_of_le' hcode
  rfl

/-- The action of a code depends on the table only through the code's own entry. -/
theorem trigAction_congr {k : Nat} {t u : List (Nat × TrigAction)} (hk : cellAt k t = cellAt k u) :
    trigAction t k = trigAction u k := by
  unfold trigAction; split <;> [rfl; rfl; rfl; rfl; rfl; rfl; exact hk]

theorem trigAction_cellSet_self {code : Nat} (hcode : 6 ≤ code) (x : TrigAction) (t : List (Nat × TrigAction)) :
    trigAction (cellSet code x t) code = some x := by
  rw [trigAction_loadable hcode, cellAt_cellSet, if_pos rfl]

theorem trigAction_cellSet_of_ne {code k : Nat} (hne : k ≠ code) (x : TrigAction) (t : List (Nat × TrigAction)) :
    trigAction (cellSet code x t) k = trigAction t k :=
  trigAction_congr (by rw [cellAt_cellSet, if_neg hne])

theorem trigAction_cellDrop_self {code : Nat} (hcode : 6 ≤ code) {t : List (Nat × TrigAction)} (ht : TableOk t) :
    trigAction (cellDrop code t) code = none := by
  rw [trigAction_loadable hcode, cellAt_cellDrop_self code ht.2]

theorem trigAction_cellDrop_of_ne {code k : Nat} (hne : k ≠ code) (t : List (Nat × TrigAction)) :
    trigAction (cellDrop code t) k = trigAction t k :=
  trigAction_congr (cellAt_cellDrop_of_ne hne t)

theorem tableOk_cellSet {code : Nat} {x : TrigAction} {t : List (Nat × TrigAction)} (hx : loadable (code, x) = true)
    (ht : TableOk t) : TableOk (cellSet code x t) := by
  obtain ⟨hall, hrise⟩ := ht
  refine ⟨List.all_eq_true.2 fun y hy => ?_, risingBelow_cellSet x (Nat.zero_le _) hrise⟩
  rcases mem_cellSet hy with rfl | hy
  · exact hx
  · exact List.all_eq_true.1 hall y hy

theorem tableOk_cellDrop (code : Nat) {t : List (Nat × TrigAction)} (ht : TableOk t) : TableOk (cellDrop code t) := by
  obtain ⟨hall, hrise⟩ := ht
  exact ⟨List.all_eq_true.2 fun y hy => List.all_eq_true.1 hall y (mem_of_mem_cellDrop hy), risingBelow_cellDrop code hrise⟩

/-! ## The checks of TRIGGER_LOAD and TRIGGER_CLEAR (R157) -/

/-- An action that a loadable entry may hold passes checks 2 and 3. -/
theorem action_checks_of_loadable {code : Nat} {a : LoadAction} {x : TrigAction} (ha : loadedAction a = some x)
    (hx : loadable (code, x) = true) : actionBad code a = false ∧ actionRange a = true := by
  cases a with
  | outputCue p adv =>
    obtain rfl : TrigAction.outputCue p adv = x := Option.some.inj ha
    simp only [loadable, within, Bool.and_eq_true, decide_eq_true_eq] at hx
    simp only [actionBad, actionRange, Bool.or_eq_false_iff, decide_eq_false_iff_not, decide_eq_true_eq]
    omega
  | ident slot on =>
    cases on with
    | none => cases ha
    | some on =>
      obtain rfl : TrigAction.ident slot on = x := Option.some.inj ha
      simp only [loadable, within, Bool.and_eq_true, decide_eq_true_eq] at hx
      simp only [actionBad, actionRange, Option.isNone_some, Bool.false_or, decide_eq_false_iff_not, decide_eq_true_eq]
      omega
  | notify =>
    obtain rfl : TrigAction.notify = x := Option.some.inj ha
    simp only [loadable, within, Bool.and_eq_true, decide_eq_true_eq] at hx
    simp only [actionBad, actionRange, decide_eq_false_iff_not, and_true]
    omega
  | other => cases ha

/-- A payload of no allowed length, a missing on-or-off field or another action fails check 2, whatever the code. -/
theorem actionBad_of_malformed {a : LoadAction} (code : Nat)
    (ha : (∃ p n, a = .outputCue p n ∧ (p.length = 0 ∨ 16 < p.length)) ∨ (∃ n, a = .ident n none) ∨ a = .other) :
    actionBad code a = true := by
  rcases ha with ⟨p, n, rfl, hlen | hlen⟩ | ⟨n, rfl⟩ | rfl
  · simp [actionBad, hlen]
  · simp [actionBad, hlen]
  · rfl
  · rfl

/-- A well-formed action with an advance above 250 or a slot above 15 passes check 2 and fails check 3. -/
theorem action_checks_of_out_of_range {code : Nat} {a : LoadAction} (hcode : code ≤ 255)
    (ha : (∃ p n, a = .outputCue p n ∧ 1 ≤ p.length ∧ p.length ≤ 16 ∧ 250 < n) ∨
      (∃ n o, a = .ident n (some o) ∧ 15 < n)) : actionBad code a = false ∧ actionRange a = false := by
  rcases ha with ⟨p, n, rfl, hlo, hhi, hn⟩ | ⟨n, o, rfl, hn⟩
  · simp only [actionBad, actionRange, Bool.or_eq_false_iff, decide_eq_false_iff_not]
    omega
  · simp only [actionBad, actionRange, Option.isNone_some, Bool.false_or, decide_eq_false_iff_not]
    omega

theorem triggerLoadOn_loaded {code : Nat} {a : LoadAction} {x : TrigAction} (hcode : 6 ≤ code)
    (ha : loadedAction a = some x) (hx : loadable (code, x) = true) (s : State) :
    triggerLoadOn code a s = ({ s with table := cellSet code x s.table }, .ok, .none) := by
  obtain ⟨hbad, hrange⟩ := action_checks_of_loadable ha hx
  simp [triggerLoadOn, Nat.not_le.2 hcode, hbad, hrange, ha]

theorem triggerLoadOn_fixed {code : Nat} (hcode : code ≤ 5) (a : LoadAction) (s : State) :
    triggerLoadOn code a s = deny .notPermitted s := by
  simp [triggerLoadOn, hcode]

theorem triggerLoadOn_malformed {code : Nat} {a : LoadAction} (hcode : 6 ≤ code) (hbad : actionBad code a = true) (s : State) :
    triggerLoadOn code a s = deny .malformed s := by
  simp [triggerLoadOn, Nat.not_le.2 hcode, hbad]

theorem triggerLoadOn_badValue {code : Nat} {a : LoadAction} (hcode : 6 ≤ code) (hbad : actionBad code a = false)
    (hrange : actionRange a = false) (s : State) : triggerLoadOn code a s = deny .badValue s := by
  simp [triggerLoadOn, Nat.not_le.2 hcode, hbad, hrange]

theorem triggerClearOn_cleared {code : Nat} {s : State} (hcode : 6 ≤ code) (hfull : (trigAction s.table code).isSome = true) :
    triggerClearOn code s = ({ s with table := cellDrop code s.table }, .ok, .none) := by
  rw [trigAction_loadable hcode] at hfull
  obtain ⟨x, hx⟩ := Option.isSome_iff_exists.1 hfull
  simp [triggerClearOn, Nat.not_le.2 hcode, hx]

theorem triggerClearOn_fixed {code : Nat} (hcode : code ≤ 5) (s : State) : triggerClearOn code s = deny .notPermitted s := by
  simp [triggerClearOn, hcode]

theorem triggerClearOn_empty {code : Nat} {s : State} (hcode : 6 ≤ code) (hempty : trigAction s.table code = none) :
    triggerClearOn code s = deny .notFound s := by
  rw [trigAction_loadable hcode] at hempty
  simp [triggerClearOn, Nat.not_le.2 hcode, hempty]

/-! ## The two requests as commands -/

theorem exec_triggerLoad (f : CtlFlow) (h : Head) (code : Nat) (a : LoadAction) (s : State) :
    exec (.triggerLoad f h code a) s =
      .next (takeRequest f h (.triggerLoad code a) (answered f h (.triggerLoad code a) (triggerLoadOn code a)) s) := rfl

theorem exec_triggerClear (f : CtlFlow) (h : Head) (code : Nat) (s : State) :
    exec (.triggerClear f h code) s =
      .next (takeRequest f h (.triggerClear code) (answered f h (.triggerClear code) (triggerClearOn code)) s) := rfl

section Turns

variable {f : CtlFlow} {h : Head} {b : ReqBody} {s : State} {op : State → State × Answer}

/-- A request that is refused leaves its queue, and its refusal is all that is sent. -/
theorem answered_turn_denied {st : Status} (ht : Turn f h b s) (hop : op (afterTurn f s) = deny st (afterTurn f s)) :
    takeRequest f h b (answered f h b op) s =
      { afterTurn f s with sent := s.sent ++ replyPackets s f h b (st, .none) } := by
  obtain ⟨-, hports, hsent⟩ := afterTurn_kept f s
  rw [answered_turn ht (by simp [hop, deny, hports]), hop]
  simp [deny, hsent]

/-- A request that writes the trigger table changes nothing else, and is answered OK. -/
theorem answered_turn_table {tb : List (Nat × TrigAction)} (ht : Turn f h b s)
    (hop : op (afterTurn f s) = ({ afterTurn f s with table := tb }, .ok, .none)) :
    takeRequest f h b (answered f h b op) s =
      { afterTurn f s with table := tb, sent := s.sent ++ replyPackets s f h b (.ok, .none) } := by
  obtain ⟨-, hports, hsent⟩ := afterTurn_kept f s
  rw [answered_turn ht (by simp [hop, hports]), hop]
  simp [hsent]

end Turns

theorem afterTurn_table (f : CtlFlow) (s : State) : (afterTurn f s).table = s.table := State.setInbound_table ..

/-! ## The statement -/

/-- Settles O48: the two requests store into and remove from a rising sparse store, and every refusal is the first check of
R157 that fails. -/
theorem triggerEntriesAreLoadedAndCleared : Obligations.TriggerEntriesAreLoadedAndCleared := by
  unfold Obligations.TriggerEntriesAreLoadedAndCleared
  refine ⟨fun f h code a b s hb ht => ?load, fun f h code s ht htable => ?clear⟩
  case load =>
    subst hb
    refine ⟨fun x hcode _ ha hx => ⟨cellSet code x s.table, ?_, trigAction_cellSet_self hcode x _,
      fun k hk => trigAction_cellSet_of_ne hk x _, tableOk_cellSet hx⟩, fun st hst => ?_⟩
    · rw [exec_triggerLoad, answered_turn_table ht (triggerLoadOn_loaded hcode ha hx _), afterTurn_table]
    · rw [exec_triggerLoad]
      rcases hst with ⟨hcode, rfl⟩ | ⟨hcode, rfl, ha⟩ | ⟨hcode, hbyte, rfl, ha⟩
      · rw [answered_turn_denied ht (triggerLoadOn_fixed hcode a _)]
      · rw [answered_turn_denied ht (triggerLoadOn_malformed hcode (actionBad_of_malformed code ha) _)]
      · obtain ⟨hbad, hrange⟩ := action_checks_of_out_of_range hbyte ha
        rw [answered_turn_denied ht (triggerLoadOn_badValue hcode hbad hrange _)]
  case clear =>
    refine ⟨fun hcode hfull => ⟨cellDrop code s.table, ?_, trigAction_cellDrop_self hcode htable,
      fun k hk => trigAction_cellDrop_of_ne hk _, tableOk_cellDrop code htable⟩, fun hrefused => ?_⟩
    · rw [← afterTurn_table f s] at hfull
      rw [exec_triggerClear, answered_turn_table ht (triggerClearOn_cleared hcode hfull), afterTurn_table]
    · rw [exec_triggerClear]
      split
      case isTrue hcode => rw [answered_turn_denied ht (triggerClearOn_fixed hcode _)]
      case isFalse hcode =>
        have hempty := hrefused.resolve_left hcode
        rw [← afterTurn_table f s] at hempty
        rw [answered_turn_denied ht (triggerClearOn_empty (by omega) hempty)]

end Sys2Proof.Machine

/-! PROOFS. What every command has in common: it answers a next state, leaves the queue alone and takes back nothing that has been
sent; without power only POWER_ON has an effect; a step runs the command at the front of the queue. -/

namespace Sys2Proof.Machine

open Sys2Proof

/-! ## Every command answers (log entries 9 and 34) -/

/-- A request that `answered` takes is calm when its operation is. -/
theorem taken_calm {f : CtlFlow} {h : Head} {b : ReqBody} {op : State → State × Answer} (hop : ∀ s, Calm s (op s).1)
    (s : State) : Calm s (takeRequest f h b (answered f h b op) s) :=
  takeRequest_calm (answered_calm hop) s

/-- A request on one channel is calm, whatever its operation does to the channel. -/
theorem taken_onChannel_calm {f : CtlFlow} {h : Head} {b : ReqBody} (op : Env → W → W × Answer) (s : State) :
    Calm s (takeRequest f h b (answered f h b (onChannel h op)) s) :=
  taken_calm (onChannel_calm h op) s

theorem liveRunCh_calm (c : Ch) (op : Env → W → W) (s : State) : Calm s (live (runCh c op) s) :=
  live_calm (runCh_calm c op s)

theorem exec_calm (i : Instr) (s : State) : ∃ t, exec i s = .next t ∧ Calm s t := by
  cases i with
  | powerOn => exact ⟨_, rfl, partReset_calm (fun _ => false) { s with powered := true }⟩
  | resetPin => exact ⟨_, rfl, live_calm (partReset_calm _ s)⟩
  | timeBaseStart now pulse => exact ⟨_, rfl, live_calm (timeBaseStart_calm now pulse s)⟩
  | refreshNeededResetRelease => exact ⟨_, rfl, live_calm (releaseReset_calm s)⟩
  | configDefaultedNotice => exact ⟨_, rfl, live_calm (releaseDefaulted_calm s)⟩
  | linkUp p => exact ⟨_, rfl, live_calm (linkUp_calm p s)⟩
  | linkDown p => exact ⟨_, rfl, live_calm (linkDown_calm p s)⟩
  | frameDrop e control rest => exact ⟨_, rfl, live_calm (dropped_calm s e _)⟩
  | frameHeader e bytes => exact ⟨_, rfl, live_calm (essence_calm s e 0 _)⟩
  | video e bytes => exact ⟨_, rfl, live_calm (essence_calm s e 1 _)⟩
  | audio e bytes => exact ⟨_, rfl, live_calm (essence_calm s e 2 _)⟩
  | controlRequestPacket e r => exact ⟨_, rfl, live_calm (requestArrives_calm _ _ _ s)⟩
  | periodBoundary now pulse => exact ⟨_, rfl, live_calm (periodBoundary_calm now pulse s)⟩
  | advisoryRaised c attr => exact ⟨_, rfl, liveRunCh_calm c _ s⟩
  | monitorSuspect c => exact ⟨_, rfl, liveRunCh_calm c _ s⟩
  | monitorFailed c => exact ⟨_, rfl, liveRunCh_calm c _ s⟩
  | monitorHealthy c => exact ⟨_, rfl, liveRunCh_calm c _ s⟩
  | siteBeatExpiry => exact ⟨_, rfl, live_calm (siteBeatExpiry_calm s)⟩
  | refreshTimeout c => exact ⟨_, rfl, liveRunCh_calm c _ s⟩
  | referenceLoss now => exact ⟨_, rfl, live_calm (referenceLoss_calm now s)⟩
  | relockPulse now => exact ⟨_, rfl, live_calm (relockPulse_calm now s)⟩
  | referenceRelock now label => exact ⟨_, rfl, live_calm (referenceRelock_calm now label s)⟩
  | relockTimeout now => exact ⟨_, rfl, live_calm (relockTimeout_calm now s)⟩
  | digestScanEnd c => exact ⟨_, rfl, liveRunCh_calm c _ s⟩
  | saveComplete good => exact ⟨_, rfl, live_calm (saveComplete_calm good s)⟩
  | joiningStart c => exact ⟨_, rfl, liveRunCh_calm c _ s⟩
  | joiningTarget c => exact ⟨_, rfl, liveRunCh_calm c _ s⟩
  | handbackTarget c => exact ⟨_, rfl, liveRunCh_calm c _ s⟩
  | breakStart c => exact ⟨_, rfl, liveRunCh_calm c _ s⟩
  | breakExpiry c => exact ⟨_, rfl, liveRunCh_calm c _ s⟩
  | breakEnd c => exact ⟨_, rfl, liveRunCh_calm c _ s⟩
  | cueWindow c => exact ⟨_, rfl, liveRunCh_calm c _ s⟩
  | lateCue c => exact ⟨_, rfl, liveRunCh_calm c _ s⟩
  | itemLost c => exact ⟨_, rfl, liveRunCh_calm c _ s⟩
  | playerRoll c p => exact ⟨_, rfl, liveRunCh_calm c _ s⟩
  | playerEnd c p => exact ⟨_, rfl, liveRunCh_calm c _ s⟩
  | stopFrame c p => exact ⟨_, rfl, liveRunCh_calm c _ s⟩
  | replyTimeout c p => exact ⟨_, rfl, liveRunCh_calm c _ s⟩
  | stall c p => exact ⟨_, rfl, liveRunCh_calm c _ s⟩
  | probe c p => exact ⟨_, rfl, liveRunCh_calm c _ s⟩
  | cued e control => exact ⟨_, rfl, live_calm (playerReply_calm _ _ s)⟩
  | cueFailed e control reason => exact ⟨_, rfl, live_calm (playerReply_calm _ _ s)⟩
  | stopped e control => exact ⟨_, rfl, live_calm (playerReply_calm _ _ s)⟩
  | answer e control handle found length => exact ⟨_, rfl, live_calm (playerReply_calm _ _ s)⟩
  | sweepQuery c => exact ⟨_, rfl, liveRunCh_calm c _ s⟩
  | shadowStart c => exact ⟨_, rfl, liveRunCh_calm c _ s⟩
  | shadowRejoin c => exact ⟨_, rfl, liveRunCh_calm c _ s⟩
  | triggerAct c => exact ⟨_, rfl, liveRunCh_calm c _ s⟩
  | asRun => exact ⟨_, rfl, live_calm (asRunTest_calm _ s)⟩
  | mirrorBatch f h seq ops => exact ⟨_, rfl, taken_onChannel_calm _ s⟩
  | refreshOpen f h seq => exact ⟨_, rfl, taken_onChannel_calm _ s⟩
  | refreshClose f h seq count sum => exact ⟨_, rfl, taken_onChannel_calm _ s⟩
  | digestCheck f h key count sum => exact ⟨_, rfl, takeRequest_calm (digestCheckAct_calm f h key count sum) s⟩
  | siteBeat f h day label => exact ⟨_, rfl, taken_calm (siteBeatOn_calm day label) s⟩
  | handover f h day label => exact ⟨_, rfl, taken_onChannel_calm _ s⟩
  | handbackAsk f h target => exact ⟨_, rfl, taken_onChannel_calm _ s⟩
  | setParam f h id value => exact ⟨_, rfl, taken_calm (setParamOn_calm h id value) s⟩
  | getParam f h id => exact ⟨_, rfl, taken_calm (fun s => by rw [getParamOn_calm]; exact Calm.refl s) s⟩
  | flowLoad f h tag port role channel => exact ⟨_, rfl, taken_calm (flowLoadOn_calm tag port role channel) s⟩
  | flowClear f h tag => exact ⟨_, rfl, taken_calm (flowClearOn_calm tag) s⟩
  | triggerLoad f h code action => exact ⟨_, rfl, taken_calm (fun s => have ⟨hcalm, _⟩ := simple_calm s; hcalm code action) s⟩
  | triggerClear f h code => exact ⟨_, rfl, taken_calm (fun s => have ⟨_, hcalm, _⟩ := simple_calm s; hcalm code) s⟩
  | graphicBegin f h slot width height => exact ⟨_, rfl, taken_calm (fun s => have ⟨_, _, hcalm, _⟩ := simple_calm s; hcalm slot width height) s⟩
  | graphicSegment f h slot offset data => exact ⟨_, rfl, taken_calm (fun s => have ⟨_, _, _, hcalm, _⟩ := simple_calm s; hcalm slot offset _) s⟩
  | graphicEnd f h slot => exact ⟨_, rfl, taken_calm (fun s => have ⟨_, _, _, _, hcalm, _⟩ := simple_calm s; hcalm slot) s⟩
  | windowSet f h enabled slot x y alpha blink => exact ⟨_, rfl, taken_onChannel_calm _ s⟩
  | takeover f h target force => exact ⟨_, rfl, taken_onChannel_calm _ s⟩
  | handback f h target force => exact ⟨_, rfl, taken_onChannel_calm _ s⟩
  | breakIn f h handle inPoint duration mode => exact ⟨_, rfl, taken_onChannel_calm _ s⟩
  | resume f h mode => exact ⟨_, rfl, taken_onChannel_calm _ s⟩
  | queryChannel f h => exact ⟨_, rfl, taken_calm (fun s => have ⟨_, _, _, _, _, hcalm, _⟩ := simple_calm s; hcalm h) s⟩
  | queryEvents f h key count => exact ⟨_, rfl, taken_calm (fun s => have ⟨_, _, _, _, _, _, hcalm, _⟩ := simple_calm s; hcalm h key count) s⟩
  | queryMonitor f h => exact ⟨_, rfl, taken_calm (fun s => have ⟨_, _, _, _, _, _, _, hcalm, _⟩ := simple_calm s; hcalm h) s⟩
  | clearCounters f h => exact ⟨_, rfl, taken_calm (clearCountersOn_calm h) s⟩
  | logRead f h number count => exact ⟨_, rfl, taken_calm (fun s => have ⟨_, _, _, _, _, _, _, _, hcalm, _⟩ := simple_calm s; hcalm number count) s⟩
  | logFlush f h => exact ⟨_, rfl, taken_calm logFlushOn_calm s⟩
  | saveConfig f h => exact ⟨_, rfl, taken_calm (fun s => have ⟨_, _, _, _, _, _, _, _, _, hcalm⟩ := simple_calm s; hcalm h) s⟩
  | timeSet f h day label => exact ⟨_, rfl, taken_calm (timeSetOn_calm day label) s⟩
  | resetPart f h =>
    exact ⟨_, rfl, takeRequest_calm (fun a s => (reply_calm s a f h .resetPart (.ok, .none)).trans (softReset_calm _)) s⟩
  | resetChannel f h n => exact ⟨_, rfl, taken_calm (resetChannelReq_calm n) s⟩
  | partStatus f h => exact ⟨_, rfl, taken_calm Calm.refl s⟩
  | powerLoss => exact ⟨_, rfl, live_calm ((abandonSave_calm s).trans (Calm.of_eq rfl rfl))⟩
  | unknownRequestCode f h code => exact ⟨_, rfl, taken_calm Calm.refl s⟩

/-- Settles O2: each command is built of operations that keep the queue and only append to what has been sent. -/
theorem everyCommandAnswersNext : Obligations.EveryCommandAnswersNext := by
  unfold Obligations.EveryCommandAnswersNext
  intro i s
  obtain ⟨t, hnext, hpending, hsent⟩ := exec_calm i s
  exact ⟨t, hnext, hpending, hsent⟩

/-! ## Without power (log entry 14) -/

theorem live_off {f : State → State} {s : State} (hoff : s.powered = false) : live f s = s := by simp [live, hoff]

theorem takeRequest_off {f : CtlFlow} {h : Head} {b : ReqBody} {act : Option (Port × Nat) → State → State} {s : State}
    (hoff : s.powered = false) : takeRequest f h b act s = s := by simp [takeRequest, hoff]

/-- A command other than POWER_ON is a request or an operation of the powered part. -/
theorem exec_live_or_request (i : Instr) (s : State) (hi : i ≠ .powerOn) :
    (∃ f, exec i s = .next (live f s)) ∨ ∃ f h b act, exec i s = .next (takeRequest f h b act s) := by
  cases i
  case powerOn => exact absurd rfl hi
  case mirrorBatch | refreshOpen | refreshClose | digestCheck | siteBeat | handover | handbackAsk | setParam | getParam
      | flowLoad | flowClear | triggerLoad | triggerClear | graphicBegin | graphicSegment | graphicEnd | windowSet | takeover
      | handback | breakIn | resume | queryChannel | queryEvents | queryMonitor | clearCounters | logRead | logFlush | saveConfig
      | timeSet | resetPart | resetChannel | partStatus | unknownRequestCode => exact .inr ⟨_, _, _, _, rfl⟩
  all_goals exact .inl ⟨_, rfl⟩

/-- Settles O3: requests and the operations of the part all ask for power first. -/
theorem unpoweredCommandsHaveNoEffect : Obligations.UnpoweredCommandsHaveNoEffect := by
  unfold Obligations.UnpoweredCommandsHaveNoEffect
  intro i s hoff hi
  rcases exec_live_or_request i s hi with ⟨f, hf⟩ | ⟨f, h, b, act, hf⟩
  · rw [hf, live_off hoff]
  · rw [hf, takeRequest_off hoff]

/-! ## A step (log entry 1) -/

theorem step_idle {s : State} (h : s.pending = []) : step s = .next s := by simp [step, h]

theorem step_front {c : Instr} {rest : List Instr} {s : State} (h : s.pending = c :: rest) :
    step s = exec c { s with pending := rest } := by simp [step, h]

/-- Settles O1, by the two cases of the queue. -/
theorem stepRunsTheFrontCommand : Obligations.StepRunsTheFrontCommand := by
  unfold Obligations.StepRunsTheFrontCommand
  exact ⟨fun _ _ _ h => step_front h, fun _ h => step_idle h⟩

end Sys2Proof.Machine

/-! PROOFS. The channel modes (R127, R143, R148, R150, R153): every operation of a channel keeps the mode and what goes with it. Most
operations leave the Channel Controller's rule alone (Laws/Kept.lean); those that move it are the transitions below. -/

namespace Sys2Proof.Machine

open Sys2Proof

/-! ## The transitions of the Channel Controller -/

theorem modeOk_congr {v w : W} (h : v.rule = w.rule) : ModeOk v.ch.ctl ↔ ModeOk w.ch.ctl := by
  obtain ⟨hmode, hswitch, hctx, -, hbreak, hresume, hexpiry⟩ := rule_ctl h
  simp only [ModeOk, hmode, hswitch, hctx, hbreak, hresume, hexpiry]

section Transitions

variable {c : Ctl}

theorem modeOk_monitor (m : MonState) (h : ModeOk c) : ModeOk { c with monitor := m } := h

/-- A waiting or a starting TAKEOVER switch is recorded in MIRROR (R127, R137). -/
theorem modeOk_switch (h : ModeOk c) (hm : c.mode = .mirror) {s : Switch} (hs : s.kind = .takeover) :
    ModeOk { c with switch := some s } := by
  simp_all [ModeOk]

theorem modeOk_toJoining (h : ModeOk c) (hm : c.mode = .mirror) {s : Switch} (hs : s.kind = .takeover) :
    ModeOk { c with switch := some s, mode := .joining } := by
  simp_all [ModeOk]

/-- The switch of a failure join keeps its kind (R133). -/
theorem modeOk_retarget (h : ModeOk c) {s x : Switch} (hs : c.switch = some s) (hx : x.kind = s.kind) :
    ModeOk { c with switch := some x } := by
  simp_all [ModeOk]

/-- In JOINING or RETURNING a target or a cancellation leads to TAKEOVER (R138, R144). -/
theorem modeOk_toTakeover (h : ModeOk c) (hm : c.mode = .joining ∨ c.mode = .returning) :
    ModeOk { c with switch := none, mode := .takeover } := by
  rcases hm with hm | hm <;> simp_all [ModeOk]

theorem modeOk_toMirror (h : ModeOk c) (hm : c.mode = .returning) : ModeOk { c with switch := none, mode := .mirror } := by
  simp_all [ModeOk]

theorem modeOk_toReturning (h : ModeOk c) (hm : c.mode = .takeover) {s : Switch} (hs : s.kind = .handback) :
    ModeOk { c with switch := some s, mode := .returning, pendingBreak := none } := by
  simp_all [ModeOk]

theorem modeOk_pendingBreak (h : ModeOk c) (hm : c.mode = .takeover) (b : PendingBreak) :
    ModeOk { c with pendingBreak := some b } := by
  simp_all [ModeOk]

theorem switch_none_of_takeover (h : ModeOk c) (hm : c.mode = .takeover ∨ c.mode = .breakIn) : c.switch = none := by
  obtain ⟨-, -, -, -, -, -, hswitch⟩ := h
  rw [Option.eq_none_iff_forall_ne_some]
  intro s hs
  rcases hm with hm | hm <;> simpa [hm] using hswitch s hs

theorem modeOk_toBreakIn (h : ModeOk c) (hm : c.mode = .takeover) (x : Saved) (e : Option Frame) :
    ModeOk { c with ctx := some x, expiry := e, pendingBreak := none, mode := .breakIn } := by
  have hswitch := switch_none_of_takeover h (.inl hm)
  simp_all [ModeOk]

theorem modeOk_resume (h : ModeOk c) (hm : c.mode = .breakIn) (x : Resume) : ModeOk { c with resume := some x } := by
  simp_all [ModeOk]

theorem modeOk_fromBreakIn (h : ModeOk c) (hm : c.mode = .breakIn) :
    ModeOk { c with ctx := none, resume := none, expiry := none, mode := .takeover } := by
  have hswitch := switch_none_of_takeover h (.inr hm)
  simp_all [ModeOk]

theorem modeOk_reset : ModeOk Ctl.reset := by simp [ModeOk, Ctl.reset]

end Transitions

/-! ## The operations that move a channel's mode -/

section Operations

variable {env : Env} {w : W}

theorem startJoining_modeOk {s : Switch} (least : Frame) (h : ModeOk w.ch.ctl) (hm : w.ch.ctl.mode = .mirror)
    (hs : s.kind = .takeover) : ModeOk (startJoining env s least w).ch.ctl :=
  (modeOk_congr (startJoining_rule env s least w)).2 (modeOk_toJoining h hm hs)

/-- A switch that is due waits in MIRROR, so it is a TAKEOVER switch. -/
theorem joiningDue_some {c : Chan} {s : Switch} (h : joiningDue env c = some s) : c.ctl.mode = .mirror ∧ c.ctl.switch = some s := by
  unfold joiningDue at h
  split at h
  case h_1 hmode hswitch =>
    split at h
    · exact ⟨hmode, hswitch.trans h⟩
    · cases h
  case h_2 => cases h

theorem kind_of_mirror {c : Ctl} {s : Switch} (h : ModeOk c) (hm : c.mode = .mirror) (hs : c.switch = some s) :
    s.kind = .takeover := by
  obtain ⟨-, -, -, -, -, -, hswitch⟩ := h
  simpa [hm] using hswitch s hs

theorem joiningStart_modeOk (h : ModeOk w.ch.ctl) : ModeOk (joiningStart env w).ch.ctl := by
  cases hdue : joiningDue env w.ch with
  | none => rwa [joiningStart_idle env w hdue]
  | some s =>
    obtain ⟨hm, hs⟩ := joiningDue_some hdue
    have hkind : s.kind = .takeover := kind_of_mirror h hm hs
    exact (modeOk_congr (joiningStart_due env w s hdue)).2 (modeOk_toJoining h hm (by exact hkind))

theorem recordSwitch_modeOk {s : Switch} (h : ModeOk w.ch.ctl) (hm : w.mode = .mirror) (hs : s.kind = .takeover) :
    ModeOk (recordSwitch env s w).ch.ctl :=
  joiningStart_modeOk (modeOk_switch h hm hs)

theorem autoTakeover_modeOk (h : ModeOk w.ch.ctl) (hm : w.mode = .mirror) : ModeOk (autoTakeover env w).ch.ctl :=
  (modeOk_congr (autoTakeover_rule env w)).2 (modeOk_toJoining h hm rfl)

theorem failureJoin_modeOk (h : ModeOk w.ch.ctl) : ModeOk (failureJoin env w).ch.ctl := by
  cases hs : w.ch.ctl.switch with
  | none => simpa [failureJoin, hs] using h
  | some s =>
    obtain ⟨x, hrule, hkind, -⟩ := failureJoin_rule env w s hs
    exact (modeOk_congr hrule).2 (modeOk_retarget h hs hkind)

theorem cancelHandback_modeOk (why : Detail) (h : ModeOk w.ch.ctl) (hm : w.mode = .returning) :
    ModeOk (cancelHandback env why w).ch.ctl := by
  cases hs : w.ch.ctl.switch with
  | none => simpa [cancelHandback, hs] using h
  | some s => exact (modeOk_congr (cancelHandback_rule env why w s hs)).2 (modeOk_toTakeover h (.inr hm))

theorem monitorChanged_modeOk (before after : MonState) (h : ModeOk w.ch.ctl) :
    ModeOk (monitorChanged env before after w).ch.ctl := by
  have hmon : ModeOk (w.modCtl fun c => { c with monitor := after }).ch.ctl := modeOk_monitor after h
  unfold monitorChanged
  dsimp only
  split
  case h_1 hm => split <;> [exact cancelHandback_modeOk _ hmon hm; exact hmon]
  case h_2 hm => split <;> [exact autoTakeover_modeOk hmon hm; exact hmon]
  case h_3 => split <;> [exact failureJoin_modeOk hmon; exact hmon]
  case h_4 => exact hmon

theorem changeMon_modeOk (after : MonState) (h : ModeOk w.ch.ctl) : ModeOk (changeMon env after w).ch.ctl :=
  monitorChanged_modeOk _ after h

theorem monitorFailed_modeOk (h : ModeOk w.ch.ctl) : ModeOk (monitorFailed env w).ch.ctl := by
  unfold monitorFailed; split <;> [exact changeMon_modeOk _ h; exact h]

theorem monitorSuspect_modeOk (h : ModeOk w.ch.ctl) : ModeOk (monitorSuspect env w).ch.ctl := by
  unfold monitorSuspect; split <;> [exact monitorFailed_modeOk (changeMon_modeOk _ h); exact h]

theorem monitorHealthy_modeOk (h : ModeOk w.ch.ctl) : ModeOk (monitorHealthy env w).ch.ctl := by
  unfold monitorHealthy; split <;> [exact changeMon_modeOk _ h; exact h]

theorem stateTests_modeOk (h : ModeOk w.ch.ctl) : ModeOk (stateTests env w).ch.ctl := by
  unfold stateTests
  split
  case h_1 => split <;> [exact monitorSuspect_modeOk (changeMon_modeOk _ h); exact h]
  case h_2 => exact monitorSuspect_modeOk h
  case h_3 => split <;> [exact changeMon_modeOk _ h; exact monitorFailed_modeOk h]
  case h_4 => split <;> [exact h; exact monitorHealthy_modeOk (changeMon_modeOk _ h)]
  case h_5 => repeat' split
              · exact monitorFailed_modeOk h
              · exact h
              · exact monitorHealthy_modeOk h

@[simp] theorem advisoryRaise_rule (env : Env) (i : Fin 8) (w : W) : (advisoryRaise env i w).rule = w.rule := by
  unfold advisoryRaise; split <;> rfl

@[simp] theorem advisoryClear_rule (env : Env) (i : Fin 8) (w : W) : (advisoryClear env i w).rule = w.rule := by
  unfold advisoryClear; split <;> rfl

theorem evaluate_modeOk (bad : Bool) (h : ModeOk w.ch.ctl) : ModeOk (evaluate env bad w).ch.ctl := by
  unfold evaluate
  dsimp only
  refine stateTests_modeOk ((modeOk_congr ?_).2 h)
  exact foldl_keeps W.rule _ (fun w i => (advisoryClear_rule env i _).trans (advisoryRaise_rule env i w)) _ (countPeriod env bad w)

theorem targetDue_mode {m : Mode} {c : Chan} {s : Switch} (h : targetDue env m c = some s) : c.ctl.mode = m := by
  unfold targetDue at h
  split at h
  · split at h
    · rename_i hc; exact hc.1
    · cases h
  · cases h

theorem joiningTarget_modeOk (h : ModeOk w.ch.ctl) : ModeOk (joiningTarget env w).ch.ctl := by
  cases hdue : targetDue env .joining w.ch with
  | none => simpa [joiningTarget, hdue] using h
  | some s =>
    exact (modeOk_congr (joiningTarget_due env w s hdue)).2 (modeOk_toTakeover h (.inl (targetDue_mode hdue)))

theorem handbackTarget_modeOk (h : ModeOk w.ch.ctl) : ModeOk (handbackTarget env w).ch.ctl := by
  cases hdue : targetDue env .returning w.ch with
  | none => simpa [handbackTarget, hdue] using h
  | some s => exact (modeOk_congr (handbackTarget_due env w s hdue)).2 (modeOk_toMirror h (targetDue_mode hdue))

theorem breakStart_modeOk (h : ModeOk w.ch.ctl) : ModeOk (breakStart env w).ch.ctl := by
  by_cases hdue : ∃ b, w.ch.ctl.pendingBreak = some b ∧ w.ch.ctl.mode = .takeover ∧ b.b ≤ env.now
  case pos =>
    obtain ⟨b, hb, hm, hnow⟩ := hdue
    exact (modeOk_congr (breakStart_due env w b hb hm hnow)).2 (modeOk_toBreakIn h hm _ _)
  case neg =>
    rwa [breakStart_idle env w fun b hb => ?_]
    by_contra hc
    push Not at hc
    exact hdue ⟨b, hb, hc.1, hc.2⟩

theorem beginResume_modeOk (cause : ResumeCause) (mode : ResumeMode) (r : Frame) (h : ModeOk w.ch.ctl)
    (hm : w.mode = .breakIn) : ModeOk (beginResume env cause mode r w).ch.ctl := by
  cases hc : w.ch.ctl.ctx with
  | none => simpa [beginResume, hc] using h
  | some x => exact (modeOk_congr (beginResume_rule env cause mode r w x hc)).2 (modeOk_resume h hm _)

theorem breakExpiry_modeOk (h : ModeOk w.ch.ctl) : ModeOk (breakExpiry env w).ch.ctl := by
  rcases breakExpiry_cases env w with hsame | ⟨e, x, hm, -, -, hrule⟩
  · rwa [hsame]
  · exact (modeOk_congr hrule).2 (modeOk_resume h hm _)

theorem breakEnd_modeOk (h : ModeOk w.ch.ctl) : ModeOk (breakEnd env w).ch.ctl := by
  by_cases hdue : ∃ x, w.ch.ctl.mode = .breakIn ∧ w.ch.ctl.resume = some x ∧ x.r ≤ env.now
  case pos =>
    obtain ⟨x, hm, hr, hnow⟩ := hdue
    exact (modeOk_congr (breakEnd_due env w x hm hr hnow)).2 (modeOk_fromBreakIn h hm)
  case neg =>
    rwa [breakEnd_idle env w fun x hm hr => ?_]
    by_contra hc
    exact hdue ⟨x, hm, hr, not_lt.1 hc⟩

/-! ## The requests that move a channel's mode -/

theorem startReturning_modeOk {s : Switch} (h : ModeOk w.ch.ctl) (hm : w.mode = .takeover) (hs : s.kind = .handback) :
    ModeOk (startReturning env s w).ch.ctl :=
  (modeOk_congr (startReturning_rule env s w)).2 (modeOk_toReturning h hm hs)

theorem handbackOn_modeOk (cause : SwitchCause) (target : Target) (force : Bool) (h : ModeOk w.ch.ctl) :
    ModeOk (handbackOn cause target force env w).1.ch.ctl := by
  unfold handbackOn
  split <;> [exact h; skip]
  split <;> [exact h; rename_i hm]
  split <;> [exact h; skip]
  split <;> [exact h; exact startReturning_modeOk h (not_not.1 hm) rfl]

theorem handbackAskOn_modeOk (target : Target) (h : ModeOk w.ch.ctl) : ModeOk (handbackAskOn target env w).1.ch.ctl := by
  unfold handbackAskOn
  split <;> [exact h; exact handbackOn_modeOk _ _ _ h]

theorem takeoverOn_modeOk (target : Target) (force : Bool) (h : ModeOk w.ch.ctl) :
    ModeOk (takeoverOn target force env w).1.ch.ctl := by
  unfold takeoverOn
  split <;> [exact h; skip]
  split
  case h_1 hm => split <;> [exact h; exact cancelHandback_modeOk _ h hm]
  case h_2 hm => split <;> [exact h; exact recordSwitch_modeOk h hm rfl]
  case h_3 => exact h

theorem handoverOn_modeOk (day : Nat) (l : Label) (h : ModeOk w.ch.ctl) : ModeOk (handoverOn day l env w).1.ch.ctl := by
  unfold handoverOn
  split <;> [exact h; skip]
  split <;> [exact h; rename_i hm]
  split <;> [exact h; skip]
  dsimp only
  split <;> [exact h; exact recordSwitch_modeOk h (not_not.1 hm) rfl]

theorem breakInOn_modeOk (handle inPoint : Nat) (duration : Option Nat) (mode : Option BreakMode) (h : ModeOk w.ch.ctl) :
    ModeOk (breakInOn handle inPoint duration mode env w).1.ch.ctl := by
  unfold breakInOn
  split <;> [exact h; skip]
  split <;> [exact h; skip]
  dsimp only
  split
  case h_1 => exact h
  case h_2 hm =>
    split
    · exact h
    · exact (modeOk_congr (acceptBreak_rule ..)).2 (modeOk_pendingBreak h hm _)
  case h_3 => exact h

theorem resumeOn_modeOk (mode : Option ResumeReq) (h : ModeOk w.ch.ctl) : ModeOk (resumeOn mode env w).1.ch.ctl := by
  unfold resumeOn
  split <;> [exact h; skip]
  split
  case h_1 hm _ _ => exact beginResume_modeOk _ _ _ h hm
  case h_2 => exact h

/-! ## Whole stages -/

theorem resetChannelOn_modeOk : ModeOk (resetChannelOn env w).ch.ctl := by
  have hctl : (resetChannelOn env w).rule = (resetControl env (resetPlayers env w)).rule := by
    unfold resetChannelOn resetRest resetMonitor resetMirror resetStore
    dsimp only
    repeat' split
    all_goals rfl
  refine (modeOk_congr hctl).2 ?_
  unfold resetControl
  dsimp only
  split <;> exact modeOk_reset

@[simp] theorem anchorFromStamp_rule (env : Env) (w : W) : (anchorFromStamp env w).rule = w.rule := by
  unfold anchorFromStamp; split <;> simp

@[simp] theorem takes_rule (env : Env) (w : W) : (takes env w).rule = w.rule := rfl

end Operations

end Sys2Proof.Machine

/-! PROOFS. The schedule store (R19 to R24, R28, R29, R38, R53 to R55): every operation of a channel keeps both generations in order, the
orphan alone with its lifecycle and its id, the digest pair of the REFRESH generation, and the pool's size. The work of the Sequencer
and the Trigger Unit only drops records (`W.Follows`, Laws/Stores.lean); the operations of a batch and the commit are dealt with here. -/

namespace Sys2Proof.Machine

open Sys2Proof

/-! ## Lists of records -/

theorem lookupId_some {id : Nat} {l : List Event} {o : Event} (h : lookupId id l = some o) : o ∈ l ∧ o.id = id :=
  ⟨List.mem_of_find?_eq_some h, by simpa using List.find?_some h⟩

theorem lookupId_none {id : Nat} {l : List Event} : lookupId id l = none ↔ ∀ x ∈ l, x.id ≠ id := by
  simp [lookupId]

theorem mem_removeId {id : Nat} {l : List Event} {x : Event} : x ∈ removeId id l ↔ x ∈ l ∧ x.id ≠ id := by
  simp [removeId]

theorem removeId_of_lookup_none {id : Nat} {l : List Event} (h : lookupId id l = none) : removeId id l = l :=
  List.filter_eq_self.2 fun x hx => by simpa using lookupId_none.1 h x hx

theorem insertByKey_perm (e : Event) (l : List Event) : (insertByKey e l).Perm (e :: l) := by
  induction l with
  | nil => exact List.Perm.refl _
  | cons x l ih =>
    unfold insertByKey
    split
    · exact List.Perm.refl _
    · exact (ih.cons x).trans (List.Perm.swap e x l)

/-- Taking the one record of an id out and putting it in front again. -/
theorem perm_cons_removeId {id : Nat} {l : List Event} {o : Event} (hl : (l.map (·.id)).Nodup) (h : lookupId id l = some o) :
    l.Perm (o :: removeId id l) := by
  induction l with
  | nil => simp [lookupId] at h
  | cons x l ih =>
    rw [List.map_cons, List.nodup_cons] at hl
    obtain ⟨hx, hnodup⟩ := hl
    by_cases hid : x.id = id
    · have hox : x = o := by simpa [lookupId, hid] using h
      have hrest : removeId id l = l :=
        List.filter_eq_self.2 fun y hy => by simpa using fun hc => hx (List.mem_map.2 ⟨y, hy, hc.trans hid.symm⟩)
      have : removeId id (x :: l) = l := by rw [removeId, List.filter_cons_of_neg (by simpa using hid)]; exact hrest
      rw [this, hox]
    · have hl' : lookupId id l = some o := by simpa [lookupId, hid] using h
      have : removeId id (x :: l) = x :: removeId id l := by rw [removeId, List.filter_cons_of_pos (by simpa using hid)]; rfl
      rw [this]
      exact ((ih hnodup hl').cons x).trans (List.Perm.swap o x _)

/-- A record goes in at the place its key gives it, in a list that the keys order. -/
theorem pairwise_insertByKey {R : Event → Event → Prop} {e : Event} {l : List Event} (hkeys : l.Pairwise fun x y => x.key < y.key)
    (hl : l.Pairwise R) (hne : ∀ x ∈ l, x.key ≠ e.key) (hbefore : ∀ x ∈ l, x.key < e.key → R x e)
    (hafter : ∀ x ∈ l, e.key < x.key → R e x) : (insertByKey e l).Pairwise R := by
  induction l with
  | nil => simp [insertByKey]
  | cons x l ih =>
    rw [List.pairwise_cons] at hkeys hl
    obtain ⟨hkx, hkl⟩ := hkeys
    obtain ⟨hx, hl⟩ := hl
    have hxe := hne x List.mem_cons_self
    unfold insertByKey
    split
    case isTrue hle =>
      refine List.pairwise_cons.2 ⟨fun y hy => hafter y hy ?_, List.pairwise_cons.2 ⟨hx, hl⟩⟩
      rcases List.mem_cons.1 hy with rfl | hy
      · omega
      · have := hkx y hy; omega
    case isFalse hle =>
      refine List.pairwise_cons.2 ⟨fun y hy => ?_, ?_⟩
      · rcases mem_insertByKey hy with rfl | hy
        · exact hbefore x List.mem_cons_self (by omega)
        · exact hx y hy
      · exact ih hkl hl (fun y hy => hne y (List.mem_cons_of_mem _ hy)) (fun y hy => hbefore y (List.mem_cons_of_mem _ hy))
          fun y hy => hafter y (List.mem_cons_of_mem _ hy)

theorem ordered_removeId {l : List Event} (id : Nat) (h : Ordered l) : Ordered (removeId id l) :=
  ordered_sublist (List.filter_sublist.map _) h

/-- A record of a new id and key, its FIXED start among the others as its key is, goes into an ordered generation (R20). -/
theorem ordered_insertByKey {e : Event} {l : List Event} (h : Ordered l) (hid : ∀ x ∈ l, x.id ≠ e.id)
    (hkey : ∀ x ∈ l, x.key ≠ e.key)
    (hfixed : ∀ x ∈ l, ∀ a b, x.fixed = some a → e.fixed = some b → if x.key < e.key then a < b else b < a) :
    Ordered (insertByKey e l) := by
  obtain ⟨hkeys, hids, hstarts⟩ := h
  refine ⟨pairwise_insertByKey hkeys hkeys hkey (fun _ _ hlt => hlt) fun _ _ hlt => hlt, ?_, ?_⟩
  · rw [((insertByKey_perm e l).map _).nodup_iff, List.map_cons, List.nodup_cons]
    refine ⟨fun hm => ?_, hids⟩
    obtain ⟨x, hx, hxe⟩ := List.mem_map.1 hm
    exact hid x hx hxe
  · refine pairwise_insertByKey hkeys hstarts hkey (fun x hx hlt a b ha hb => ?_) fun x hx hlt a b ha hb => ?_
    · simpa [hlt] using hfixed x hx a b ha hb
    · simpa [Nat.not_lt.2 (Nat.le_of_lt hlt)] using hfixed x hx b a hb ha

/-! ## The outcome of an operation (R24, R28, R29) -/

theorem replaceEvent_core (fromPass : Nat) (old new : Event) : (replaceEvent fromPass old new).core = new.core := by
  unfold replaceEvent
  dsimp only
  split <;> rfl

theorem replaceEvent_lifecycle (fromPass : Nat) (old new : Event) : (replaceEvent fromPass old new).lifecycle = old.lifecycle := by
  unfold replaceEvent
  dsimp only
  split <;> rfl

/-- What an accepted PUT makes of a generation (R24, R28). -/
structure PutDone (orphan : Option Event) (free : Nat) (p : Put) (l l' : List Event) (old : Option Event) (e : Event) : Prop where
  apart : ∀ o ∈ orphan, o.id ≠ p.id
  before : old = lookupId p.id l
  list : l' = insertByKey e (removeId p.id l)
  id : e.id = p.id
  life : e.lifecycle = (old.map (·.lifecycle)).getD .pending
  keys : ∀ x ∈ l, x.id ≠ p.id → x.key ≠ e.key
  starts : ∀ x ∈ l, x.id ≠ p.id → ∀ a b, x.fixed = some a → e.fixed = some b → if x.key < e.key then a < b else b < a
  room : old = none → free ≠ 0

theorem putEvent_id (rc : RateCode) (p : Put) : (putEvent rc p).id = p.id := rfl

theorem ordered_starts {e x : Event} {l : List Event} (h : ordered e l = true) (hx : x ∈ l) (hid : x.id ≠ e.id) {a b : Nat}
    (ha : x.fixed = some a) (hb : e.fixed = some b) : if x.key < e.key then a < b else b < a := by
  simp only [ordered, hb, List.all_eq_true] at h
  have := h x hx
  simp only [ha, hid, decide_false, Bool.false_or] at this
  split at this <;> simp_all

/-- A check that refuses did not, where the operation is applied. -/
theorem refused_else {P : Prop} [Decidable P] {s st : Status} {r : OpResult} {l : List Event} {old new : Option Event}
    (h : (if P then .refused s else r) = OpResult.applied st l old new) : ¬ P ∧ r = .applied st l old new := by
  split at h
  · cases h
  · exact ⟨‹_›, h⟩

theorem putOn_applied {rc : RateCode} {timeSet : Bool} {limit free : Nat} {orphan : Option Event} {fromPass : Nat} {p : Put}
    {l l' : List Event} {st : Status} {old new : Option Event}
    (h : putOn rc timeSet limit free orphan fromPass p l = .applied st l' old new) :
    ∃ e, new = some e ∧ PutDone orphan free p l l' old e := by
  unfold putOn at h
  dsimp only at h
  obtain ⟨-, h⟩ := refused_else h
  obtain ⟨-, h⟩ := refused_else h
  obtain ⟨horphan, h⟩ := refused_else h
  obtain ⟨hkeys, h⟩ := refused_else h
  obtain ⟨-, h⟩ := refused_else h
  obtain ⟨hord, h⟩ := refused_else h
  have hapart : ∀ o ∈ orphan, o.id ≠ p.id := by
    rintro o rfl hid
    simp [hid] at horphan
  have hkeys' : ∀ x ∈ l, x.id ≠ p.id → x.key ≠ (putEvent rc p).key := by
    intro x hx hid hkey
    exact hkeys (List.any_eq_true.2 ⟨x, hx, by simp [putEvent_id, hid, hkey]⟩)
  have hstarts : ∀ x ∈ l, x.id ≠ p.id → ∀ a b, x.fixed = some a → (putEvent rc p).fixed = some b →
      if x.key < (putEvent rc p).key then a < b else b < a :=
    fun x hx hid a b ha hb => ordered_starts (by simpa using hord) hx hid ha hb
  split at h
  case h_1 hold =>
    obtain ⟨-, h⟩ := refused_else h
    obtain ⟨hfree, h⟩ := refused_else h
    simp only [OpResult.applied.injEq] at h
    obtain ⟨-, rfl, rfl, rfl⟩ := h
    exact ⟨_, rfl, hapart, hold.symm, by rw [removeId_of_lookup_none hold], rfl, rfl, hkeys', hstarts, fun _ => hfree⟩
  case h_2 o hold =>
    simp only [OpResult.applied.injEq] at h
    obtain ⟨-, rfl, rfl, rfl⟩ := h
    have hcore := replaceEvent_core fromPass o (putEvent rc p)
    simp only [Event.core, Prod.mk.injEq] at hcore
    obtain ⟨hid, hkey, hfixed, -⟩ := hcore
    exact ⟨_, rfl, hapart, hold.symm, rfl, hid, by simp [replaceEvent_lifecycle], by rwa [hkey], by rwa [hkey, hfixed], by simp⟩

theorem removeOn_applied {now : Frame} {lead : Nat} {orphan : Option Event} {cur : Bool} {id : Nat} {l l' : List Event}
    {st : Status} {old new : Option Event} (h : removeOn now lead orphan cur id l = .applied st l' old new) :
    l' = removeId id l ∧ new = none ∧ ∃ o, old = some o ∧ lookupId id l = some o := by
  unfold removeOn at h
  obtain ⟨-, h⟩ := refused_else h
  split at h
  · cases h
  rename_i o hold
  obtain ⟨-, h⟩ := refused_else h
  obtain ⟨-, h⟩ := refused_else h
  simp only [OpResult.applied.injEq] at h
  obtain ⟨-, rfl, rfl, rfl⟩ := h
  exact ⟨rfl, rfl, o, rfl, hold⟩

namespace PutDone

variable {orphan : Option Event} {free : Nat} {p : Put} {l l' : List Event} {old : Option Event} {e : Event}

theorem ordered (h : PutDone orphan free p l l' old e) (hl : Ordered l) : Ordered l' := by
  rw [h.list]
  refine ordered_insertByKey (ordered_removeId _ hl) (fun x hx => ?_) (fun x hx => ?_) fun x hx => ?_
  all_goals obtain ⟨hx, hid⟩ := mem_removeId.1 hx
  · rwa [h.id]
  · exact h.keys x hx hid
  · exact h.starts x hx hid

theorem mem (h : PutDone orphan free p l l' old e) {x : Event} (hx : x ∈ l') : x = e ∨ x ∈ l := by
  rw [h.list] at hx
  exact (mem_insertByKey hx).imp_right fun hx => (mem_removeId.1 hx).1

theorem id_ne (h : PutDone orphan free p l l' old e) {o : Event} (ho : o ∈ orphan) (hl : ∀ x ∈ l, x.id ≠ o.id) :
    ∀ x ∈ l', x.id ≠ o.id := by
  intro x hx
  rcases h.mem hx with rfl | hx
  · rw [h.id]; exact (h.apart o ho).symm
  · exact hl x hx

/-- The new list holds the new record and the old list's others. -/
theorem perm (h : PutDone orphan free p l l' old e) : l'.Perm (e :: removeId p.id l) := h.list ▸ insertByKey_perm _ _

theorem length (h : PutDone orphan free p l l' old e) (hl : Ordered l) :
    l'.length + (if old.isSome then 1 else 0) = l.length + 1 := by
  rw [h.perm.length_eq, List.length_cons]
  cases hold : old with
  | none => rw [removeId_of_lookup_none (h.before.symm.trans hold)]; rfl
  | some o =>
    obtain ⟨-, hids, -⟩ := hl
    have := (perm_cons_removeId hids (h.before.symm.trans hold)).length_eq
    simp_all

theorem life_of (h : PutDone orphan free p l l' old e) {P : Lifecycle → Prop} (hpending : P .pending)
    (hl : ∀ x ∈ l, P x.lifecycle) : ∀ x ∈ l', P x.lifecycle := by
  intro x hx
  rcases h.mem hx with rfl | hx
  · rw [h.life, h.before]
    cases hold : lookupId p.id l with
    | none => exact hpending
    | some o => exact hl o (lookupId_some hold).1
  · exact hl x hx

end PutDone

end Sys2Proof.Machine

/-! PROOFS. What every operation of a channel keeps of the channel's schedule store and of the pool. -/

namespace Sys2Proof.Machine

open Sys2Proof

/-! ## The relation -/

/-- The invariants of a store, and of the pool with `n` records in the other channels, go over from one store to another. -/
def Store.Holds (n : Nat) (t u : Store) : Prop :=
  StoreOk t → StoreOk u ∧ (OrphanApart t → OrphanApart u ∧ (n + t.held ≤ Config.poolSize → n + u.held ≤ Config.poolSize))

theorem Store.Holds.refl (n : Nat) (t : Store) : t.Holds n t := fun h => ⟨h, fun ha => ⟨ha, id⟩⟩

theorem Store.Holds.trans {n : Nat} {t u v : Store} (a : t.Holds n u) (b : u.Holds n v) : t.Holds n v := by
  intro ht
  obtain ⟨hu, au⟩ := a ht
  obtain ⟨hv, av⟩ := b hu
  refine ⟨hv, fun ha => ?_⟩
  obtain ⟨hau, nu⟩ := au ha
  obtain ⟨hav, nv⟩ := av hau
  exact ⟨hav, fun hn => nv (nu hn)⟩

/-- The same of a channel at work. -/
def W.Holds (env : Env) (v w : W) : Prop := v.ch.store.Holds env.others w.ch.store

section Rules

variable {env : Env} {v w x : W}

theorem W.Holds.refl (env : Env) (w : W) : w.Holds env w := Store.Holds.refl _ _

theorem W.Holds.trans (a : v.Holds env w) (b : w.Holds env x) : v.Holds env x := Store.Holds.trans a b

/-- What only drops records keeps them in order. -/
theorem holds_of_follows (h : v.Follows w) : v.Holds env w := by
  intro hv
  obtain ⟨hheld, hapart⟩ := h.pool (storeOk_tame hv)
  exact ⟨h.storeOk hv, fun ha => ⟨hapart ha, fun hn => by omega⟩⟩

theorem W.Holds.then (h : v.Holds env w) (f : w.Follows x) : v.Holds env x := h.trans (holds_of_follows f)

theorem holds_of_store (h : w.ch.store = v.ch.store) : v.Holds env w := by
  unfold W.Holds; rw [h]; exact Store.Holds.refl _ _

theorem holds_modCtl (f : Ctl → Ctl) : w.Holds env (w.modCtl f) := holds_of_store rfl

theorem holds_modMon (f : Monitor → Monitor) : w.Holds env (w.modMon f) := holds_of_store rfl

theorem W.Holds.ctl (h : v.Holds env w) (f : Ctl → Ctl) : v.Holds env (w.modCtl f) := h.trans (holds_modCtl f)

end Rules

/-! ## The Channel Controller -/

section Controller

variable {v w : W}

@[simp] theorem releasePlayer_follows (env : Env) (target : Frame) (p : PlayerId) (h : v.Follows w) :
    v.Follows (releasePlayer env target p w) := by
  unfold releasePlayer
  dsimp only
  split
  · split
    · exact issueStop_follows _ _ _ h
    · exact h
  · exact h

@[simp] theorem stopAtTarget_follows (env : Env) (target : Frame) (p : PlayerId) (h : v.Follows w) :
    v.Follows (stopAtTarget env target p w) := by
  unfold stopAtTarget
  dsimp only
  split
  · exact issueStop_follows _ _ _ h
  · exact h

@[simp] theorem pendingBreak_follows (b : Option PendingBreak) (h : v.Follows w) :
    v.Follows (w.modCtl fun c => { c with pendingBreak := b }) := follows_of_eq h rfl rfl

@[simp] theorem withdrawBreak_follows (env : Env) (target : Frame) (h : v.Follows w) : v.Follows (withdrawBreak env target w) := by
  unfold withdrawBreak
  dsimp only
  repeat' split
  all_goals simp (maxDischargeDepth := 40) [h]

@[simp] theorem landingRecord_follows (env : Env) (kind : AsRunKind) (detail : Detail) (h : v.Follows w) :
    v.Follows (landingRecord env kind detail w) := by
  unfold landingRecord
  repeat' split
  all_goals simp [h]

@[simp] theorem landOnAir_follows (env : Env) (h : v.Follows w) : v.Follows (landOnAir env w) := by
  unfold landOnAir
  split
  case h_1 x hx => exact landPlaying_follows env w h x hx
  case h_2 => dsimp only; split <;> simp (maxDischargeDepth := 40) [h]

@[simp] theorem dropCue_follows (env : Env) (p : PlayerId) (h : v.Follows w) : v.Follows (dropCue env p w) := by
  unfold dropCue
  dsimp only
  split <;> simp [h]

@[simp] theorem clearForBreak_follows (env : Env) (p : PlayerId) (h : v.Follows w) : v.Follows (clearForBreak env p w) := by
  unfold clearForBreak
  dsimp only
  split <;> simp [h]

@[simp] theorem dropBreakClip_follows (env : Env) (h : v.Follows w) : v.Follows (dropBreakClip env w) := by
  unfold dropBreakClip
  split
  · dsimp only; split <;> simp [h]
  · exact h

@[simp] theorem acceptBreak_follows (handle inPoint : Nat) (duration : Option Nat) (m : ResumeMode) (env : Env)
    (h : v.Follows w) : v.Follows (acceptBreak handle inPoint duration m env w).1 := by
  unfold acceptBreak
  dsimp only
  repeat' split
  all_goals simp (maxDischargeDepth := 40) [h]

@[simp] theorem monitorState_follows (m : MonState) (h : v.Follows w) : v.Follows (w.modCtl fun c => { c with monitor := m }) :=
  follows_of_eq h rfl rfl

end Controller

section Holding

variable {env : Env} {w : W}

theorem startJoining_holds (s : Switch) (least : Frame) : w.Holds env (startJoining env s least w) := by
  refine W.Holds.then ?_ (modeNotice_follows _ _ _ _ _ (joinSettled_follows _ _ _ (modSeq_follows _ (W.Follows.refl _))))
  exact holds_modCtl _

theorem joiningStart_holds : w.Holds env (joiningStart env w) := by
  unfold joiningStart
  split
  · exact (startJoining_holds _ _).then (pump_follows _ (W.Follows.refl _))
  · exact W.Holds.refl _ _

theorem recordSwitch_holds (s : Switch) : w.Holds env (recordSwitch env s w) :=
  W.Holds.trans (holds_modCtl _) joiningStart_holds

theorem autoTakeover_holds : w.Holds env (autoTakeover env w) :=
  (startJoining_holds _ _).then (pump_follows _ (W.Follows.refl _))

theorem failureJoin_holds : w.Holds env (failureJoin env w) := by
  unfold failureJoin
  split
  · exact W.Holds.refl _ _
  · dsimp only
    split
    · exact W.Holds.refl _ _
    · refine W.Holds.then ?_ (pump_follows _ (modeNotice_follows _ _ _ _ _ (W.Follows.refl _)))
      split
      · exact (holds_modCtl _).then (joinSettled_follows _ _ _ (W.Follows.refl _))
      · exact holds_modCtl _

theorem cancelHandback_holds (why : Detail) : w.Holds env (cancelHandback env why w) := by
  unfold cancelHandback
  split
  · exact W.Holds.refl _ _
  · refine W.Holds.then ?_ (pump_follows _ (releasePlayer_follows _ _ _ (releasePlayer_follows _ _ _
      (modeNotice_follows _ _ _ _ _ (record_follows _ _ _ _ _ _ _ _ (W.Follows.refl _))))))
    exact holds_modCtl _

theorem startReturning_holds (s : Switch) : w.Holds env (startReturning env s w) := by
  refine W.Holds.then ?_ (pump_follows _ (takePointer_follows _ (stopAtTarget_follows _ _ _ (stopAtTarget_follows _ _ _
    (withdrawBreak_follows _ _ (modeNotice_follows _ _ _ _ _ (W.Follows.refl _)))))))
  exact holds_modCtl _

theorem joiningTarget_holds : w.Holds env (joiningTarget env w) := by
  unfold joiningTarget
  split
  · exact W.Holds.refl _ _
  · have hleft : w.Holds env (othersLeave env (playersLeave env w)) :=
      holds_of_follows (othersLeave_follows _ (playersLeave_follows _ (W.Follows.refl _)))
    refine W.Holds.then ?_ (settle_follows _ (modeNotice_follows _ _ _ _ _ (landOnAir_follows _ (landingRecord_follows _ _ _
      (W.Follows.refl _)))))
    exact hleft.ctl _

theorem handbackTarget_holds : w.Holds env (handbackTarget env w) := by
  unfold handbackTarget
  split
  · exact W.Holds.refl _ _
  · rename_i s _
    have hleft : w.Holds env (leaveAir env (othersLeave env (playersLeave env w))) :=
      holds_of_follows (leaveAir_follows _ (othersLeave_follows _ (playersLeave_follows _ (W.Follows.refl _))))
    have hdropped := hleft.then (record_follows env .handback 0 0 0 .main (.handback s.cause s.force) none
      (dropCue_follows env .b (dropCue_follows env .a (W.Follows.refl _))))
    refine W.Holds.then ?_ (settle_follows _ (syncLife_follows (dropPending_follows _ (endContext_follows
      (modeNotice_follows _ _ _ _ _ (W.Follows.refl _))))))
    exact hdropped.ctl _

theorem breakStart_holds : w.Holds env (breakStart env w) := by
  unfold breakStart
  split
  · exact W.Holds.refl _ _
  · split
    · exact W.Holds.refl _ _
    · refine W.Holds.then ?_ (settle_follows _ (syncLife_follows (modeNotice_follows _ _ _ _ _ (record_follows _ _ _ _ _ _ _ _
        (W.Follows.refl _)))))
      refine W.Holds.ctl ?_ _
      refine W.Holds.then ?_ (nextBreak_follows _ (playerRoll_follows _ _ (modSeq_follows _ (W.Follows.refl _))))
      refine W.Holds.ctl ?_ _
      exact holds_of_follows (leaveAir_follows _ (othersLeave_follows _ (playersLeave_follows _ (modTrig_follows _
        (W.Follows.refl _)))))

/-- A resume moves the anchor, which no invariant speaks of, and no record. -/
theorem beginResume_holds (cause : ResumeCause) (mode : ResumeMode) (r : Frame) :
    w.Holds env (beginResume env cause mode r w) := by
  unfold beginResume
  split
  · exact W.Holds.refl _ _
  · refine W.Holds.then ?_ (pump_follows _ (joinSettled_follows _ _ _ (judgeHeld_follows _ _ (settle_follows _ (W.Follows.refl _)))))
    split
    · exact holds_modCtl _
    · exact fun h => ⟨h, fun ha => ⟨ha, id⟩⟩

theorem breakExpiry_holds : w.Holds env (breakExpiry env w) := by
  unfold breakExpiry
  split
  · split <;> [exact beginResume_holds _ _ _; exact W.Holds.refl _ _]
  · exact W.Holds.refl _ _

theorem breakEnd_holds : w.Holds env (breakEnd env w) := by
  unfold breakEnd
  split
  · split
    · exact W.Holds.refl _ _
    · refine W.Holds.then ?_ (settle_follows _ (syncLife_follows (modeNotice_follows _ _ _ _ _ (landOnAir_follows _
        (landingRecord_follows _ _ _ (W.Follows.refl _))))))
      refine W.Holds.ctl ?_ _
      exact holds_of_follows (dropBreakClip_follows _ (leaveAir_follows _ (othersLeave_follows _ (playersLeave_follows _
        (W.Follows.refl _)))))
  · exact W.Holds.refl _ _

/-! ## The requests on the mode -/

theorem handbackOn_holds (cause : SwitchCause) (target : Target) (force : Bool) :
    w.Holds env (handbackOn cause target force env w).1 := by
  unfold handbackOn
  split <;> [exact W.Holds.refl _ _; skip]
  split <;> [exact W.Holds.refl _ _; skip]
  split <;> [exact W.Holds.refl _ _; skip]
  split <;> [exact W.Holds.refl _ _; exact startReturning_holds _]

theorem handbackAskOn_holds (target : Target) : w.Holds env (handbackAskOn target env w).1 := by
  unfold handbackAskOn
  split <;> [exact W.Holds.refl _ _; exact handbackOn_holds _ _ _]

theorem takeoverOn_holds (target : Target) (force : Bool) : w.Holds env (takeoverOn target force env w).1 := by
  unfold takeoverOn
  split <;> [exact W.Holds.refl _ _; skip]
  split
  · split <;> [exact W.Holds.refl _ _; exact cancelHandback_holds _]
  · split <;> [exact W.Holds.refl _ _; exact recordSwitch_holds _]
  · exact W.Holds.refl _ _

theorem handoverOn_holds (day : Nat) (l : Label) : w.Holds env (handoverOn day l env w).1 := by
  unfold handoverOn
  split <;> [exact W.Holds.refl _ _; skip]
  split <;> [exact W.Holds.refl _ _; skip]
  split <;> [exact W.Holds.refl _ _; skip]
  dsimp only
  split <;> [exact W.Holds.refl _ _; exact recordSwitch_holds _]

theorem breakInOn_holds (handle inPoint : Nat) (duration : Option Nat) (mode : Option BreakMode) :
    w.Holds env (breakInOn handle inPoint duration mode env w).1 := by
  unfold breakInOn
  split <;> [exact W.Holds.refl _ _; skip]
  split
  · exact W.Holds.refl _ _
  · dsimp only
    split
    · exact W.Holds.refl _ _
    · split <;> [exact W.Holds.refl _ _; exact holds_of_follows (acceptBreak_follows _ _ _ _ _ (W.Follows.refl _))]
    · exact W.Holds.refl _ _

theorem resumeOn_holds (mode : Option ResumeReq) : w.Holds env (resumeOn mode env w).1 := by
  unfold resumeOn
  split <;> [exact W.Holds.refl _ _; skip]
  split <;> [exact beginResume_holds _ _ _; exact W.Holds.refl _ _]

/-! ## The Feed Monitor and the channel reset -/

theorem monitorChanged_holds (before after : MonState) : w.Holds env (monitorChanged env before after w) := by
  have hmon : w.Holds env (w.modCtl fun c => { c with monitor := after }) := holds_modCtl _
  unfold monitorChanged
  dsimp only
  refine hmon.trans ?_
  split
  · split <;> [exact cancelHandback_holds _; exact W.Holds.refl _ _]
  · split <;> [exact autoTakeover_holds; exact W.Holds.refl _ _]
  · split <;> [exact failureJoin_holds; exact W.Holds.refl _ _]
  · exact W.Holds.refl _ _

theorem changeMon_holds (after : MonState) : w.Holds env (changeMon env after w) :=
  (holds_of_follows (notice_follows _ _ _ (modMon_follows _ (W.Follows.refl _)))).trans (monitorChanged_holds _ after)

theorem monitorFailed_holds : w.Holds env (monitorFailed env w) := by
  unfold monitorFailed
  split <;> [exact changeMon_holds _; exact W.Holds.refl _ _]

theorem monitorSuspect_holds : w.Holds env (monitorSuspect env w) := by
  unfold monitorSuspect
  split
  · refine W.Holds.trans (W.Holds.trans (holds_modMon _) (changeMon_holds _)) monitorFailed_holds
  · exact W.Holds.refl _ _

theorem monitorHealthy_holds : w.Holds env (monitorHealthy env w) := by
  unfold monitorHealthy
  split <;> [exact changeMon_holds _; exact W.Holds.refl _ _]

theorem stateTests_holds : w.Holds env (stateTests env w) := by
  unfold stateTests
  split
  case h_1 => split <;> [exact (changeMon_holds _).trans monitorSuspect_holds; exact W.Holds.refl _ _]
  case h_2 => exact monitorSuspect_holds
  case h_3 => split <;> [exact changeMon_holds _; exact (holds_modMon _).trans monitorFailed_holds]
  case h_4 =>
    split
    · exact W.Holds.refl _ _
    · exact ((holds_modMon _).trans (changeMon_holds _)).trans monitorHealthy_holds
  case h_5 =>
    split <;> [exact monitorFailed_holds; skip]
    split <;> [exact holds_modMon _; exact (holds_modMon _).trans monitorHealthy_holds]

theorem advisoryRaise_store (i : Fin 8) : (advisoryRaise env i w).ch.store = w.ch.store := by
  unfold advisoryRaise; split <;> rfl

theorem advisoryClear_store (i : Fin 8) : (advisoryClear env i w).ch.store = w.ch.store := by
  unfold advisoryClear; split <;> rfl

theorem evaluate_holds (bad : Bool) : w.Holds env (evaluate env bad w) := by
  unfold evaluate
  dsimp only
  refine W.Holds.trans (holds_of_store ?_) stateTests_holds
  exact foldl_keeps (fun w => w.ch.store) _ (fun w i => (advisoryClear_store i).trans (advisoryRaise_store i)) _ (countPeriod env bad w)

/-- A reset channel holds no record (R42). -/
theorem resetChannelOn_holds : w.Holds env (resetChannelOn env w) := by
  have hstore : (resetChannelOn env w).ch.store =
      { current := [], refresh := none, orphan := none, anchor := none, scan := none } := by
    unfold resetChannelOn resetRest resetMonitor resetMirror resetStore
    dsimp only
    repeat' split
    all_goals rfl
  intro _
  rw [hstore]
  refine ⟨by simp [StoreOk, Ordered], fun _ => ⟨by simp [OrphanApart], fun hn => ?_⟩⟩
  simp only [Store.held] at hn ⊢
  simp; omega

end Holding

end Sys2Proof.Machine

/-! PROOFS. What the Mirror Engine's operations keep of the channel's schedule store and of the pool: the batches, the refreshes, the
commit and the digest scans. -/

namespace Sys2Proof.Machine

open Sys2Proof

/-! ## The digest pair (R38) -/

theorem digestTerm_lt (e : Event) : digestTerm e < two32 := Nat.mod_lt _ (by decide)

theorem digestOf_perm {l m : List Event} (h : l.Perm m) : digestOf l = digestOf m := by
  unfold digestOf
  rw [h.length_eq, (h.map digestTerm).sum_eq]

/-- The pair follows a record that comes, one that goes, and one that takes another's place (R38). -/
theorem account_digest {r : Refresh} {l' rest : List Event} {old new : Option Event} (h : (r.count, r.sum) = digestOf r.events)
    (hl : r.events.Perm (old.toList ++ rest)) (hl' : l'.Perm (new.toList ++ rest)) :
    ((Refresh.account old new { r with events := l' }).count, (Refresh.account old new { r with events := l' }).sum) =
      digestOf l' := by
  rw [digestOf_perm hl] at h
  rw [digestOf_perm hl']
  simp only [digestOf, Prod.mk.injEq] at h
  obtain ⟨hcount, hsum⟩ := h
  have hold : ∀ o : Event, digestTerm o < 4294967296 := digestTerm_lt
  cases old with
  | none => cases new <;> (simp [Refresh.account, digestOf, hcount, hsum, two32]; try omega)
  | some o =>
    have := hold o
    cases new <;> simp [Refresh.account, digestOf, hcount, hsum, two32] <;> omega

/-! ## The parts of a store -/

section Parts

variable {env : Env} {v w : W}

theorem holds_of_records (hc : w.ch.store.current = v.ch.store.current) (hr : w.ch.store.refresh = v.ch.store.refresh)
    (ho : w.ch.store.orphan = v.ch.store.orphan) : v.Holds env w := by
  unfold W.Holds Store.Holds StoreOk OrphanApart Store.held
  rw [hc, hr, ho]
  exact fun h => ⟨h, fun ha => ⟨ha, id⟩⟩

/-- The REFRESH generation is put in place of another that holds no fewer records. -/
theorem setRefresh_holds {t : Store} (x : Option Refresh)
    (hx : ∀ r ∈ x, Ordered r.events ∧ (∀ e ∈ r.events, e.lifecycle = .pending) ∧ (r.count, r.sum) = digestOf r.events)
    (hempty : ∀ r ∈ x, r.events = []) (n : Nat) : t.Holds n { t with refresh := x } := by
  intro ht
  obtain ⟨hcur, hlife, horphan, -⟩ := ht
  refine ⟨⟨hcur, hlife, horphan, hx⟩, fun ha => ⟨fun o ho => ⟨(ha o ho).1, fun r hr e he => ?_⟩, fun hn => ?_⟩⟩
  · rw [hempty r hr] at he
    cases he
  · cases x with
    | none => simp only [Store.held] at hn ⊢; omega
    | some r => simp only [Store.held, hempty r rfl, List.length_nil] at hn ⊢; omega

theorem freeRefresh_holds : w.Holds env (freeRefresh w) :=
  setRefresh_holds none (by simp) (by simp) env.others

@[simp] theorem refreshNeeded_store (env : Env) (cause : NeedCause) (w : W) : (refreshNeeded env cause w).ch.store = w.ch.store := rfl

@[simp] theorem setMirror_store (env : Env) (after : MirrorState) (cause : MirrorCause) (w : W) :
    (setMirror env after cause w).ch.store = w.ch.store := by
  unfold setMirror; dsimp only; split <;> rfl

theorem giveUp_holds (after : MirrorState) (cause : MirrorCause) (need : NeedCause) : w.Holds env (giveUp env after cause need w) :=
  freeRefresh_holds.trans (holds_of_store (by simp [giveUp]))

end Parts

/-! ## What follows a change of CURRENT -/

section Following

variable {v w : W}

theorem modMirror_follows (f : Mirror → Mirror) (h : v.Follows w) : v.Follows (W.modMirror f w) := follows_of_eq h rfl rfl

@[simp] theorem scanChanged_follows (h : v.Follows w) : v.Follows (w.modStore Store.scanChanged) :=
  follows_shrinks h _ ⟨rfl, rfl, fun ht => ⟨ht, List.Sublist.refl _, fun _ _ => rfl, Store.SameOrphan.refl _⟩⟩

@[simp] theorem pinClose_follows (env : Env) (id duration : Nat) (h : v.Follows w) : v.Follows (pinClose env id duration w) :=
  modLanding_follows _ (modSeq_follows _ h)

@[simp] theorem cancelCued_follows (env : Env) (test : Item → Bool) (h : v.Follows w) : v.Follows (cancelCued env test w) := by
  unfold cancelCued
  split
  · split <;> simp (maxDischargeDepth := 40) [h]
  · exact h

@[simp] theorem forgetTries_follows (test : Item → Bool) (h : v.Follows w) : v.Follows (forgetTries test w) :=
  modLanding_follows _ (modSeq_follows _ h)

@[simp] theorem cancelLanding_follows (env : Env) (test : Item → Bool) (h : v.Follows w) : v.Follows (cancelLanding env test w) := by
  unfold cancelLanding
  split
  · split <;> simp (maxDischargeDepth := 40) [h]
  · exact h

@[simp] theorem cancelTouched_follows (env : Env) (id : Nat) (onAir held : Bool) (h : v.Follows w) :
    v.Follows (cancelTouched env id onAir held w) := by
  unfold cancelTouched
  dsimp only
  split <;> simp (maxDischargeDepth := 40) [h]

@[simp] theorem sweepChange_follows (env : Env) (before : Chan) (id : Nat) (changed : Bool) (h : v.Follows w) :
    v.Follows (sweepChange env before id changed w) := by
  unfold sweepChange
  dsimp only
  split <;> simp (maxDischargeDepth := 40) [h]

@[simp] theorem currentChanged_follows (env : Env) (before : Chan) (id : Nat) (onAir held changed : Bool) (h : v.Follows w) :
    v.Follows (currentChanged env before id onAir held changed w) := by
  unfold currentChanged
  dsimp only
  repeat' split
  all_goals simp (maxDischargeDepth := 40) [h]

@[simp] theorem pinCued_follows (env : Env) (h : v.Follows w) : v.Follows (pinCued env w) := by
  unfold pinCued
  refine foldl_follows _ (fun u i hu => ?_) _ _ h
  split
  · split <;> simp [hu]
  · exact hu

@[simp] theorem commitCues_follows (env : Env) (before : Chan) (new : List Event) (h : v.Follows w) :
    v.Follows (commitCues env before new w) := by
  unfold commitCues
  simp (maxDischargeDepth := 40) [h]

end Following

/-! ## Operations of a batch (R24, R29, R46) -/

section Batch

variable {env : Env} {w : W}

theorem freeRecords_ne_zero {c : Chan} (h : freeRecords env c ≠ 0) : env.others + c.store.held + 1 ≤ Config.poolSize := by
  unfold freeRecords at h; omega

/-- A CURRENT generation that an accepted PUT has changed. -/
theorem put_holds {p : Put} {l' : List Event} {old : Option Event} {e : Event} {t : Store} {n free : Nat}
    (h : PutDone t.orphan free p t.current l' old e) (hfree : free ≠ 0 → n + t.held + 1 ≤ Config.poolSize) :
    t.Holds n { t with current := l' } := by
  intro ht
  obtain ⟨hcur, hlife, horphan, hrefresh⟩ := ht
  refine ⟨⟨h.ordered hcur, h.life_of (P := (· ≠ .orphan)) (by decide) hlife, horphan, hrefresh⟩, fun ha =>
    ⟨fun o ho => ⟨h.id_ne ho (ha o ho).1, (ha o ho).2⟩, fun hn => ?_⟩⟩
  have hlen := h.length hcur
  cases hold : old with
  | none =>
    have hroom := hfree (h.room hold)
    simp only [hold, Option.isSome_none, Bool.false_eq_true, if_false] at hlen
    simp only [Store.held] at hroom ⊢; omega
  | some o =>
    simp only [hold, Option.isSome_some, if_true] at hlen
    simp only [Store.held] at hn ⊢; omega

theorem putCurrent_holds (p : Put) : w.Holds env (putCurrent env p w).1 := by
  unfold putCurrent
  dsimp only
  split
  · exact W.Holds.refl _ _
  case h_2 st l old new hput =>
    obtain ⟨e, rfl, hdone⟩ := putOn_applied hput
    dsimp only
    split
    · exact W.Holds.refl _ _
    · refine W.Holds.then ?_ (currentChanged_follows _ _ _ _ _ _ (W.Follows.refl _))
      exact put_holds hdone freeRecords_ne_zero

/-- A generation with one id removed. -/
theorem remove_holds {t : Store} (id n : Nat) : t.Holds n { t with current := removeId id t.current } := by
  intro ht
  obtain ⟨hcur, hlife, horphan, hrefresh⟩ := ht
  refine ⟨⟨ordered_removeId id hcur, fun x hx => hlife x (mem_removeId.1 hx).1, horphan, hrefresh⟩, fun ha =>
    ⟨fun o ho => ⟨fun x hx => (ha o ho).1 x (mem_removeId.1 hx).1, (ha o ho).2⟩, fun hn => ?_⟩⟩
  have : (removeId id t.current).length ≤ t.current.length := List.length_filter_le _ _
  simp only [Store.held] at hn ⊢; omega

theorem removeCurrent_holds (id : Nat) : w.Holds env (removeCurrent env id w).1 := by
  unfold removeCurrent
  dsimp only
  split
  · exact W.Holds.refl _ _
  case h_2 st l old new hrem =>
    obtain ⟨rfl, -⟩ := removeOn_applied hrem
    refine W.Holds.then ?_ (currentChanged_follows _ _ _ _ _ _ (W.Follows.refl _))
    exact remove_holds id _

theorem opCurrent_holds (op : BatchOp) : w.Holds env (opCurrent env op w).1 := by
  cases op with
  | put p => exact putCurrent_holds p
  | remove id => exact removeCurrent_holds id

/-- The REFRESH generation after an operation: another list whose ids but the operation's stood in the old one. -/
theorem changeRefresh_holds {t : Store} {r : Refresh} {n : Nat} {l' rest : List Event} {old new : Option Event}
    (hr : t.refresh = some r) (hl : Ordered r.events → r.events.Perm (old.toList ++ rest)) (hl' : l'.Perm (new.toList ++ rest))
    (hord : Ordered r.events → Ordered l') (hlife : (∀ x ∈ r.events, x.lifecycle = .pending) → ∀ x ∈ l', x.lifecycle = .pending)
    (hapart : ∀ o ∈ t.orphan, (∀ x ∈ r.events, x.id ≠ o.id) → ∀ x ∈ l', x.id ≠ o.id)
    (hroom : l'.length ≤ r.events.length ∨ (l'.length ≤ r.events.length + 1 ∧ n + t.held + 1 ≤ Config.poolSize) ∨
      ¬ Ordered r.events) :
    t.Holds n { t with refresh := some (Refresh.account old new { r with events := l' }) } := by
  intro ht
  obtain ⟨hcur, hlifeC, horphan, hrefresh⟩ := ht
  obtain ⟨hro, hrl, hrd⟩ := hrefresh r hr
  refine ⟨⟨hcur, hlifeC, horphan, ?_⟩, fun ha => ⟨fun o ho => ⟨(ha o ho).1, ?_⟩, fun hn => ?_⟩⟩
  · intro r' hr'
    obtain rfl := Option.some.inj hr'
    exact ⟨hord hro, hlife hrl, account_digest hrd (hl hro) hl'⟩
  · intro r' hr'
    obtain rfl := Option.some.inj hr'
    exact hapart o ho ((ha o ho).2 r hr)
  · have hevents : (Refresh.account old new { r with events := l' }).events = l' := rfl
    simp only [Store.held, hr, hevents] at hn hroom ⊢
    rcases hroom with hroom | ⟨hlen, hroom⟩ | hbad
    · omega
    · omega
    · exact absurd hro hbad

theorem opRefresh_holds (op : BatchOp) : w.Holds env (opRefresh env op w).1 := by
  unfold opRefresh
  split
  · exact W.Holds.refl _ _
  case h_2 r hr =>
    cases op with
    | put p =>
      dsimp only
      split
      · exact W.Holds.refl _ _
      case h_2 st l old new hput =>
        obtain ⟨e, rfl, hdone⟩ := putOn_applied hput
        refine changeRefresh_holds (rest := removeId p.id r.events) hr (fun ho => ?_) hdone.perm hdone.ordered
          (hdone.life_of (P := (· = .pending)) rfl) (fun o ho hids => hdone.id_ne ho hids) ?_
        · cases hold : old with
          | none => rw [removeId_of_lookup_none (hdone.before.symm.trans hold)]; exact List.Perm.refl _
          | some o => exact perm_cons_removeId ho.2.1 (hdone.before.symm.trans hold)
        · by_cases ho : Ordered r.events
          · have hlen := hdone.length ho
            cases hold : old with
            | none => exact .inr (.inl ⟨by simp [hold] at hlen; omega, freeRecords_ne_zero (hdone.room hold)⟩)
            | some o => exact .inl (by simp [hold] at hlen; omega)
          · exact .inr (.inr ho)
    | remove id =>
      dsimp only
      split
      · exact W.Holds.refl _ _
      case h_2 st l old new hrem =>
        obtain ⟨rfl, rfl, o, rfl, hold⟩ := removeOn_applied hrem
        exact changeRefresh_holds (rest := removeId id r.events) hr (fun ho => perm_cons_removeId ho.2.1 hold) (List.Perm.refl _)
          (ordered_removeId id) (fun h x hx => h x (mem_removeId.1 hx).1) (fun o ho h x hx => h x (mem_removeId.1 hx).1)
          (.inl (List.length_filter_le _ _))

theorem runCurrentOps_holds (ops : List BatchOp) : w.Holds env (runCurrentOps env ops w).1 := by
  induction ops generalizing w with
  | nil => exact W.Holds.refl _ _
  | cons op ops ih => exact (opCurrent_holds op).trans ih

theorem runRefreshOps_holds (ops : List BatchOp) : w.Holds env (runRefreshOps env ops w).1 := by
  induction ops generalizing w with
  | nil => exact W.Holds.refl _ _
  | cons op ops ih =>
    unfold runRefreshOps
    dsimp only
    split
    · exact opRefresh_holds op
    · exact (opRefresh_holds op).trans ih

theorem holds_modMirror (f : Mirror → Mirror) : w.Holds env (W.modMirror f w) := holds_of_store rfl

theorem acceptBatch_holds (seq : Nat) (ops : List BatchOp) : w.Holds env (acceptBatch env seq ops w).1 := by
  refine (holds_modMirror fun m => { m with lastSeq := seq }).trans ?_
  unfold acceptBatch
  dsimp only
  split
  · have hrun := (holds_modMirror (env := env) (w := W.modMirror (fun m => { m with lastSeq := seq }) w)
      fun m => { m with timer := 0 }).trans (runRefreshOps_holds ops)
    split
    · exact hrun
    · exact hrun.trans (giveUp_holds _ _ _)
  · exact (runCurrentOps_holds ops).then (pump_follows _ (shadowStart_follows _ (W.Follows.refl _)))

theorem holds_refreshNeeded (cause : NeedCause) : w.Holds env (refreshNeeded env cause w) := holds_of_store rfl

theorem mirrorBatchOn_holds (seq : Nat) (bytes : List Byte) : w.Holds env (mirrorBatchOn seq bytes env w).1 := by
  unfold mirrorBatchOn
  split
  · exact W.Holds.refl _ _
  · split
    · exact W.Holds.refl _ _
    · split
      iterate 3 exact holds_refreshNeeded _
      dsimp only
      split
      · exact acceptBatch_holds _ _
      · split
        · exact holds_modMirror _
        · exact giveUp_holds _ _ _

end Batch

/-! ## Refreshes (R48, R49, R53 to R57) -/

section Refreshes

variable {env : Env} {w : W}

theorem refreshOpenOn_holds (seq : Nat) : w.Holds env (refreshOpenOn seq env w).1 := by
  have hopen : w.Holds env (w.modStore fun t => { t with refresh := some { opening := seq, events := [], count := 0, sum := 0 } }) :=
    setRefresh_holds _ (by simp [Ordered, digestOf]) (by simp) _
  exact hopen.trans (holds_of_store (by simp [refreshOpenOn]))

theorem inherit_core (old new : Event) : (inherit old new).core = new.core := rfl

theorem committed_core (c : Chan) (new : Event) : (committed env c new).core = new.core := by
  unfold committed
  split
  · rfl
  · split
    · exact replaceEvent_core _ _ _
    · rfl

theorem committed_lifecycle {c : Chan} {new : Event} (hc : ∀ e ∈ c.store.current, e.lifecycle ≠ .orphan)
    (hnew : new.lifecycle = .pending) : (committed env c new).lifecycle ≠ .orphan := by
  unfold committed
  split
  · rw [hnew]; decide
  case h_2 old hold =>
    have hlife := hc old (lookupId_some hold).1
    split
    · exact (replaceEvent_lifecycle _ old _).trans_ne hlife
    · exact hlife

theorem committed_list_core (c : Chan) (l : List Event) : (l.map (committed env c)).map Event.core = l.map Event.core := by
  rw [List.map_map]
  exact List.map_congr_left fun e _ => committed_core c e

theorem newOrphan_cases {old new : List Event} {kept : Option Event} {o : Event} (h : o ∈ newOrphan old new kept) :
    (∃ e ∈ old, o = { e with lifecycle := .orphan } ∧ lookupId e.id new = none) ∨ o ∈ kept := by
  unfold newOrphan at h
  split at h
  case h_1 e he =>
    refine .inl ⟨e, List.mem_of_find?_eq_some he, ?_, ?_⟩
    · simpa using h.symm
    · have := List.find?_some he
      simp at this
      exact this.2
  case h_2 => exact .inr h

/-- The records of the commit take CURRENT's place, the REFRESH generation is freed, and a record left out while on air becomes the
orphan (R53 to R55). -/
theorem commitStore_holds {t : Store} {c : Chan} {r : Refresh} (hc : c.store = t) (hr : t.refresh = some r) (n : Nat) :
    t.Holds n { t with current := r.events.map (committed env c), refresh := none
                       orphan := newOrphan t.current (r.events.map (committed env c)) t.orphan } := by
  intro ht
  obtain ⟨hcur, hlife, horphan, hrefresh⟩ := ht
  obtain ⟨hro, hrl, -⟩ := hrefresh r hr
  have hcore := committed_list_core (env := env) c r.events
  refine ⟨⟨ordered_sublist (by rw [hcore]) hro, ?_, ?_, by simp⟩, fun ha => ⟨fun o ho => ⟨?_, by simp⟩, fun hn => ?_⟩⟩
  · intro x hx
    obtain ⟨y, hy, rfl⟩ := List.mem_map.1 hx
    exact committed_lifecycle (hc ▸ hlife) (hrl y hy)
  · intro o ho
    rcases newOrphan_cases ho with ⟨e, -, rfl, -⟩ | ho
    · rfl
    · exact horphan o ho
  · rcases newOrphan_cases ho with ⟨e, -, rfl, hnone⟩ | ho
    · exact lookupId_none.1 hnone
    · intro x hx
      obtain ⟨y, hy, rfl⟩ := List.mem_map.1 hx
      have hid : (committed env c y).id = y.id := congrArg Prod.fst (committed_core c y)
      rw [hid]
      exact (ha o ho).2 r hr y hy
  · simp only [Store.held, hr, List.length_map] at hn ⊢
    cases hnew : newOrphan t.current (r.events.map (committed env c)) t.orphan with
    | none => dsimp only; omega
    | some o =>
      rcases newOrphan_cases (Option.mem_def.2 hnew) with ⟨e, he, -⟩ | ho
      · have := List.length_pos_of_mem he
        dsimp only; omega
      · rw [Option.mem_def.1 ho] at hn
        dsimp only at hn ⊢; omega

theorem commit_holds {r : Refresh} (hr : w.ch.store.refresh = some r) : w.Holds env (commit env r w) := by
  unfold commit
  dsimp only
  refine W.Holds.then ?_ (abandonSweep_follows (rejudge_follows _ (settle_follows _ (syncLife_follows (W.Follows.refl _)))))
  refine W.Holds.trans ?_ (holds_of_store (setMirror_store _ _ _ _))
  refine W.Holds.then ?_ (commitCues_follows _ _ _ (forgetTries_follows _ (modSeq_follows _ (modMirror_follows _
    (scanChanged_follows (W.Follows.refl _))))))
  exact commitStore_holds rfl hr _

theorem refreshCloseOn_holds (seq count sum : Nat) : w.Holds env (refreshCloseOn seq count sum env w).1 := by
  unfold refreshCloseOn
  dsimp only
  split
  · split
    · exact W.Holds.refl _ _
    case h_2 r hr =>
      split
      · split
        · refine W.Holds.then ?_ (pump_follows _ (shadowStart_follows _ (W.Follows.refl _)))
          exact (holds_modMirror _).trans (commit_holds hr)
        · exact (holds_modMirror _).trans (giveUp_holds _ _ _)
      · split
        · exact holds_modMirror _
        · exact giveUp_holds _ _ _
  iterate 2 · split <;> [exact W.Holds.refl _ _; exact giveUp_holds _ _ _]
  · exact holds_refreshNeeded _

theorem refreshTimeout_holds : w.Holds env (refreshTimeout env w) := by
  unfold refreshTimeout
  split <;> [exact giveUp_holds _ _ _; exact W.Holds.refl _ _]

theorem refreshTick_holds : w.Holds env (refreshTick w) := by
  unfold refreshTick
  split <;> [exact holds_modMirror _; exact W.Holds.refl _ _]

/-! ## Digest scans (R39, R58) -/

/-- A scan is no record. -/
theorem holds_scan (f : Store → Option Scan) : w.Holds env (w.modStore fun t => { t with scan := f t }) :=
  holds_of_records rfl rfl rfl

theorem digestScanEnd_holds : w.Holds env (digestScanEnd env w) := by
  unfold digestScanEnd
  split
  · exact W.Holds.refl _ _
  · split
    · exact W.Holds.refl _ _
    · refine (holds_scan fun _ => none).trans (holds_of_store ?_)
      dsimp only
      split
      · rfl
      · split <;> simp

theorem scanVisit_holds : w.Holds env (scanVisit env w) := (holds_scan _).trans digestScanEnd_holds

theorem scanTick_holds : w.Holds env (scanTick env w) := (holds_scan _).trans scanVisit_holds

theorem digestCheckOn_holds (addr : Option (Port × Nat)) (tag channel key count sum : Nat) :
    w.Holds env (digestCheckOn addr tag channel key count sum env w) := by
  unfold digestCheckOn
  dsimp only
  refine W.Holds.trans (W.Holds.trans (holds_of_store ?_) (holds_scan _)) scanVisit_holds
  split <;> rfl

theorem goStale_holds : w.Holds env (goStale env w) := by
  unfold goStale
  split <;> [exact holds_of_store (setMirror_store _ _ _ _); exact W.Holds.refl _ _]

theorem goCurrent_holds : w.Holds env (goCurrent env w) := by
  unfold goCurrent
  split <;> [exact holds_of_store (setMirror_store _ _ _ _); exact W.Holds.refl _ _]

end Refreshes

end Sys2Proof.Machine

/-! PROOFS. The buffers: the FIFOs and assemblies of the sources (R73 to R77) and the graphic slots (R174 to R176). -/

namespace Sys2Proof.Machine

open Sys2Proof

/-! ## Pictures -/

theorem picture_wf_iff (p : Picture) : Picture.wf p = true ↔ risingBelow 0 p = true ∧ ∀ c ∈ p, c.2 ≠ blackAt c.1 := by
  simp [Picture.wf, cellsRise]

theorem picture_wf_write {p : Picture} (k : Nat) (v : BitVec 10) (h : Picture.wf p = true) : Picture.wf (p.write k v) = true := by
  rw [picture_wf_iff] at h ⊢
  obtain ⟨hrise, hblack⟩ := h
  unfold Picture.write
  split
  case isTrue => exact ⟨risingBelow_cellDrop k hrise, fun c hc => hblack c (mem_of_mem_cellDrop hc)⟩
  case isFalse hv =>
    refine ⟨risingBelow_cellSet v (Nat.zero_le _) hrise, fun c hc => ?_⟩
    rcases mem_cellSet hc with rfl | hc
    · exact hv
    · exact hblack c hc

/-! ## Sources -/

/-- An open assembly is short of its units and its picture is canonical. -/
def AsmOk (a : Assembly) : Prop :=
  Picture.wf a.picture = true ∧ a.units.Nodup ∧ (∀ u ∈ a.units, u < a.hdr.count) ∧ a.units.length < a.hdr.count

theorem sourceOk_iff (x : Source) : SourceOk x ↔
    x.fifo.length ≤ 4 ∧ (∀ f ∈ x.fifo, Picture.wf f.picture = true) ∧ ∀ a ∈ x.asm, AsmOk a := Iff.rfl

/-- Fewer frames and the same assembly, or none. -/
theorem sourceOk_of_sublist {x y : Source} (h : SourceOk x) (hf : y.fifo.Sublist x.fifo) (ha : y.asm = x.asm ∨ y.asm = none) :
    SourceOk y := by
  obtain ⟨hlen, hwf, hasm⟩ := h
  refine ⟨hf.length_le.trans hlen, fun f hmem => hwf f (hf.subset hmem), fun a hmem => ?_⟩
  rcases ha with ha | ha
  · exact hasm a (ha ▸ hmem)
  · rw [ha] at hmem; cases hmem

theorem sourceOk_discard {x : Source} (h : SourceOk x) : SourceOk x.discard := by
  unfold Source.discard
  split
  · exact sourceOk_of_sublist h (List.Sublist.refl _) (.inr rfl)
  · exact h

theorem sourceOk_clearFeed {x : Source} (h : SourceOk x) : SourceOk x.clearFeed :=
  sourceOk_of_sublist (sourceOk_discard h) (List.nil_sublist _) (.inl rfl)

theorem sourceOk_countStray {x : Source} (h : SourceOk x) : SourceOk x.countStray := h

theorem sourceOk_clearCounts {x : Source} (h : SourceOk x) : SourceOk x.clearCounts := h

theorem sourceOk_push {x : Source} {f : EssFrame} (h : SourceOk x) (hf : Picture.wf f.picture = true) : SourceOk (x.push f) := by
  obtain ⟨hlen, hwf, hasm⟩ := h
  unfold Source.push
  split
  case isTrue hroom =>
    have : x.fifo.length < 4 := hroom
    refine ⟨by simp; omega, fun g hg => ?_, hasm⟩
    rcases List.mem_append.1 hg with hg | hg
    · exact hwf g hg
    · rw [List.mem_singleton.1 hg]; exact hf
  case isFalse hfull =>
    have : ¬ x.fifo.length < 4 := hfull
    refine ⟨by simp; omega, fun g hg => ?_, hasm⟩
    rcases List.mem_append.1 hg with hg | hg
    · exact hwf g (List.mem_of_mem_drop hg)
    · rw [List.mem_singleton.1 hg]; exact hf

theorem sourceOk_header {x : Source} (hdr : Option FrameHdr) (h : SourceOk x) : SourceOk (x.header hdr) := by
  have hd := sourceOk_discard h
  unfold Source.header
  split
  · split
    · exact hd
    case isFalse hcount =>
      obtain ⟨hlen, hwf, -⟩ := hd
      refine ⟨hlen, hwf, fun a ha => ?_⟩
      obtain rfl := Option.some.inj ha
      exact ⟨rfl, List.nodup_nil, by simp, Nat.pos_of_ne_zero hcount⟩
  · exact hd

/-- The assembly with one unit more: complete, its frame goes into the FIFO; else it stays open. -/
theorem sourceOk_received {x : Source} {a b : Assembly} {index : Nat} (h : SourceOk x) (ha : x.asm = some a)
    (hnew : a.takes index = true) (hu : b.units = index :: a.units) (hh : b.hdr = a.hdr)
    (hp : Picture.wf a.picture = true → Picture.wf b.picture = true) : SourceOk (x.received b) := by
  obtain ⟨hlen, hwf, hasm⟩ := h
  obtain ⟨hpic, hnodup, hbelow, hshort⟩ := hasm a ha
  simp only [Assembly.takes, Bool.and_eq_true, decide_eq_true_eq, Bool.not_eq_true', List.contains_eq_mem,
    decide_eq_false_iff_not] at hnew
  obtain ⟨hindex, hnot⟩ := hnew
  unfold Source.received
  split
  case isTrue => exact sourceOk_push ⟨hlen, hwf, by simp⟩ (hp hpic)
  case isFalse hpart =>
    refine ⟨hlen, hwf, fun c hc => ?_⟩
    obtain rfl := Option.some.inj hc
    rw [hu, hh] at *
    refine ⟨hp hpic, List.nodup_cons.2 ⟨hnot, hnodup⟩, fun u hmem => ?_, ?_⟩
    · rcases List.mem_cons.1 hmem with rfl | hmem
      · exact hindex
      · exact hbelow u hmem
    · rw [List.length_cons] at hpart ⊢; omega

/-- Storing samples changes the picture and the sums, and keeps the picture's form. -/
theorem samples_facts (line pos : Nat) (l : List (BitVec 10)) (a : Assembly) :
    (a.samples line pos l).hdr = a.hdr ∧ (Picture.wf a.picture = true → Picture.wf (a.samples line pos l).picture = true) := by
  induction l generalizing pos a with
  | nil => exact ⟨rfl, id⟩
  | cons v vs ih =>
    obtain ⟨hhdr, hpic⟩ := ih (pos + 1) (a.sample line pos v)
    have hone : (a.sample line pos v).hdr = a.hdr ∧
        (Picture.wf a.picture = true → Picture.wf (a.sample line pos v).picture = true) := by
      unfold Assembly.sample
      split
      · exact ⟨rfl, picture_wf_write _ v⟩
      · exact ⟨rfl, id⟩
    exact ⟨hhdr.trans hone.1, hpic ∘ hone.2⟩

theorem sourceOk_video {x : Source} (p : Option VideoPkt) (h : SourceOk x) : SourceOk (x.video p) := by
  unfold Source.video
  split
  case h_1 v a ha =>
    split
    case isTrue hnew =>
      obtain ⟨hhdr, hpic⟩ := samples_facts v.line v.first v.samples a
      exact sourceOk_received h ha hnew rfl hhdr hpic
    case isFalse => exact h
  case h_2 => exact h

theorem sourceOk_audio {x : Source} (p : Option AudioPkt) (h : SourceOk x) : SourceOk (x.audio p) := by
  unfold Source.audio
  split
  case h_1 v a ha =>
    split
    case isTrue hnew => exact sourceOk_received h ha hnew rfl rfl id
    case isFalse => exact h
  case h_2 => exact h

/-! ## The intake of a channel -/

theorem intakeOk_modSource {i : Intake} (k : SrcId) {f : Source → Source} (hf : ∀ x, SourceOk x → SourceOk (f x))
    (h : IntakeOk i) : IntakeOk (i.modSource k f) := by
  obtain ⟨hmain, ha, hb⟩ := h
  cases k
  · exact ⟨hf _ hmain, ha, hb⟩
  · exact ⟨hmain, hf _ ha, hb⟩
  · exact ⟨hmain, ha, hf _ hb⟩

theorem sourceOk_playerTake (n : Nat) {x : Source} (h : SourceOk x) : SourceOk (playerTake n x).1 :=
  sourceOk_of_sublist h List.filter_sublist (.inl rfl)

theorem intakeOk_mainTake (depth : Nat) {i : Intake} (h : IntakeOk i) : IntakeOk (mainTake depth i) := by
  obtain ⟨hmain, ha, hb⟩ := h
  have htaken : ∀ n, SourceOk { i.main with dropped := n, fifo := (i.main.fifo.drop (i.main.fifo.length - (depth + 1))).drop 1 } :=
    fun n => sourceOk_of_sublist hmain ((List.drop_sublist _ _).trans (List.drop_sublist _ _)) (.inl rfl)
  unfold mainTake
  dsimp only
  split <;> exact ⟨htaken _, ha, hb⟩

theorem intakeOk_taken (depth n : Nat) {i : Intake} (h : IntakeOk i) : IntakeOk (i.taken depth n) := by
  obtain ⟨hmain, -, -⟩ := intakeOk_mainTake depth h
  obtain ⟨-, ha, hb⟩ := h
  exact ⟨hmain, sourceOk_playerTake n ha, sourceOk_playerTake n hb⟩

theorem intakeOk_reset : IntakeOk Intake.reset := by simp [IntakeOk, SourceOk, Intake.reset, Source.reset]

theorem intakeOk_clearCounts {c : Chan} (h : IntakeOk c.intake) : IntakeOk c.clearCounts.intake := h

/-! ## Graphics -/

theorem storeBytes_facts (offset limit : Nat) (l : List Byte) (m : List Host.Cell) (hl : offset + l.length ≤ limit)
    (hrise : risingBelow 0 m = true) (hm : ∀ x ∈ m, x.1 < limit) :
    risingBelow 0 (storeBytes offset l m) = true ∧ ∀ x ∈ storeBytes offset l m, x.1 < limit := by
  induction l generalizing offset m with
  | nil => exact ⟨hrise, hm⟩
  | cons b bs ih =>
    rw [List.length_cons] at hl
    refine ih (offset + 1) _ (by omega) (risingBelow_cellSet b (Nat.zero_le _) hrise) fun x hx => ?_
    rcases mem_cellSet hx with rfl | hx
    · show offset < limit; omega
    · exact hm x hx

/-- Clamping writes over values, at the places they have. -/
theorem clampSamples_keys (m : List Host.Cell) : (clampSamples m).map (·.1) = m.map (·.1) := by
  induction m using clampSamples.induct with
  | case1 i h j l m ih =>
    unfold clampSamples
    rw [List.map_append, ih]
    split <;> rfl
  | case2 m hm =>
    unfold clampSamples
    split
    · exact absurd rfl (hm _ _ _ _ _)
    · rfl

theorem risingBelow_of_keys {α β : Type} {lo : Nat} {m : List (Nat × α)} {m' : List (Nat × β)} (h : m.map (·.1) = m'.map (·.1)) :
    risingBelow lo m = risingBelow lo m' := by
  induction m generalizing lo m' with
  | nil => cases m' with
    | nil => rfl
    | cons => cases h
  | cons x m ih => cases m' with
    | nil => cases h
    | cons y m' =>
      rw [List.map_cons, List.map_cons, List.cons.injEq] at h
      obtain ⟨hxy, hm⟩ := h
      obtain ⟨i, v⟩ := x
      obtain ⟨j, u⟩ := y
      obtain rfl : i = j := hxy
      simp only [risingBelow, ih hm]

/-- The bytes of a slot stand at rising positions below those expected. -/
theorem graphicOk_iff (g : Graphic) : GraphicOk g ↔
    risingBelow 0 g.bytes = true ∧ (∀ x ∈ g.bytes, x.1 < g.expected) ∧ (g.state = .ready → g.bytes.length = g.expected) := Iff.rfl

theorem graphicOk_reset : GraphicOk Graphic.reset := by simp [GraphicOk, Graphic.reset, cellsRise, risingBelow]

/-- Every slot of a part is in order. -/
def GraphicsOk (s : State) : Prop := ∀ k : Fin 16, GraphicOk s.graphics[k]

theorem graphicsOk_set {s : State} {k : Fin 16} {g : Graphic} (h : GraphicsOk s) (hg : GraphicOk g) :
    GraphicsOk { s with graphics := s.graphics.set k g } := by
  intro j
  by_cases hjk : j = k
  · subst hjk; simpa using hg
  · have : k.val ≠ j.val := fun e => hjk (Fin.ext e.symm)
    simpa [this] using h j

theorem graphicBeginOn_graphics {s : State} (slot w h : Nat) (hs : GraphicsOk s) : GraphicsOk (graphicBeginOn slot w h s).1 := by
  unfold graphicBeginOn
  split <;> [exact hs; skip]
  split <;> [exact hs; skip]
  split <;> [exact hs; exact graphicsOk_set hs ⟨rfl, by simp, by simp⟩]

theorem graphicSegmentOn_graphics {s : State} (slot offset : Nat) (data : List Byte) (hs : GraphicsOk s) :
    GraphicsOk (graphicSegmentOn slot offset data s).1 := by
  unfold graphicSegmentOn
  split <;> [exact hs; rename_i k _]
  dsimp only
  split <;> [exact hs; skip]
  split <;> [exact hs; rename_i hloading]
  split <;> [exact hs; rename_i hfits]
  obtain ⟨hrise, hbelow, -⟩ := hs k
  obtain ⟨hrise', hbelow'⟩ := storeBytes_facts offset _ data _ (Nat.not_lt.1 hfits) hrise hbelow
  exact graphicsOk_set hs ⟨hrise', hbelow', fun hready => absurd ((not_not.1 hloading).symm.trans hready) (by decide)⟩

theorem graphicEndOn_graphics {s : State} (slot : Nat) (hs : GraphicsOk s) : GraphicsOk (graphicEndOn slot s).1 := by
  unfold graphicEndOn
  split <;> [exact hs; rename_i k _]
  dsimp only
  split <;> [exact hs; skip]
  obtain ⟨hrise, hbelow, -⟩ := hs k
  refine graphicsOk_set hs ?_
  split
  case isTrue hall =>
    have hkeys := clampSamples_keys s.graphics[k].bytes
    refine ⟨(risingBelow_of_keys hkeys).trans hrise, fun x hx => ?_, fun _ => ?_⟩
    · have hmem : x.1 ∈ s.graphics[k].bytes.map (·.1) := hkeys ▸ List.mem_map_of_mem hx
      obtain ⟨y, hy, hyx⟩ := List.mem_map.1 hmem
      exact hyx ▸ hbelow y hy
    · have := congrArg List.length hkeys
      rw [List.length_map, List.length_map] at this
      exact this.trans hall
  case isFalse => exact ⟨hrise, hbelow, by simp⟩

end Sys2Proof.Machine

/-! PROOFS. Every operation that a command runs on a channel is sound: it keeps the mode's invariant, the intake's and the store's. -/

namespace Sys2Proof.Machine

open Sys2Proof

/-! ## Sound operations -/

/-- An operation of a channel keeps what goes with the mode, the three sources, and the store with the pool. -/
structure ChanSound (op : Env → W → W) : Prop where
  modes : ∀ env (w : W), ModeOk w.ch.ctl → ModeOk (op env w).ch.ctl
  intake : ∀ env (w : W), IntakeOk w.ch.intake → IntakeOk (op env w).ch.intake
  stores : ∀ env (w : W), w.Holds env (op env w)

theorem intake_of_rest {v w : W} (h : v.rest = w.rest) : v.ch.intake = w.ch.intake := congrArg Prod.fst h

namespace ChanSound

/-- An operation that leaves the intake alone. -/
theorem of_rest {op : Env → W → W} (hrest : ∀ env w, (op env w).rest = w.rest)
    (hmodes : ∀ env (w : W), ModeOk w.ch.ctl → ModeOk (op env w).ch.ctl) (hstores : ∀ env (w : W), w.Holds env (op env w)) : ChanSound op :=
  ⟨hmodes, fun env w h => by rwa [intake_of_rest (hrest env w)], hstores⟩

/-- An operation that leaves the intake and the Channel Controller's rule alone. -/
theorem of_rule {op : Env → W → W} (hrest : ∀ env w, (op env w).rest = w.rest) (hrule : ∀ env w, (op env w).rule = w.rule)
    (hstores : ∀ env (w : W), w.Holds env (op env w)) : ChanSound op :=
  of_rest hrest (fun env w => (modeOk_congr (hrule env w)).2) hstores

/-- An operation of the Sequencer, a player or the Trigger Unit. -/
theorem of_base {op : Env → W → W} (hbase : ∀ env w, (op env w).base = w.base) (hstores : ∀ env (w : W), w.Follows (op env w)) :
    ChanSound op :=
  of_rule (fun env w => have ⟨_, _, hrest, _⟩ := base_parts (hbase env w); hrest) (fun env w => W.base_rule (hbase env w))
    fun env w => holds_of_follows (hstores env w)

theorem id : ChanSound fun _ w => w := of_base (fun _ _ => rfl) fun _ w => W.Follows.refl w

theorem comp {f g : Env → W → W} (hf : ChanSound f) (hg : ChanSound g) : ChanSound fun env w => g env (f env w) :=
  ⟨fun env w h => hg.modes env _ (hf.modes env w h), fun env w h => hg.intake env _ (hf.intake env w h),
    fun env w => (hf.stores env w).trans (hg.stores env _)⟩

theorem ite {f g : Env → W → W} (b : Env → W → Prop) [∀ env w, Decidable (b env w)] (hf : ChanSound f) (hg : ChanSound g) :
    ChanSound fun env w => if b env w then f env w else g env w := by
  refine ⟨fun env w h => ?_, fun env w h => ?_, fun env w => ?_⟩
  all_goals split
  · exact hf.modes env w h
  · exact hg.modes env w h
  · exact hf.intake env w h
  · exact hg.intake env w h
  · exact hf.stores env w
  · exact hg.stores env w

theorem followed {after op : Env → W → W} (ha : ChanSound after) (ho : ChanSound op) : ChanSound (followed after op) :=
  let both := ho.comp ha
  ⟨fun env w h => by unfold Machine.followed; dsimp only; split <;> [exact ho.modes env w h; exact both.modes env w h],
    fun env w h => by unfold Machine.followed; dsimp only; split <;> [exact ho.intake env w h; exact both.intake env w h],
    fun env w => by unfold Machine.followed; dsimp only; split <;> [exact ho.stores env w; exact both.stores env w]⟩

/-! ### The Sequencer, the players and the Trigger Unit -/

theorem pump : ChanSound pump := of_base pump_base fun env w => pump_follows env (W.Follows.refl w)
theorem settle : ChanSound settle := of_base settle_base fun env w => settle_follows env (W.Follows.refl w)
theorem settled : ChanSound settled := of_base settled_base fun env w => settled_follows env (W.Follows.refl w)
theorem syncLife : ChanSound fun _ => syncLife := of_base (fun _ => syncLife_base) fun _ w => syncLife_follows (W.Follows.refl w)
theorem cueWindow : ChanSound cueWindow := of_base cueWindow_base fun env w => cueWindow_follows env (W.Follows.refl w)
theorem lateCue : ChanSound lateCue := of_base lateCue_base fun env w => lateCue_follows env (W.Follows.refl w)
theorem itemLost : ChanSound itemLost := of_base itemLost_base fun env w => itemLost_follows env (W.Follows.refl w)
theorem playerRoll (p : PlayerId) : ChanSound fun env => playerRoll env p :=
  of_base (fun env => playerRoll_base env p) fun env w => playerRoll_follows env p (W.Follows.refl w)
theorem playerEnd (p : PlayerId) : ChanSound fun env => playerEnd env p :=
  of_base (fun env => playerEnd_base env p) fun env w => playerEnd_follows env p (W.Follows.refl w)
theorem stopFrame (p : PlayerId) : ChanSound fun env => stopFrame env p :=
  of_base (fun env => stopFrame_base env p) fun env w => stopFrame_follows env p (W.Follows.refl w)
theorem replyTimeout (p : PlayerId) : ChanSound fun env => replyTimeout env p :=
  of_base (fun env => replyTimeout_base env p) fun env w => replyTimeout_follows env p (W.Follows.refl w)
theorem stall (p : PlayerId) : ChanSound fun env => stall env p :=
  of_base (fun env => stall_base env p) fun env w => stall_follows env p (W.Follows.refl w)
theorem probe (p : PlayerId) : ChanSound fun env => probe env p :=
  of_base (fun env => probe_base env p) fun env w => probe_follows env p (W.Follows.refl w)
theorem sendNext (p : PlayerId) : ChanSound fun env => sendNext env p :=
  of_base (fun env => sendNext_base env p) fun env w => sendNext_follows env p (W.Follows.refl w)
theorem takePointer : ChanSound takePointer := of_base takePointer_base fun env w => takePointer_follows env (W.Follows.refl w)
theorem sweepQuery : ChanSound sweepQuery := of_base sweepQuery_base fun env w => sweepQuery_follows env (W.Follows.refl w)
theorem shadowStart : ChanSound shadowStart := of_base shadowStart_base fun env w => shadowStart_follows env (W.Follows.refl w)
theorem shadowEnd : ChanSound shadowEnd := of_base shadowEnd_base fun env w => shadowEnd_follows env (W.Follows.refl w)
theorem shadowRejoin : ChanSound shadowRejoin := of_base shadowRejoin_base fun env w => shadowRejoin_follows env (W.Follows.refl w)
theorem triggerAct : ChanSound triggerAct := of_base triggerAct_base fun env w => triggerAct_follows env (W.Follows.refl w)
theorem playersLeave : ChanSound playersLeave := of_base playersLeave_base fun env w => playersLeave_follows env (W.Follows.refl w)
theorem othersLeave : ChanSound othersLeave := of_base othersLeave_base fun env w => othersLeave_follows env (W.Follows.refl w)
theorem droppedRecords : ChanSound droppedRecords :=
  of_base droppedRecords_base fun env w => droppedRecords_follows env (W.Follows.refl w)
theorem spentRecords : ChanSound spentRecords := of_base spentRecords_base fun env w => spentRecords_follows env (W.Follows.refl w)
theorem nextOnAir : ChanSound nextOnAir := of_base nextOnAir_base fun env w => nextOnAir_follows env (W.Follows.refl w)

/-! ### The Channel Controller and the Feed Monitor -/

theorem joiningStart : ChanSound joiningStart :=
  of_rest joiningStart_rest (fun _ _ => joiningStart_modeOk) fun _ _ => joiningStart_holds
theorem joiningTarget : ChanSound joiningTarget :=
  of_rest joiningTarget_rest (fun _ _ => joiningTarget_modeOk) fun _ _ => joiningTarget_holds
theorem handbackTarget : ChanSound handbackTarget :=
  of_rest handbackTarget_rest (fun _ _ => handbackTarget_modeOk) fun _ _ => handbackTarget_holds
theorem breakStart : ChanSound breakStart := of_rest breakStart_rest (fun _ _ => breakStart_modeOk) fun _ _ => breakStart_holds
theorem breakExpiry : ChanSound breakExpiry := of_rest breakExpiry_rest (fun _ _ => breakExpiry_modeOk) fun _ _ => breakExpiry_holds
theorem breakEnd : ChanSound breakEnd := of_rest breakEnd_rest (fun _ _ => breakEnd_modeOk) fun _ _ => breakEnd_holds
theorem handbackOn (cause : SwitchCause) (target : Target) (force : Bool) :
    ChanSound fun env w => (handbackOn cause target force env w).1 :=
  of_rest (handbackOn_rest _ _ _) (fun _ _ => handbackOn_modeOk _ _ _) fun _ _ => handbackOn_holds _ _ _
theorem handbackAskOn (target : Target) : ChanSound fun env w => (handbackAskOn target env w).1 :=
  of_rest (handbackAskOn_rest _) (fun _ _ => handbackAskOn_modeOk _) fun _ _ => handbackAskOn_holds _
theorem takeoverOn (target : Target) (force : Bool) : ChanSound fun env w => (takeoverOn target force env w).1 :=
  of_rest (takeoverOn_rest _ _) (fun _ _ => takeoverOn_modeOk _ _) fun _ _ => takeoverOn_holds _ _
theorem handoverOn (day : Nat) (l : Label) : ChanSound fun env w => (handoverOn day l env w).1 :=
  of_rest (handoverOn_rest _ _) (fun _ _ => handoverOn_modeOk _ _) fun _ _ => handoverOn_holds _ _
theorem breakInOn (handle inPoint : Nat) (duration : Option Nat) (mode : Option BreakMode) :
    ChanSound fun env w => (breakInOn handle inPoint duration mode env w).1 :=
  of_rest (breakInOn_rest _ _ _ _) (fun _ _ => breakInOn_modeOk _ _ _ _) fun _ _ => breakInOn_holds _ _ _ _
theorem resumeOn (mode : Option ResumeReq) : ChanSound fun env w => (resumeOn mode env w).1 :=
  of_rest (resumeOn_rest _) (fun _ _ => resumeOn_modeOk _) fun _ _ => resumeOn_holds _
theorem monitorSuspect : ChanSound monitorSuspect :=
  of_rest monitorSuspect_rest (fun _ _ => monitorSuspect_modeOk) fun _ _ => monitorSuspect_holds
theorem monitorFailed : ChanSound monitorFailed :=
  of_rest monitorFailed_rest (fun _ _ => monitorFailed_modeOk) fun _ _ => monitorFailed_holds
theorem monitorHealthy : ChanSound monitorHealthy :=
  of_rest monitorHealthy_rest (fun _ _ => monitorHealthy_modeOk) fun _ _ => monitorHealthy_holds
theorem evaluate (bad : Bool) : ChanSound fun env => evaluate env bad :=
  of_rest (fun env => evaluate_rest env bad) (fun _ _ => evaluate_modeOk bad) fun _ _ => evaluate_holds bad
theorem advisoryRaise (i : Fin 8) : ChanSound fun env => advisoryRaise env i :=
  of_rule (fun env => advisoryRaise_rest env i) (fun env => advisoryRaise_rule env i) fun _ _ =>
    holds_of_store (advisoryRaise_store i)

theorem resetChannelOn : ChanSound resetChannelOn := by
  refine ⟨fun _ _ _ => resetChannelOn_modeOk, fun env w _ => ?_, fun _ _ => resetChannelOn_holds⟩
  have : (Machine.resetChannelOn env w).ch.intake = Intake.reset := by
    unfold Machine.resetChannelOn
    exact intake_of_rest (record_rest _ _ _ _ _ _ _ _ _)
  rw [this]
  exact intakeOk_reset

/-! ### The Mirror Engine -/

theorem mirrorBatchOn (seq : Nat) (bytes : List Byte) : ChanSound fun env w => (mirrorBatchOn seq bytes env w).1 :=
  of_rule (mirrorBatchOn_rest _ _) (mirrorBatchOn_rule _ _) fun _ _ => mirrorBatchOn_holds _ _
theorem refreshOpenOn (seq : Nat) : ChanSound fun env w => (refreshOpenOn seq env w).1 :=
  of_rule (refreshOpenOn_rest _) (refreshOpenOn_rule _) fun _ _ => refreshOpenOn_holds _
theorem refreshCloseOn (seq count sum : Nat) : ChanSound fun env w => (refreshCloseOn seq count sum env w).1 :=
  of_rule (refreshCloseOn_rest _ _ _) (refreshCloseOn_rule _ _ _) fun _ _ => refreshCloseOn_holds _ _ _
theorem refreshTimeout : ChanSound refreshTimeout := of_rule refreshTimeout_rest refreshTimeout_rule fun _ _ => refreshTimeout_holds
theorem refreshTick : ChanSound fun _ => refreshTick :=
  of_rule (fun _ => refreshTick_rest) (fun _ => refreshTick_rule) fun _ _ => refreshTick_holds
theorem resetNotice : ChanSound resetNotice :=
  of_rule (fun env => refreshNeeded_rest env .reset) (fun env => refreshNeeded_rule env .reset) fun _ _ => holds_refreshNeeded _
theorem goStale : ChanSound goStale := of_rule goStale_rest goStale_rule fun _ _ => goStale_holds
theorem goCurrent : ChanSound goCurrent := of_rule goCurrent_rest goCurrent_rule fun _ _ => goCurrent_holds
theorem digestScanEnd : ChanSound digestScanEnd := of_rule digestScanEnd_rest digestScanEnd_rule fun _ _ => digestScanEnd_holds
theorem scanTick : ChanSound scanTick := of_rule scanTick_rest scanTick_rule fun _ _ => scanTick_holds
theorem digestCheckOn (addr : Option (Port × Nat)) (tag channel key count sum : Nat) :
    ChanSound (digestCheckOn addr tag channel key count sum) :=
  of_rule (digestCheckOn_rest _ _ _ _ _ _) (digestCheckOn_rule _ _ _ _ _ _) fun _ _ => digestCheckOn_holds _ _ _ _ _ _

/-! ### The replies of the players (R106 to R109, R111, R119) -/

theorem endFlight (p : PlayerId) : ChanSound fun _ w => w.modPlayer p fun x => { x with flight := none } :=
  of_base (fun _ _ => rfl) fun _ w => modPlayer_follows p _ (W.Follows.refl w)

theorem replied (p : PlayerId) (tag : Nat) {act : Flight → Env → W → W} (h : ∀ f, ChanSound (act f)) :
    ChanSound (replied p tag act) := by
  have hall := fun f => ((((endFlight p).comp (h f)).comp (sendNext p)).comp takePointer).comp pump
  refine ⟨fun env w hw => ?_, fun env w hw => ?_, fun env w => ?_⟩
  all_goals unfold Machine.replied; split <;> [split; skip]
  · exact (hall _).modes env w hw
  · exact hw
  · exact hw
  · exact (hall _).intake env w hw
  · exact hw
  · exact hw
  · exact (hall _).stores env w
  · exact W.Holds.refl _ _
  · exact W.Holds.refl _ _

theorem onCued (p : PlayerId) (f : Flight) : ChanSound (onCued p f) := by
  refine of_rule (onCued_rest p f) (onCued_rule p f) fun env w => holds_of_follows ?_
  unfold Machine.onCued
  dsimp only
  split
  · split <;> [exact W.Follows.refl w; skip]
    split
    · exact modPlayer_follows _ _ (W.Follows.refl w)
    · exact itemReturned_follows _ _ _ (stopAtOnce_follows _ _ _ (W.Follows.refl w))
  · exact W.Follows.refl w

theorem onCueFailed (p : PlayerId) (reason : CueReason) (f : Flight) : ChanSound (onCueFailed p reason f) := by
  refine of_rule (onCueFailed_rest p reason f) (onCueFailed_rule p reason f) fun env w => holds_of_follows ?_
  have hclear := clearCue_follows p .idle (W.Follows.refl w)
  unfold Machine.onCueFailed
  dsimp only
  split
  · split <;> [exact W.Follows.refl w; skip]
    split
    · exact itemReturned_follows _ _ _ hclear
    · split <;> split
      · exact itemAgain_follows _ _ _ _ (setReadiness_follows _ _ hclear)
      · exact itemAgain_follows _ _ _ _ (setReadiness_follows _ _ hclear)
      · exact itemAgain_follows _ _ _ _ hclear
      · exact itemAgain_follows _ _ _ _ hclear
  · exact W.Follows.refl w

theorem onStopped (p : PlayerId) (f : Flight) : ChanSound (onStopped p f) := by
  refine of_rule (onStopped_rest p f) (onStopped_rule p f) fun env w => holds_of_follows ?_
  unfold Machine.onStopped
  dsimp only
  split
  · split <;> [exact clearCue_follows _ _ (W.Follows.refl w); skip]
    split <;> [exact modPlayer_follows _ _ (W.Follows.refl w); exact W.Follows.refl w]
  · exact W.Follows.refl w

theorem onAnswer (p : PlayerId) (found : Bool) (length : Nat) (f : Flight) : ChanSound (onAnswer p found length f) := by
  refine of_rule (onAnswer_rest p found length f) (onAnswer_rule p found length f) fun env w => holds_of_follows ?_
  have hsweep := abandonSweep_follows (W.Follows.refl w)
  unfold Machine.onAnswer
  split <;> [exact W.Follows.refl w; skip]
  split <;> [exact notice_follows _ _ _ (modPlayer_follows _ _ (W.Follows.refl w)); skip]
  split
  · split <;> [skip; exact W.Follows.refl w]
    dsimp only
    split <;> [exact setReadiness_follows _ _ hsweep; exact hsweep]
  · exact W.Follows.refl w

/-! ### Parameters, windows and the time -/

theorem windowSetOn (enabled : Bool) (slot x y alpha blink : Nat) :
    ChanSound fun env w => (windowSetOn enabled slot x y alpha blink env w).1 := by
  refine of_rule (fun env w => ?_) (fun env w => ?_) fun env w => holds_of_follows ?_
  all_goals unfold Machine.windowSetOn; split
  all_goals first | rfl | exact modWindow_follows _ (W.Follows.refl w) | exact W.Follows.refl w

theorem stepChan : ChanSound stepChan := (((shadowEnd.comp settle).comp joiningStart).comp shadowStart).comp pump

theorem leadChanged : ChanSound leadChanged := (joiningStart.comp breakExpiry).comp pump

theorem standbyChanged : ChanSound standbyChanged :=
  ite (fun env _ => env.cp.standby = .hot) (shadowStart.comp pump) shadowEnd

theorem classChanged (n : Nat) (before : AttrClass) : ChanSound (classChanged n before) := by
  refine of_rule (fun env w => ?_) (fun env w => ?_) fun env w => holds_of_store ?_
  all_goals unfold Machine.classChanged; split <;> [(split <;> rfl); rfl]

theorem paramChanged (p : ChanParam) (before : ChanParams) : ChanSound (paramChanged p before) := by
  cases p
  case prerollLead | cueMargin => exact leadChanged
  case standby => exact standbyChanged
  case sweepDepth => exact pump
  case attrClass n => exact classChanged n _
  all_goals exact id

/-! ### The work of a period -/

theorem anchorFromStamp : ChanSound anchorFromStamp := by
  refine of_rule anchorFromStamp_rest anchorFromStamp_rule fun env w => ?_
  unfold Machine.anchorFromStamp
  split
  · refine W.Holds.then ?_ (realignCompare_follows _ (settle_follows _ (W.Follows.refl _)))
    exact fun h => ⟨h, fun ha => ⟨ha, fun hn => hn⟩⟩
  · exact holds_of_follows (settle_follows _ (W.Follows.refl w))

theorem takes : ChanSound takes := by
  refine ⟨fun _ _ h => h, fun env w h => ?_, fun _ _ => holds_of_store rfl⟩
  have : (Machine.takes env w).ch.intake = w.ch.intake.taken env.cp.alignDepth env.now.toNat :=
    congrArg Prod.fst (takes_rest env w)
  rw [this]
  exact intakeOk_taken _ _ h

theorem counts : ChanSound fun env w => w.modSeq fun q =>
    { q with a := q.a.tick env.now, b := q.b.tick env.now, onAir := q.onAir.map fun o => { o with framesIn := o.framesIn + 1 } } :=
  of_base (fun _ _ => rfl) fun _ w => modSeq_follows _ (W.Follows.refl w)

theorem chanTick : ChanSound chanTick := (refreshTick.comp refreshTimeout).comp counts

theorem chanAir : ChanSound chanAir := by
  have h := (((((((((breakStart.comp playersLeave).comp othersLeave).comp droppedRecords).comp joiningTarget).comp
    handbackTarget).comp breakEnd).comp (playerRoll .a)).comp (playerRoll .b)).comp nextOnAir).comp spentRecords
  delta Machine.chanAir
  exact h

theorem chanFeed (bad : Bool) : ChanSound (chanFeed bad) := by
  have h := ((((((((takes.comp syncLife).comp anchorFromStamp).comp (evaluate bad)).comp (stall .a)).comp (stall .b)).comp
    (replyTimeout .a)).comp (replyTimeout .b)).comp (probe .a)).comp (probe .b)
  delta Machine.chanFeed
  exact h

theorem chanDue : ChanSound chanDue := by
  have h := ((((((joiningStart.comp breakExpiry).comp shadowStart).comp shadowRejoin).comp takePointer).comp pump).comp
    scanTick).comp triggerAct
  delta Machine.chanDue
  exact h

theorem chanPeriod (bad : Bool) : ChanSound (chanPeriod bad) := by
  have h := ((chanTick.comp chanAir).comp (chanFeed bad)).comp chanDue
  delta Machine.chanPeriod
  exact h

end ChanSound

end Sys2Proof.Machine

/-! PROOFS. The configuration (R69 to R71, R156, R157, R193, R196): what a request may load or set stays within the ranges of a retained
image, and an image that is loaded is valid or the default. -/

namespace Sys2Proof.Machine

open Sys2Proof

/-! ## Parameters (R193) -/

theorem PartParams.get_put (x : PartParams) (v : Nat) (p q : PartParam) :
    (x.put v p).get q = if q = p then (x.put v p).get p else x.get q := by
  cases p <;> cases q <;> rfl

theorem within_iff {lo hi v : Nat} : within lo hi v = true ↔ lo ≤ v ∧ v ≤ hi := by simp [within]

theorem rateNum_le (r : RateCode) : rateNum r ≤ 3 := by cases r <;> decide

theorem classNum_le (c : AttrClass) : classNum c ≤ 2 := by cases c <;> decide

/-- A value that a part-wide parameter admits is admitted as it reads back. -/
theorem PartParam.admits_put {x : PartParams} {v : Nat} {p : PartParam} (hv : PartParam.admits p v = true) :
    PartParam.admits p ((x.put v p).get p) = true := by
  cases p
  case rateCode => exact within_iff.2 ⟨Nat.zero_le _, rateNum_le _⟩
  all_goals exact hv

theorem attrAt_attrPut (as : Vector AttrParam 8) (n m : Nat) (f : AttrParam → AttrParam) :
    attrAt (attrPut as n f) m = if m = n ∧ n < 8 then f (attrAt as n) else attrAt as m := by
  unfold attrAt attrPut
  by_cases hn : n < 8
  · by_cases hm : m < 8
    · simp only [hn, hm, dite_true, and_true]
      by_cases hmn : m = n
      · subst hmn; simp
      · rw [if_neg hmn, Vector.getElem_set_ne _ _ (Ne.symm hmn)]
    · have : m ≠ n := by omega
      simp [hm, this]
  · simp [hn]

theorem ChanParams.get_put (x : ChanParams) (v : Nat) (p q : ChanParam) :
    (x.put v p).get q = if q = p then (x.put v p).get p else x.get q := by
  by_cases hqp : q = p
  · subst hqp; simp
  · rw [if_neg hqp]
    cases p
    case attrClass n =>
      cases q
      case attrClass m =>
        have hmn : m ≠ n := fun e => hqp (congrArg ChanParam.attrClass e)
        simp only [ChanParams.put, ChanParams.get, attrAt_attrPut, hmn, false_and, if_false]
      case attrThreshold m =>
        simp only [ChanParams.put, ChanParams.get, attrAt_attrPut]
        split
        case isTrue h => rw [h.1]
        case isFalse => rfl
      all_goals rfl
    case attrThreshold n =>
      cases q
      case attrThreshold m =>
        have hmn : m ≠ n := fun e => hqp (congrArg ChanParam.attrThreshold e)
        simp only [ChanParams.put, ChanParams.get, attrAt_attrPut, hmn, false_and, if_false]
      case attrClass m =>
        simp only [ChanParams.put, ChanParams.get, attrAt_attrPut]
        split
        case isTrue h => rw [h.1]
        case isFalse => rfl
      all_goals rfl
    all_goals cases q <;> first | rfl | exact absurd rfl hqp

theorem attrThreshold_outside (as : Vector AttrParam 8) {n : Nat} (h : ¬ n < 8) : attrAt as n = { cls := .off, threshold := 1 } := by
  simp [attrAt, h]

/-- A value that a per-channel parameter admits is admitted as it reads back. -/
theorem ChanParam.admits_put {x : ChanParams} {v : Nat} {p : ChanParam} (hv : ChanParam.admits p v = true) :
    ChanParam.admits p ((x.put v p).get p) = true := by
  have hbit : ∀ (b : Prop) [Decidable b], within 0 1 (if b then 0 else 1) = true := fun b _ => by split <;> rfl
  cases p
  case policy => exact hbit _
  case standby => exact hbit _
  case resumeMode => exact hbit _
  case permission => show within 0 1 (if decide (v = 1) = true then 1 else 0) = true; split <;> rfl
  case fill =>
    refine within_iff.2 ⟨Nat.zero_le _, ?_⟩
    show fillNum (fillOf v) ≤ 16
    unfold fillOf
    split
    · exact Nat.zero_le _
    · simp only [fillNum, Fin.val_ofNat]; omega
  case attrClass n => exact within_iff.2 ⟨Nat.zero_le _, classNum_le _⟩
  case attrThreshold n =>
    by_cases hn : n < 8
    · simpa [ChanParams.put, ChanParams.get, attrAt_attrPut, hn] using hv
    · simp only [ChanParams.put, ChanParams.get, attrThreshold_outside _ hn]; rfl
  all_goals exact hv

theorem params_inRange_iff (p : Params) : p.inRange = true ↔
    (∀ x, PartParam.admits x (p.part.get x) = true) ∧ ∀ (c : Ch) x, ChanParam.admits x (p.chans[c].get x) = true := by
  have hpart : (PartParam.all.all fun x => PartParam.admits x (p.part.get x)) = true ↔
      ∀ x, PartParam.admits x (p.part.get x) = true := by
    rw [List.all_eq_true]
    exact ⟨fun h x => h x (by cases x <;> decide), fun h x _ => h x⟩
  have hchan : ∀ c : ChanParams, (ChanParam.all.all fun x => ChanParam.admits x (c.get x)) = true ↔
      ∀ x, ChanParam.admits x (c.get x) = true := by
    intro c
    rw [List.all_eq_true]
    refine ⟨fun h x => ?_, fun h x _ => h x⟩
    cases x
    case attrClass n => exact within_iff.2 ⟨Nat.zero_le _, classNum_le _⟩
    case attrThreshold n =>
      by_cases hn : n < 8
      · exact h _ (by simp [ChanParam.all, hn])
      · simp only [ChanParams.get, attrThreshold_outside _ hn]; rfl
    all_goals exact h _ (by simp [ChanParam.all])
  simp only [Params.inRange, Bool.and_eq_true, hpart, List.all_eq_true, hchan]
  refine and_congr_right fun _ => ⟨fun h c => h _ (by simp [Vector.mem_toList_iff]), fun h c hc => ?_⟩
  obtain ⟨i, hi, rfl⟩ := Vector.getElem_of_mem (Vector.mem_toList_iff.1 hc)
  exact h ⟨i, hi⟩

theorem inRange_putPart {x : Params} {p : PartParam} {v : Nat} (h : x.inRange = true) (hv : PartParam.admits p v = true) :
    ({ x with part := x.part.put v p } : Params).inRange = true := by
  rw [params_inRange_iff] at h ⊢
  obtain ⟨hpart, hchan⟩ := h
  refine ⟨fun q => ?_, hchan⟩
  show PartParam.admits q ((x.part.put v p).get q) = true
  rw [PartParams.get_put]
  split
  case isTrue hqp => subst hqp; exact PartParam.admits_put hv
  case isFalse => exact hpart q

theorem inRange_putChan {x : Params} {p : ChanParam} {v : Nat} (c : Ch) (h : x.inRange = true) (hv : ChanParam.admits p v = true) :
    ({ x with chans := x.chans.set c (x.chans[c].put v p) } : Params).inRange = true := by
  rw [params_inRange_iff] at h ⊢
  obtain ⟨hpart, hchan⟩ := h
  refine ⟨hpart, fun d q => ?_⟩
  by_cases hdc : d = c
  · subst hdc
    have : (x.chans.set d (x.chans[d].put v p))[d] = x.chans[d].put v p := by simp
    simp only [this]
    rw [ChanParams.get_put]
    split
    case isTrue hqp => subst hqp; exact ChanParam.admits_put hv
    case isFalse => exact hchan d q
  · have hne : c.val ≠ d.val := fun e => hdc (Fin.ext e.symm)
    have : (x.chans.set c (x.chans[c].put v p))[d] = x.chans[d] := by simp [hne]
    simp only [this]
    exact hchan d q

/-! ## The flow table (R69 to R71) -/

theorem flowTableOk_iff (fl : List FlowEntry) : FlowTableOk fl ↔
    ((fl.map (·.tag)).Nodup ∧ (fl.map fun e => (e.role, e.channel)).Nodup) ∧ (∀ e ∈ fl, flowFormed e = true) ∧ fl.length ≤ 64 ∧
      ∃ e ∈ fl, e.role = .localCtl := by
  simp [FlowTableOk, flowsUnique]

theorem flowFormed_iff (e : FlowEntry) :
    flowFormed e = true ↔ (0 < e.tag ∧ e.tag < two16) ∧ roleHasChannel e.role = e.channel.isSome := by
  simp [flowFormed]

theorem entryByTag_some {fl : List FlowEntry} {tag : Nat} {e : FlowEntry} (h : entryByTag fl tag = some e) :
    e ∈ fl ∧ e.tag = tag :=
  ⟨List.mem_of_find?_eq_some h, by simpa using List.find?_some h⟩

theorem entryByTag_none {fl : List FlowEntry} {tag : Nat} (h : entryByTag fl tag = none) : ∀ e ∈ fl, e.tag ≠ tag := by
  simpa [entryByTag] using h

theorem eq_of_tag {fl : List FlowEntry} (h : (fl.map (·.tag)).Nodup) {x y : FlowEntry} (hx : x ∈ fl) (hy : y ∈ fl)
    (hxy : x.tag = y.tag) : x = y :=
  List.inj_on_of_nodup_map h hx hy hxy

/-- The entries after a FLOW_CLEAR (R71). -/
theorem flowTableOk_clear {fl : List FlowEntry} {tag : Nat} {e : FlowEntry} (h : FlowTableOk fl) (he : entryByTag fl tag = some e)
    (hrole : e.role ≠ .localCtl) : FlowTableOk (fl.filter fun x => decide (x.tag ≠ tag)) := by
  rw [flowTableOk_iff] at h ⊢
  obtain ⟨⟨htags, hroles⟩, hformed, hlen, b, hb, hlocal⟩ := h
  obtain ⟨hmem, htag⟩ := entryByTag_some he
  have hsub := List.filter_sublist (p := fun x : FlowEntry => decide (x.tag ≠ tag)) (l := fl)
  refine ⟨⟨(hsub.map _).nodup htags, (hsub.map _).nodup hroles⟩, fun x hx => hformed x (hsub.subset hx),
    (List.length_filter_le _ _).trans hlen, b, List.mem_filter.2 ⟨hb, ?_⟩, hlocal⟩
  rw [decide_eq_true_eq]
  intro hbt
  exact hrole (eq_of_tag htags hb hmem (hbt.trans htag.symm) ▸ hlocal)

theorem roleTaken_false {fl : List FlowEntry} {tag : Option Nat} {r : Role} {c : Option Ch} (h : roleTaken fl tag r c = false) :
    ∀ x ∈ fl, some x.tag ≠ tag → (x.role, x.channel) ≠ (r, c) := by
  intro x hx htag hrc
  obtain ⟨hr, hc⟩ := Prod.mk.inj hrc
  have := List.any_eq_false.1 h x hx
  simp [htag, hr, hc] at this

/-- A new entry at the table's end (R70). -/
theorem flowTableOk_append {fl : List FlowEntry} {e : FlowEntry} (h : FlowTableOk fl) (hnew : entryByTag fl e.tag = none)
    (hrole : roleTaken fl none e.role e.channel = false) (hroom : fl.length < 64) (hformed : flowFormed e = true) :
    FlowTableOk (fl ++ [e]) := by
  rw [flowTableOk_iff] at h ⊢
  obtain ⟨⟨htags, hroles⟩, hall, hlen, b, hb, hlocal⟩ := h
  refine ⟨⟨?_, ?_⟩, fun x hx => ?_, by simp; omega, b, List.mem_append_left _ hb, hlocal⟩
  · rw [List.map_append]
    refine List.Nodup.append htags (List.nodup_singleton _) ?_
    rw [List.map_singleton, List.disjoint_singleton]
    intro hm
    obtain ⟨x, hx, hxe⟩ := List.mem_map.1 hm
    exact entryByTag_none hnew x hx hxe
  · rw [List.map_append]
    refine List.Nodup.append hroles (List.nodup_singleton _) ?_
    rw [List.map_singleton, List.disjoint_singleton]
    intro hm
    obtain ⟨x, hx, hxe⟩ := List.mem_map.1 hm
    exact roleTaken_false hrole x hx (by simp) hxe
  · rcases List.mem_append.1 hx with hx | hx
    · exact hall x hx
    · rw [List.mem_singleton.1 hx]; exact hformed

theorem rewrite_tags (e : FlowEntry) (fl : List FlowEntry) : (rewrite e.tag e fl).map (·.tag) = fl.map (·.tag) := by
  unfold rewrite
  rw [List.map_map]
  refine List.map_congr_left fun x _ => ?_
  simp only [Function.comp]
  split
  case isTrue h => exact h.symm
  case isFalse => rfl

/-- The roles and channels of a table with one entry rewritten: no other holds the new one. -/
theorem rewrite_roles_nodup {fl : List FlowEntry} {e : FlowEntry} (htags : (fl.map (·.tag)).Nodup)
    (hroles : (fl.map fun e => (e.role, e.channel)).Nodup)
    (hfree : ∀ x ∈ fl, some x.tag ≠ some e.tag → (x.role, x.channel) ≠ (e.role, e.channel)) :
    ((rewrite e.tag e fl).map fun e => (e.role, e.channel)).Nodup := by
  unfold rewrite
  rw [List.map_map]
  refine List.Nodup.map_on (fun x hx y hy hxy => ?_) (List.Nodup.of_map _ htags)
  simp only [Function.comp] at hxy
  split at hxy
  case isTrue hxt =>
    split at hxy
    case isTrue hyt => exact eq_of_tag htags hx hy (hxt.trans hyt.symm)
    case isFalse hyt => exact absurd hxy.symm (hfree y hy (by simpa using hyt))
  case isFalse hxt =>
    split at hxy
    case isTrue hyt => exact absurd hxy (hfree x hx (by simpa using hxt))
    case isFalse hyt => exact List.inj_on_of_nodup_map hroles hx hy hxy

/-- An entry rewritten (R70). -/
theorem flowTableOk_rewrite {fl : List FlowEntry} {e old : FlowEntry} (h : FlowTableOk fl) (hold : entryByTag fl e.tag = some old)
    (holdRole : old.role ≠ .localCtl) (hrole : roleTaken fl (some e.tag) e.role e.channel = false) (hformed : flowFormed e = true) :
    FlowTableOk (rewrite e.tag e fl) := by
  rw [flowTableOk_iff] at h ⊢
  obtain ⟨⟨htags, hroles⟩, hall, hlen, b, hb, hlocal⟩ := h
  obtain ⟨hmem, htag⟩ := entryByTag_some hold
  refine ⟨⟨by rwa [rewrite_tags], rewrite_roles_nodup htags hroles (roleTaken_false hrole)⟩, fun x hx => ?_,
    by simpa [rewrite] using hlen, b, List.mem_map.2 ⟨b, hb, if_neg fun hbt => ?_⟩, hlocal⟩
  · obtain ⟨y, hy, rfl⟩ := List.mem_map.1 hx
    split
    · exact hformed
    · exact hall y hy
  · exact holdRole (eq_of_tag htags hb hmem (hbt.trans htag.symm) ▸ hlocal)

/-- The bootstrap entry with another tag and port. -/
def moved (tag : Nat) (p : Port) (e : FlowEntry) : FlowEntry := if e.role = .localCtl then { e with tag := tag, port := p } else e

theorem moved_role (tag : Nat) (p : Port) (e : FlowEntry) : (moved tag p e).role = e.role ∧ (moved tag p e).channel = e.channel := by
  unfold moved; split <;> exact ⟨rfl, rfl⟩

theorem localCtl_unique {fl : List FlowEntry} (hroles : (fl.map fun e => (e.role, e.channel)).Nodup)
    (hall : ∀ e ∈ fl, flowFormed e = true) {x y : FlowEntry} (hx : x ∈ fl) (hy : y ∈ fl) (hxr : x.role = .localCtl)
    (hyr : y.role = .localCtl) : x = y := by
  have hnone : ∀ z ∈ fl, z.role = .localCtl → z.channel = none := by
    intro z hz hr
    obtain ⟨-, hc⟩ := (flowFormed_iff z).1 (hall z hz)
    rw [hr] at hc
    exact Option.isNone_iff_eq_none.1 (by simpa [roleHasChannel] using hc.symm)
  exact List.inj_on_of_nodup_map hroles hx hy (by simp only [hxr, hyr, hnone x hx hxr, hnone y hy hyr])

/-- The bootstrap entry moved (R70). -/
theorem flowTableOk_moved {fl : List FlowEntry} {tag : Nat} (p : Port) (h : FlowTableOk fl) (hpos : 0 < tag) (hlt : tag < two16)
    (hfree : ∀ e ∈ fl, e.tag = tag → e.role = .localCtl) : FlowTableOk (fl.map (moved tag p)) := by
  rw [flowTableOk_iff] at h ⊢
  obtain ⟨⟨htags, hroles⟩, hall, hlen, b, hb, hlocal⟩ := h
  refine ⟨⟨?_, ?_⟩, fun x hx => ?_, by simpa using hlen, _, List.mem_map_of_mem hb, by rw [(moved_role tag p b).1, hlocal]⟩
  · rw [List.map_map]
    refine List.Nodup.map_on (fun x hx y hy hxy => ?_) (List.Nodup.of_map _ htags)
    simp only [Function.comp, moved] at hxy
    split at hxy
    case isTrue hxr =>
      split at hxy
      case isTrue hyr => exact localCtl_unique hroles hall hx hy hxr hyr
      case isFalse hyr => exact absurd (hfree y hy hxy.symm) hyr
    case isFalse hxr =>
      split at hxy
      case isTrue hyr => exact absurd (hfree x hx hxy) hxr
      case isFalse hyr => exact eq_of_tag htags hx hy hxy
  · rw [List.map_map]
    have : ((fun e : FlowEntry => (e.role, e.channel)) ∘ moved tag p) = fun e => (e.role, e.channel) :=
      funext fun e => by simp only [Function.comp, moved_role tag p e]
    rwa [this]
  · obtain ⟨y, hy, rfl⟩ := List.mem_map.1 hx
    obtain ⟨htag, hchan⟩ := (flowFormed_iff y).1 (hall y hy)
    rw [flowFormed_iff, (moved_role tag p y).1, (moved_role tag p y).2]
    refine ⟨?_, hchan⟩
    unfold moved
    split
    · exact ⟨hpos, hlt⟩
    · exact htag

/-! ## The retained image (R196) -/

theorem config_valid_iff (c : Config) :
    c.valid = true ↔ c.params.inRange = true ∧ FlowTableOk c.flows ∧ TableOk c.table := by
  simp only [Config.valid, FlowTableOk, TableOk, Bool.and_eq_true, decide_eq_true_eq, and_assoc]
  rfl

theorem default_valid : Config.default.valid = true := by decide

theorem load_valid (img : Image) : img.load.1.valid = true := by
  unfold Image.load
  split
  · exact default_valid
  · exact default_valid
  · split
    · exact default_valid
    · split
      case isTrue h => exact h
      case isFalse => exact default_valid

end Sys2Proof.Machine

/-! PROOFS. What every operation of the part keeps: the invariants of the Time Base, the queues and notice numbers, the As-Run Log, the
configuration and the graphic slots, and those of every channel. -/

namespace Sys2Proof.Machine

open Sys2Proof

/-! ## The relation -/

/-- A change of one channel keeps its invariants; `n` records stand in the other channels. -/
structure ChanKeeps (n : Nat) (c d : Chan) : Prop where
  modes : ModeOk c.ctl → ModeOk d.ctl
  intake : IntakeOk c.intake → IntakeOk d.intake
  stores : c.store.Holds n d.store

/-- The invariants of the channels go over from one state to another. -/
structure ChansKeep (s t : State) : Prop where
  modes : (∀ c : Ch, ModeOk s.chans[c].ctl) → ∀ c : Ch, ModeOk t.chans[c].ctl
  intake : (∀ c : Ch, IntakeOk s.chans[c].intake) → ∀ c : Ch, IntakeOk t.chans[c].intake
  stores : (∀ c : Ch, StoreOk s.chans[c].store) → (∀ c : Ch, StoreOk t.chans[c].store) ∧ (PoolOk s → PoolOk t)

/-- The invariants of the part beside its channels go over from one state to another. -/
structure PartsKeep (s t : State) : Prop where
  time : TimeOk s.time → TimeOk t.time
  flows : FlowsOk s → FlowsOk t
  log : LogOk s.log → LogOk t.log
  config : ConfigOk s → ConfigOk t
  graphics : GraphicsOk s → GraphicsOk t

/-- Every invariant goes over from one state to another. -/
structure Keeps (s t : State) : Prop where
  parts : PartsKeep s t
  chans : ChansKeep s t

theorem PartsKeep.refl (s : State) : PartsKeep s s := ⟨id, id, id, id, id⟩

theorem ChansKeep.of_eq {s t : State} (h : t.chans = s.chans) : ChansKeep s t := by
  refine ⟨?_, ?_, ?_⟩
  · rw [h]; exact id
  · rw [h]; exact id
  · unfold PoolOk State.heldAll; rw [h]; exact fun hs => ⟨hs, id⟩

namespace Keeps

theorem refl (s : State) : Keeps s s := ⟨PartsKeep.refl s, ChansKeep.of_eq rfl⟩

theorem trans {s t u : State} (a : Keeps s t) (b : Keeps t u) : Keeps s u where
  parts := ⟨b.parts.time ∘ a.parts.time, b.parts.flows ∘ a.parts.flows, b.parts.log ∘ a.parts.log,
    b.parts.config ∘ a.parts.config, b.parts.graphics ∘ a.parts.graphics⟩
  chans := ⟨b.chans.modes ∘ a.chans.modes, b.chans.intake ∘ a.chans.intake, fun h =>
    have ⟨hstores, hpool⟩ := a.chans.stores h
    have ⟨hstores', hpool'⟩ := b.chans.stores hstores
    ⟨hstores', hpool' ∘ hpool⟩⟩

theorem foldl {α : Type} {f : State → α → State} (hf : ∀ s x, Keeps s (f s x)) (l : List α) (s : State) :
    Keeps s (l.foldl f s) := by
  induction l generalizing s with
  | nil => exact refl s
  | cons x l ih => exact (hf s x).trans (ih _)

end Keeps

/-! ## One part changed -/

/-- What no invariant speaks of: the ports, the site beat timer, the image, the waiting notices, the choices, and what was sent. -/
theorem keeps_of_eq {s t : State} (htime : t.time = s.time) (hflows : t.flows = s.flows) (hparams : t.params = s.params)
    (htable : t.table = s.table) (hgraphics : t.graphics = s.graphics) (hmain : t.inMain = s.inMain) (hlocal : t.inLocal = s.inLocal)
    (hnextMain : t.nextMain = s.nextMain) (hnextLocal : t.nextLocal = s.nextLocal) (hlog : t.log = s.log)
    (hchans : t.chans = s.chans) : Keeps s t := by
  refine ⟨⟨?_, ?_, ?_, ?_, ?_⟩, ChansKeep.of_eq hchans⟩
  · rw [htime]; exact id
  · unfold FlowsOk; rw [hmain, hlocal, hnextMain, hnextLocal]; exact id
  · rw [hlog]; exact id
  · unfold ConfigOk; rw [hparams, hflows, htable]; exact id
  · unfold GraphicsOk; rw [hgraphics]; exact id

theorem keeps_time {s : State} {x : TimeBase} (h : TimeOk s.time → TimeOk x) : Keeps s { s with time := x } :=
  ⟨⟨h, id, id, id, id⟩, ChansKeep.of_eq rfl⟩

theorem keeps_modTime {s : State} {f : TimeBase → TimeBase} (h : TimeOk s.time → TimeOk (f s.time)) : Keeps s (s.modTime f) :=
  keeps_time h

theorem keeps_log {s : State} {l : Log} (h : LogOk s.log → LogOk l) : Keeps s { s with log := l } :=
  ⟨⟨id, id, h, id, id⟩, ChansKeep.of_eq rfl⟩

theorem keeps_graphics {s t : State} (h : GraphicsOk s → GraphicsOk t) (he : t = { s with graphics := t.graphics }) : Keeps s t := by
  rw [he] at h ⊢
  exact ⟨⟨id, id, id, id, h⟩, ChansKeep.of_eq rfl⟩

theorem keeps_params {s : State} {p : Params} (h : s.params.inRange = true → p.inRange = true) : Keeps s { s with params := p } :=
  ⟨⟨id, id, id, fun ⟨hp, hf, ht⟩ => ⟨h hp, hf, ht⟩, id⟩, ChansKeep.of_eq rfl⟩

theorem keeps_flows {s : State} {fl : List FlowEntry} (h : FlowTableOk s.flows → FlowTableOk fl) : Keeps s { s with flows := fl } :=
  ⟨⟨id, id, id, fun ⟨hp, hf, ht⟩ => ⟨hp, h hf, ht⟩, id⟩, ChansKeep.of_eq rfl⟩

theorem keeps_table {s : State} {tb : List (Nat × TrigAction)} (h : TableOk s.table → TableOk tb) : Keeps s { s with table := tb } :=
  ⟨⟨id, id, id, fun ⟨hp, hf, ht⟩ => ⟨hp, hf, h ht⟩, id⟩, ChansKeep.of_eq rfl⟩

theorem keeps_inbound {s : State} {f : CtlFlow} {q : List Request} (h : (s.inbound f).length ≤ 8 → q.length ≤ 8) :
    Keeps s (s.setInbound q f) := by
  refine ⟨⟨?_, fun ⟨hmain, hlocal, hnext⟩ => ?_, ?_, ?_, ?_⟩, ChansKeep.of_eq ?_⟩
  case refine_2 =>
    cases f
    · exact ⟨h hmain, hlocal, hnext⟩
    · exact ⟨hmain, h hlocal, hnext⟩
  all_goals cases f <;> first | exact id | rfl

/-! ## One channel changed -/

theorem sum_set_add (l : List Nat) (i a : Nat) (h : i < l.length) : (l.set i a).sum + l[i] = l.sum + a := by
  induction l generalizing i with
  | nil => cases h
  | cons x l ih =>
    cases i with
    | zero => simp; omega
    | succ i =>
      have := ih i (by simpa using h)
      simp only [List.set_cons_succ, List.sum_cons, List.getElem_cons_succ]
      omega

theorem heldAll_setCh (s : State) (c : Ch) (x : Chan) :
    (s.setCh c x).heldAll + s.chans[c].store.held = s.heldAll + x.store.held := by
  have := sum_set_add (s.chans.toList.map fun c => Store.held c.store) c.val x.store.held (by simp)
  simp only [List.getElem_map, Vector.getElem_toList] at this
  unfold State.heldAll
  rw [← this]
  simp [State.setCh, Vector.toList_set, List.map_set]

theorem held_le_heldAll (s : State) (c : Ch) : s.chans[c].store.held ≤ s.heldAll :=
  List.le_sum_of_mem (List.mem_map.2 ⟨s.chans[c], by simp [Vector.mem_toList_iff], rfl⟩)

theorem setCh_cases (s : State) (c d : Ch) (x : Chan) : (s.setCh c x).chans[d] = if d = c then x else s.chans[d] := by
  split
  case isTrue h => subst h; exact setCh_here s d x
  case isFalse h => exact setCh_others s c x d h

theorem keeps_setCh {s : State} {c : Ch} {x : Chan} (h : ChanKeeps (s.heldAll - s.chans[c].store.held) s.chans[c] x) :
    Keeps s (s.setCh c x) := by
  refine ⟨⟨id, id, id, id, id⟩, fun hs d => ?_, fun hs d => ?_, fun hs => ⟨fun d => ?_, fun ⟨hheld, hapart⟩ => ⟨?_, fun d => ?_⟩⟩⟩
  · rw [setCh_cases]; split <;> [exact h.modes (hs c); exact hs d]
  · rw [setCh_cases]; split <;> [exact h.intake (hs c); exact hs d]
  · rw [setCh_cases]; split <;> [exact (h.stores (hs c)).1; exact hs d]
  · obtain ⟨-, hrest⟩ := h.stores (hs c)
    obtain ⟨-, hroom⟩ := hrest (hapart c)
    have hle := held_le_heldAll s c
    have hsum := heldAll_setCh s c x
    have : s.heldAll - s.chans[c].store.held + x.store.held ≤ 4096 := hroom (by show _ ≤ 4096; omega)
    omega
  · obtain ⟨-, hrest⟩ := h.stores (hs c)
    rw [setCh_cases]; split <;> [exact (hrest (hapart c)).1; exact hapart d]

/-- A change of a channel beside its mode and its store. -/
theorem keeps_setCh_of_eq {s : State} {c : Ch} {x : Chan} (hctl : x.ctl = s.chans[c].ctl) (hstore : x.store = s.chans[c].store)
    (hintake : IntakeOk s.chans[c].intake → IntakeOk x.intake) : Keeps s (s.setCh c x) :=
  keeps_setCh ⟨by rw [hctl]; exact id, hintake, by rw [hstore]; exact Store.Holds.refl _ _⟩

theorem modSource_keeps (s : State) (c : Ch) (k : SrcId) {f : Source → Source} (hf : ∀ x, SourceOk x → SourceOk (f x)) :
    Keeps s (s.modSource c k f) :=
  keeps_setCh_of_eq rfl rfl (intakeOk_modSource k hf)

/-! ## Sending -/

theorem transmit_keeps (s : State) (a : Option (Port × Nat)) (o : Outgoing) : Keeps s (s.transmit a o) := by
  unfold State.transmit
  split
  · exact Keeps.refl s
  · split
    · exact keeps_of_eq rfl rfl rfl rfl rfl rfl rfl rfl rfl rfl rfl
    · exact Keeps.refl s

theorem bumpNotice_keeps (s : State) (f : CtlFlow) : Keeps s (s.bumpNotice f) := by
  have hmod : ∀ n : Nat, (n + 1) % two16 < two16 := fun n => Nat.mod_lt _ (by decide)
  cases f
  · exact ⟨⟨id, fun ⟨h1, h2, _, h4⟩ => ⟨h1, h2, hmod _, h4⟩, id, id, id⟩, ChansKeep.of_eq rfl⟩
  · exact ⟨⟨id, fun ⟨h1, h2, h3, _⟩ => ⟨h1, h2, h3, hmod _⟩, id, id, id⟩, ChansKeep.of_eq rfl⟩

theorem notice_keeps (s : State) (f : CtlFlow) (ch : Nat) (n : Notice) : Keeps s (s.notice f ch n) :=
  (bumpNotice_keeps s f).trans (transmit_keeps _ _ _)

/-! ## The As-Run Log (R179 to R183) -/

/-- The records of the ring number up to the counter. -/
theorem logOk_iff (l : Log) : LogOk l ↔ l.ring.length ≤ 1024 ∧ l.unreported ≤ l.ring.length ∧ l.counter < two32 ∧
    ∀ i < l.ring.length, (l.ring[i]?).map (·.number) = some ((l.counter + two32 - l.ring.length + i) % two32) := by
  unfold LogOk
  refine and_congr_right fun _ => and_congr_right fun _ => and_congr_right fun _ => ⟨fun h i hi => ?_, fun h => ?_⟩
  · have := congrArg (fun m => m[i]?) h
    simpa [hi] using this
  · refine List.ext_getElem (by simp) fun i hi _ => ?_
    have hi' : i < l.ring.length := by simpa using hi
    simpa [hi'] using h i hi'

/-- What the log's invariant reads. -/
theorem logOk_of_eq {l m : Log} (hring : m.ring = l.ring) (hcounter : m.counter = l.counter) (hun : m.unreported ≤ l.unreported)
    (h : LogOk l) : LogOk m := by
  obtain ⟨hlen, hle, hlt, hnumbers⟩ := h
  unfold LogOk
  rw [hring, hcounter]
  exact ⟨hlen, hun.trans hle, hlt, hnumbers⟩

theorem logOk_append {l : Log} (r : RecProto) (h : LogOk l) : LogOk (l.append r) := by
  rw [logOk_iff] at h
  obtain ⟨hlen, hle, hlt, hnumbers⟩ := h
  rw [logOk_iff]
  have htwo : two32 = 4294967296 := rfl
  have hcounter : (l.append r).counter = (l.counter + 1) % two32 := rfl
  by_cases hfull : Config.ringSize ≤ l.ring.length
  · have hfull' : 1024 ≤ l.ring.length := hfull
    have hring : (l.append r).ring = l.ring.drop 1 ++ [{ number := l.counter, body := r, tick := l.tick }] := by
      simp [Log.append, hfull]
    have hun : (l.append r).unreported ≤ l.ring.length := by
      simp only [Log.append, hfull, decide_true, Bool.true_and]
      split
      · exact hle
      case isFalse hlost => simp only [decide_eq_true_eq, not_le] at hlost; exact hlost
    have hlength : (l.append r).ring.length = l.ring.length := by rw [hring]; simp; omega
    rw [hlength, hcounter, hring]
    refine ⟨hlen, hun, Nat.mod_lt _ (by decide), fun i hi => ?_⟩
    by_cases hlast : i < l.ring.length - 1
    · rw [List.getElem?_append_left (by simpa using hlast), List.getElem?_drop, hnumbers (1 + i) (by omega)]
      rw [htwo] at hlt ⊢; congr 1; omega
    · have : i - (l.ring.drop 1).length = 0 := by simp; omega
      rw [List.getElem?_append_right (by simp; omega), this]
      simp only [List.length_drop, List.getElem?_cons_zero, Option.map_some, Option.some.injEq, htwo] at *; omega
  · have hroom : ¬ 1024 ≤ l.ring.length := hfull
    have hring : (l.append r).ring = l.ring ++ [{ number := l.counter, body := r, tick := l.tick }] := by
      simp [Log.append, hfull]
    have hun : (l.append r).unreported = l.unreported + 1 := by simp [Log.append, hfull]
    have hlength : (l.append r).ring.length = l.ring.length + 1 := by rw [hring]; simp
    rw [hlength, hcounter, hun, hring]
    refine ⟨by omega, by omega, Nat.mod_lt _ (by decide), fun i hi => ?_⟩
    by_cases hlast : i < l.ring.length
    · rw [List.getElem?_append_left hlast, hnumbers i hlast]
      rw [htwo] at hlt ⊢; congr 1; omega
    · have : i - l.ring.length = 0 := by omega
      rw [List.getElem?_append_right (by omega), this]
      simp only [List.getElem?_cons_zero, Option.map_some, Option.some.injEq, htwo] at *; omega

theorem emitAsRun_keeps (n : Nat) (s : State) : Keeps s (emitAsRun n s) :=
  Keeps.trans (keeps_log (l := { s.log with unreported := _, overrun := 0 }) (logOk_of_eq rfl rfl (Nat.sub_le _ _)))
    (notice_keeps _ _ _ _)

theorem asRunTest_keeps (n : Nat) (s : State) : Keeps s (asRunTest n s) := by
  induction n generalizing s with
  | zero => exact Keeps.refl s
  | succ n ih =>
    unfold asRunTest
    split
    · exact (emitAsRun_keeps _ s).trans (ih _)
    · exact Keeps.refl s

theorem testAsRun_keeps (s : State) : Keeps s s.testAsRun := asRunTest_keeps _ s

theorem append_keeps (s : State) (r : RecProto) : Keeps s (s.append r) :=
  (keeps_log (logOk_append r)).trans (testAsRun_keeps _)

theorem record_keeps (s : State) (r : RecProto) : Keeps s (s.record r) := by
  unfold State.record
  split
  · exact keeps_log (logOk_of_eq rfl rfl (Nat.le_refl _))
  · exact append_keeps s r

theorem appendTriggers_keeps (pick : RecProto → Bool) (s : State) : Keeps s (s.appendTriggers pick) :=
  Keeps.trans (keeps_log (l := { s.log with triggers := s.log.triggers.filter fun r => !pick r }) (logOk_of_eq rfl rfl (Nat.le_refl _))) (Keeps.foldl append_keeps _ _)

theorem closePeriod_keeps (s : State) : Keeps s s.closePeriod := appendTriggers_keeps _ s

theorem flushAll_keeps (n fuel : Nat) (s : State) : Keeps s (flushAll n fuel s) := by
  induction fuel generalizing s with
  | zero => exact Keeps.refl s
  | succ fuel ih =>
    unfold flushAll
    split
    · exact Keeps.refl s
    · exact (emitAsRun_keeps _ s).trans (ih _)

/-! ## Running a channel's blocks -/

theorem applyEffect_keeps (c : Ch) (s : State) (e : Effect) : Keeps s (applyEffect c s e) := by
  cases e with
  | record r => exact record_keeps s r
  | notice f ch n => exact notice_keeps s f ch n
  | request p tag req => exact transmit_keeps s _ _
  | reply addr f code tag ch st body => exact transmit_keeps s _ _

theorem runCh_keeps {op : Env → W → W} (h : ChanSound op) (c : Ch) (s : State) : Keeps s (runCh c op s) :=
  have hkeeps : ChanKeeps (envOf s c).others s.chans[c] (ranCh c op s).ch :=
    ⟨h.modes (envOf s c) (begun s c), h.intake (envOf s c) (begun s c), h.stores (envOf s c) (begun s c)⟩
  (keeps_setCh hkeeps).trans (Keeps.foldl (applyEffect_keeps c) _ _)

theorem runAll_keeps {op : Env → W → W} (h : ChanSound op) (s : State) : Keeps s (runAll op s) :=
  Keeps.foldl (fun s c => runCh_keeps h c s) _ s

end Sys2Proof.Machine

/-! PROOFS. Every command keeps every invariant of the part and of its channels. -/

namespace Sys2Proof.Machine

open Sys2Proof

/-! ## Requests (R190, R191) -/

theorem live_keeps {f : State → State} {s : State} (h : Keeps s (f s)) : Keeps s (live f s) := by
  unfold live
  split <;> [exact h; exact Keeps.refl s]

theorem popRequest_keeps {s t : State} {f : CtlFlow} {r : Request} (h : s.popRequest f r = some t) : Keeps s t := by
  unfold State.popRequest at h
  split at h
  · obtain rfl := Option.some.inj h
    exact Keeps.refl s
  case h_2 x rest hq =>
    split at h
    · obtain rfl := Option.some.inj h
      refine keeps_inbound fun hlen => ?_
      rw [hq, List.length_cons] at hlen
      omega
    · cases h

theorem reply_keeps (s : State) (a : Option (Port × Nat)) (f : CtlFlow) (h : Head) (b : ReqBody) (x : Answer) :
    Keeps s (s.reply a f h b x) := transmit_keeps _ _ _

theorem takeRequest_keeps {f : CtlFlow} {h : Head} {b : ReqBody} {act : Option (Port × Nat) → State → State}
    (hact : ∀ a s, Keeps s (act a s)) (s : State) : Keeps s (takeRequest f h b act s) := by
  unfold takeRequest
  split <;> [exact Keeps.refl s; skip]
  split
  · exact Keeps.refl s
  case h_2 t ht =>
    refine (popRequest_keeps ht).trans ?_
    dsimp only
    split <;> [exact reply_keeps _ _ _ _ _ _; exact hact _ _]

theorem taken_keeps {f : CtlFlow} {h : Head} {b : ReqBody} {op : State → State × Answer} (hop : ∀ s, Keeps s (op s).1) (s : State) :
    Keeps s (takeRequest f h b (answered f h b op) s) :=
  takeRequest_keeps (fun _ s => (hop s).trans (reply_keeps _ _ _ _ _ _)) s

theorem onChannel_keeps {h : Head} {op : Env → W → W × Answer} (hop : ChanSound fun env w => (op env w).1) (s : State) :
    Keeps s (onChannel h op s).1 := by
  unfold onChannel
  split
  · exact Keeps.refl s
  · exact runCh_keeps hop _ s

theorem asked_keeps {f : CtlFlow} {h : Head} {b : ReqBody} {op : Env → W → W × Answer}
    (hop : ChanSound fun env w => (op env w).1) (s : State) : Keeps s (takeRequest f h b (answered f h b (onChannel h op)) s) :=
  taken_keeps (onChannel_keeps hop) s

theorem event_keeps {op : Env → W → W} (hop : ChanSound op) (c : Ch) (s : State) : Keeps s (live (runCh c op) s) :=
  live_keeps (runCh_keeps hop c s)

theorem digestCheckAct_keeps (f : CtlFlow) (h : Head) (key count sum : Nat) (a : Option (Port × Nat)) (s : State) :
    Keeps s (digestCheckAct f h key count sum a s) := by
  unfold digestCheckAct
  split
  · exact reply_keeps _ _ _ _ _ _
  · exact runCh_keeps (.digestCheckOn _ _ _ _ _ _) _ s

/-! ## Waiting notices (R64, R196) -/

theorem releaseReset_keeps (s : State) : Keeps s (releaseReset s) := by
  unfold releaseReset
  split
  · exact Keeps.trans (t := { s with resetNotices := false }) (keeps_of_eq rfl rfl rfl rfl rfl rfl rfl rfl rfl rfl rfl)
      (runAll_keeps .resetNotice _)
  · exact Keeps.refl s

theorem defaultedNotice_keeps (s : State) : Keeps s (defaultedNotice s) := by
  unfold defaultedNotice
  split <;> [exact notice_keeps _ _ _ _; exact Keeps.refl s]

theorem releaseDefaulted_keeps (s : State) : Keeps s (releaseDefaulted s) := by
  unfold releaseDefaulted
  split
  · exact Keeps.trans (t := { s with defaultedNotice := false }) (keeps_of_eq rfl rfl rfl rfl rfl rfl rfl rfl rfl rfl rfl)
      (defaultedNotice_keeps _)
  · exact Keeps.refl s

/-! ## Parameters (R193) -/

theorem putPart_keeps {p : PartParam} {v : Nat} (hv : PartParam.admits p v = true) (s : State) : Keeps s (putPart p v s) := by
  have hput : Keeps s { s with params := { s.params with part := s.params.part.put v p } } :=
    keeps_params fun h => inRange_putPart h hv
  unfold putPart
  dsimp only
  split <;> [exact hput.trans (testAsRun_keeps _); exact hput]

theorem putChan_keeps {p : ChanParam} {v : Nat} (hv : ChanParam.admits p v = true) (s : State) (c : Ch) :
    Keeps s (putChan p v s c) :=
  Keeps.trans (t := s.modParams c fun x => x.put v p) (keeps_params fun h => inRange_putChan c h hv)
    (runCh_keeps (.paramChanged _ _) c _)

theorem setParamOn_keeps (h : Head) (id : ParamId) (v : Nat) (s : State) : Keeps s (setParamOn h id v s).1 := by
  cases id with
  | unknown => exact Keeps.refl s
  | trigger code => exact Keeps.refl s
  | part p =>
    unfold setParamOn
    dsimp only
    split <;> [exact Keeps.refl s; skip]
    split
    · show Keeps s (if p = .batchSize then _ else s)
      split
      · exact keeps_params fun hp => inRange_putPart hp (by decide)
      · exact Keeps.refl s
    case isFalse hv => exact putPart_keeps (by simpa using hv) s
  | chan p =>
    unfold setParamOn
    dsimp only
    split <;> [exact Keeps.refl s; skip]
    split <;> [exact Keeps.refl s; skip]
    split
    · exact Keeps.refl s
    case isFalse hv =>
      rw [not_or] at hv
      exact Keeps.foldl (fun s c => putChan_keeps (by simpa using hv.1) s c) _ s

/-! ## The flow and trigger tables (R70, R71, R157) -/

theorem flowLoaded_keeps (r : Role) (s : State) : Keeps s (flowLoaded r s) := by
  unfold flowLoaded
  split
  · exact testAsRun_keeps s
  · exact releaseReset_keeps s
  · exact Keeps.refl s

theorem clearFeedOf_keeps (s : State) (x : Ch × SrcId) : Keeps s (clearFeedOf s x) :=
  modSource_keeps s _ _ fun _ => sourceOk_clearFeed

theorem loadBootstrap_keeps {tag : Nat} (p : Port) (hpos : 0 < tag) (hlt : tag < two16) (s : State) :
    Keeps s (loadBootstrap tag p s).1 := by
  unfold loadBootstrap
  split
  · exact Keeps.refl s
  case isFalse hfree =>
    show Keeps s (flowLoaded .localCtl { s with flows := s.flows.map (moved tag p) })
    refine Keeps.trans (keeps_flows fun hfl => ?_) (flowLoaded_keeps _ _)
    refine flowTableOk_moved p hfl hpos hlt fun e he htag => ?_
    by_contra hrole
    exact hfree (List.any_eq_true.2 ⟨e, he, by simp [htag, hrole]⟩)

theorem loadEntry_keeps {e : FlowEntry} (hformed : flowFormed e = true) (s : State) : Keeps s (loadEntry e s).1 := by
  unfold loadEntry
  split
  case h_1 old hold =>
    split <;> [exact Keeps.refl s; rename_i holdRole]
    split <;> [exact Keeps.refl s; rename_i htaken]
    refine Keeps.trans (Keeps.trans (t := { s with flows := rewrite e.tag e s.flows }) (keeps_flows fun hfl => ?_)
      (Keeps.foldl clearFeedOf_keeps _ _)) (flowLoaded_keeps _ _)
    exact flowTableOk_rewrite hfl hold holdRole (by simpa using htaken) hformed
  case h_2 hnew =>
    split <;> [exact Keeps.refl s; rename_i htaken]
    split <;> [exact Keeps.refl s; rename_i hroom]
    refine Keeps.trans (t := { s with flows := s.flows ++ [e] }) (keeps_flows fun hfl => ?_) (flowLoaded_keeps _ _)
    exact flowTableOk_append hfl hnew (by simpa using htaken) (Nat.not_le.1 hroom) hformed

theorem flowLoadOn_keeps (tag port : Nat) (role : Option Role) (channel : Nat) (s : State) :
    Keeps s (flowLoadOn tag port role channel s).1 := by
  unfold flowLoadOn
  split <;> [skip; exact Keeps.refl s]
  split <;> [exact Keeps.refl s; rename_i htag]
  have htag' : 0 < tag ∧ tag < two16 := by rw [not_or, Nat.not_le] at htag; exact ⟨Nat.pos_of_ne_zero htag.1, htag.2⟩
  split
  case isTrue hchan =>
    split
    · exact Keeps.refl s
    · exact loadEntry_keeps ((flowFormed_iff _).2 ⟨htag', by simpa using hchan⟩) s
  case isFalse hchan =>
    split
    · exact loadBootstrap_keeps _ htag'.1 htag'.2 s
    · exact loadEntry_keeps ((flowFormed_iff _).2 ⟨htag', by simpa using hchan⟩) s

theorem flowClearOn_keeps (tag : Nat) (s : State) : Keeps s (flowClearOn tag s).1 := by
  unfold flowClearOn
  split
  · exact Keeps.refl s
  case h_2 e he =>
    split
    · exact Keeps.refl s
    case isFalse hrole =>
      exact Keeps.trans (t := { s with flows := s.flows.filter fun x => decide (x.tag ≠ tag) })
        (keeps_flows fun hfl => flowTableOk_clear hfl he hrole) (Keeps.foldl clearFeedOf_keeps _ _)

/-- What passes the checks of R157 can be loaded. -/
theorem loadable_of_checks {code : Nat} {a : LoadAction} {x : TrigAction} (hcode : ¬ code ≤ 5) (hbad : ¬ actionBad code a = true)
    (hrange : ¬ actionRange a = false) (hx : loadedAction a = some x) : loadable (code, x) = true := by
  have hlow : 6 ≤ code := by omega
  cases a with
  | outputCue p adv =>
    obtain rfl := Option.some.inj hx
    simp only [actionBad, actionRange, Bool.or_eq_true, decide_eq_true_eq, decide_eq_false_iff_not, not_or] at hbad hrange
    simp only [loadable, within, Bool.and_eq_true, decide_eq_true_eq]
    omega
  | ident slot on =>
    cases on with
    | none => cases hx
    | some on =>
      obtain rfl := Option.some.inj hx
      simp only [actionBad, actionRange, Bool.or_eq_true, decide_eq_true_eq, decide_eq_false_iff_not, not_or] at hbad hrange
      simp only [loadable, within, Bool.and_eq_true, decide_eq_true_eq]
      omega
  | notify =>
    obtain rfl := Option.some.inj hx
    simp only [actionBad, decide_eq_true_eq] at hbad
    simp only [loadable, within, Bool.and_eq_true, decide_eq_true_eq, and_true]
    omega
  | other => cases hx

theorem triggerLoadOn_keeps (code : Nat) (a : LoadAction) (s : State) : Keeps s (triggerLoadOn code a s).1 := by
  unfold triggerLoadOn
  split <;> [exact Keeps.refl s; rename_i hcode]
  split <;> [exact Keeps.refl s; rename_i hbad]
  split <;> [exact Keeps.refl s; rename_i hrange]
  split
  · exact Keeps.refl s
  case h_2 x hx => exact keeps_table (tableOk_cellSet (loadable_of_checks hcode hbad hrange hx))

theorem triggerClearOn_keeps (code : Nat) (s : State) : Keeps s (triggerClearOn code s).1 := by
  unfold triggerClearOn
  split <;> [exact Keeps.refl s; skip]
  split <;> [exact Keeps.refl s; exact keeps_table (tableOk_cellDrop code)]

/-! ## Graphics (R174 to R176) -/

theorem graphicBeginOn_keeps (slot w h : Nat) (s : State) : Keeps s (graphicBeginOn slot w h s).1 := by
  refine keeps_graphics (graphicBeginOn_graphics slot w h) ?_
  unfold graphicBeginOn
  repeat' split
  all_goals rfl

theorem graphicSegmentOn_keeps (slot offset : Nat) (data : List Byte) (s : State) :
    Keeps s (graphicSegmentOn slot offset data s).1 := by
  refine keeps_graphics (graphicSegmentOn_graphics slot offset data) ?_
  unfold graphicSegmentOn
  dsimp only
  repeat' split
  all_goals rfl

theorem graphicEndOn_keeps (slot : Nat) (s : State) : Keeps s (graphicEndOn slot s).1 := by
  refine keeps_graphics (graphicEndOn_graphics slot) ?_
  unfold graphicEndOn
  dsimp only
  split <;> [rfl; skip]
  split <;> rfl

/-! ## Counters, the log and the time (R12, R15, R16, R81, R96, R187) -/

theorem mapChans_clearCounts_keeps (s : State) : ChansKeep s (s.mapChans Chan.clearCounts) := by
  have hmap : ∀ c : Ch, (s.mapChans Chan.clearCounts).chans[c] = s.chans[c].clearCounts := fun c => by simp [State.mapChans]
  have hheld : (s.mapChans Chan.clearCounts).heldAll = s.heldAll := by
    simp only [State.heldAll, State.mapChans, Vector.toList_map, List.map_map]
    rfl
  refine ⟨fun h c => ?_, fun h c => ?_, fun h => ⟨fun c => ?_, fun ⟨hpool, hapart⟩ => ⟨hheld ▸ hpool, fun c => ?_⟩⟩⟩
  all_goals rw [hmap]
  · exact h c
  · exact intakeOk_clearCounts (h c)
  · exact h c
  · exact hapart c

theorem clearCountersOn_keeps (h : Head) (s : State) : Keeps s (clearCountersOn h s).1 := by
  unfold clearCountersOn
  split
  · have hchans := mapChans_clearCounts_keeps s
    refine Keeps.trans (t := s.mapChans Chan.clearCounts) ⟨⟨id, id, id, id, id⟩, hchans⟩ ?_
    exact ⟨⟨id, id, id, id, id⟩, ChansKeep.of_eq rfl⟩
  · split
    · exact Keeps.refl s
    · exact keeps_setCh_of_eq rfl rfl intakeOk_clearCounts

theorem logFlushOn_keeps (s : State) : Keeps s (logFlushOn s).1 := by
  unfold logFlushOn
  split <;> [exact flushAll_keeps _ _ s; exact Keeps.refl s]

theorem stepHfn_keeps (n : Nat) (s : State) : Keeps s (stepHfn n s) :=
  Keeps.trans (t := { s with time := { s.time with hfn := n, timeState := .set } }) (keeps_time id) (runAll_keeps .stepChan _)

theorem timeSetOn_keeps (day : Nat) (l : Label) (s : State) : Keeps s (timeSetOn day l s).1 := by
  unfold timeSetOn
  dsimp only
  split <;> [exact Keeps.refl s; skip]
  split <;> [exact Keeps.refl s; (dsimp only; exact stepHfn_keeps _ s)]

theorem setDay_keeps (day : Nat) (l : Label) (s : State) : Keeps s (setDay day l s).1 := by
  unfold setDay
  split <;> [(dsimp only; exact stepHfn_keeps _ s); exact Keeps.refl s]

theorem siteBeatOn_keeps (day : Nat) (l : Label) (s : State) : Keeps s (siteBeatOn day l s).1 := by
  unfold siteBeatOn
  dsimp only
  split
  · exact Keeps.refl s
  · dsimp only
    exact (setDay_keeps day l s).trans (Keeps.trans (t := { (setDay day l s).1 with beat := 0, expired := false })
      (keeps_of_eq rfl rfl rfl rfl rfl rfl rfl rfl rfl rfl rfl) (runAll_keeps .goCurrent _))

/-! ## The image and the resets (R195 to R198) -/

theorem saveConfigOn_keeps (h : Head) (s : State) : Keeps s (saveConfigOn h s).1 := by
  unfold saveConfigOn
  split
  · exact Keeps.refl s
  · dsimp only
    exact keeps_of_eq rfl rfl rfl rfl rfl rfl rfl rfl rfl rfl rfl

theorem saveComplete_keeps (good : Bool) (s : State) : Keeps s (saveComplete good s) := by
  unfold saveComplete
  split
  · exact Keeps.refl s
  · refine Keeps.trans ?_ (notice_keeps _ _ _ _)
    exact keeps_of_eq rfl rfl rfl rfl rfl rfl rfl rfl rfl rfl rfl

theorem abandonSave_keeps (s : State) : Keeps s (abandonSave s) := by
  unfold abandonSave
  split
  · exact Keeps.refl s
  · exact keeps_of_eq rfl rfl rfl rfl rfl rfl rfl rfl rfl rfl rfl

theorem timeOk_reset (rc : RateCode) : TimeOk (TimeBase.reset rc) := by simp [TimeOk, TimeBase.reset]

theorem logOk_reset : LogOk Log.reset := by simp [LogOk, Log.reset, two32]

theorem storeOk_reset : StoreOk Chan.reset.store := by simp [StoreOk, Ordered, Chan.reset]

/-- Right after a part reset everything but the configuration stands at its first values. -/
theorem partsOk_reset {t : State} {rc : RateCode} (htime : t.time = TimeBase.reset rc) (hlog : t.log = Log.reset)
    (hmain : t.inMain = []) (hlocal : t.inLocal = []) (hnextMain : t.nextMain = 0) (hnextLocal : t.nextLocal = 0)
    (hgraphics : t.graphics = Vector.replicate 16 Graphic.reset) :
    TimeOk t.time ∧ FlowsOk t ∧ LogOk t.log ∧ GraphicsOk t := by
  refine ⟨htime ▸ timeOk_reset rc, ?_, hlog ▸ logOk_reset, fun k => ?_⟩
  · simp [FlowsOk, hmain, hlocal, hnextMain, hnextLocal, two16]
  · have hslot : t.graphics[k] = Graphic.reset := by rw [hgraphics]; simp
    rw [hslot]
    exact graphicOk_reset

theorem chansKeep_reset {s t : State} (h : t.chans = Vector.replicate 8 Chan.reset) : ChansKeep s t := by
  have hch : ∀ c : Ch, t.chans[c] = Chan.reset := fun c => by rw [h]; simp
  refine ⟨fun _ c => ?_, fun _ c => ?_, fun _ => ⟨fun c => ?_, fun _ => ⟨?_, fun c => ?_⟩⟩⟩
  · rw [hch]; exact modeOk_reset
  · rw [hch]; exact intakeOk_reset
  · rw [hch]; exact storeOk_reset
  · unfold State.heldAll; rw [h]; decide
  · rw [hch]; simp [OrphanApart, Chan.reset]

theorem partReset_keeps (up : Port → Bool) (s : State) : Keeps s (partReset up s) := by
  obtain ⟨htime, hflows, hlog, hgraphics⟩ := partsOk_reset (t := partReset up s) rfl rfl rfl rfl rfl rfl rfl
  have hconfig : ConfigOk (partReset up s) := (config_valid_iff _).1 (load_valid (abandonSave s).flash)
  exact ⟨⟨fun _ => htime, fun _ => hflows, fun _ => hlog, fun _ => hconfig, fun _ => hgraphics⟩, chansKeep_reset rfl⟩

theorem defaultedAtOnce_keeps (s : State) :
    Keeps s (if s.defaultedNotice then defaultedNotice { s with defaultedNotice := false } else s) := by
  split
  · exact Keeps.trans (t := { s with defaultedNotice := false }) (keeps_of_eq rfl rfl rfl rfl rfl rfl rfl rfl rfl rfl rfl)
      (defaultedNotice_keeps _)
  · exact Keeps.refl s

theorem softReset_keeps (s : State) : Keeps s (softReset s) :=
  ((partReset_keeps (fun p => s.ports[p].up) s).trans (defaultedAtOnce_keeps _)).trans (releaseReset_keeps _)

theorem resetChannelReq_keeps (n : Nat) (s : State) : Keeps s (resetChannelReq n s).1 := by
  unfold resetChannelReq
  split
  · exact Keeps.refl s
  · dsimp only
    exact (appendTriggers_keeps _ s).trans (runCh_keeps .resetChannelOn _ _)

/-! ## Arrivals (R65, R66, R68) -/

theorem modPort_keeps (s : State) (p : Port) (f : PortState → PortState) : Keeps s (s.modPort p f) :=
  keeps_of_eq rfl rfl rfl rfl rfl rfl rfl rfl rfl rfl rfl

theorem dropped_keeps (s : State) (e : Eth) (x : Checked) : Keeps s (dropped s e x) := by
  unfold dropped
  cases x with
  | ignored => exact Keeps.refl s
  | bad => exact modPort_keeps _ _ _
  | oversize => exact modPort_keeps _ _ _
  | unknown => exact modPort_keeps _ _ _
  | entry x => exact Keeps.refl s

theorem arrives_keeps {s : State} {e : Eth} {spelt : Bool} {f : FlowEntry → State → State} (hf : ∀ x, Keeps s (f x s)) :
    Keeps s (arrives s e spelt f) := by
  unfold arrives
  split
  · split <;> [exact hf _; exact Keeps.refl s]
  · exact dropped_keeps _ _ _

theorem essence_keeps {f : Source → Source} (hf : ∀ x, SourceOk x → SourceOk (f x)) (s : State) (e : Eth) (t : Nat) :
    Keeps s (essence s e t f) := by
  refine arrives_keeps fun x => ?_
  unfold toSource
  split <;> [exact modSource_keeps s _ _ hf; exact Keeps.refl s]

theorem playerReply_keeps {act : PlayerId → Flight → Env → W → W} (hact : ∀ p f, ChanSound (act p f)) (e : Eth) (s : State) :
    Keeps s (playerReply e act s) := by
  refine arrives_keeps fun x => ?_
  split <;> [exact runCh_keeps (.replied _ _ (hact _)) _ s; exact Keeps.refl s]

theorem requestArrives_keeps (e : Eth) (present : Nat) (b : ReqBody) (s : State) : Keeps s (requestArrives e present b s) := by
  refine arrives_keeps fun x => ?_
  dsimp only
  generalize (if x.role = .mainCtl then CtlFlow.main else .loc) = f
  split
  case isTrue hroom =>
    have hroom' : (s.inbound f).length < 8 := hroom
    exact keeps_inbound fun _ => by simp; omega
  case isFalse => exact modPort_keeps _ _ _

theorem linkUp_keeps (p : Port) (s : State) : Keeps s (linkUp p s) := by
  unfold linkUp
  split
  · exact Keeps.refl s
  · have hup := (modPort_keeps s p fun x => { x with up := true }).trans (releaseReset_keeps _)
    dsimp only
    split <;> [exact hup.trans ((releaseDefaulted_keeps _).trans (testAsRun_keeps _)); exact hup]

theorem linkDown_keeps (p : Port) (s : State) : Keeps s (linkDown p s) := by
  unfold linkDown
  split
  · exact (modPort_keeps s p _).trans (Keeps.foldl (fun s (x : Ch × SrcId) => modSource_keeps s x.1 x.2 fun _ => sourceOk_discard) _ _)
  · exact Keeps.refl s

/-! ## The period (R49, R67, R95, R182) -/

theorem timeOk_of_reference {t u : TimeBase} (href : u.refState = t.refState) (hwait : u.waiting = t.waiting)
    (hrelock : u.relock = t.relock) (hslip : u.slipRun = t.slipRun) (h : TimeOk t) : TimeOk u := by
  unfold TimeOk; rwa [href, hwait, hrelock, hslip]

theorem tickLog_keeps (s : State) : Keeps s (tickLog s) :=
  Keeps.trans (keeps_log (l := { s.log with tick := (s.log.tick + 1) % two32 }) (logOk_of_eq rfl rfl (Nat.le_refl _)))
    (testAsRun_keeps _)

theorem siteBeatExpiry_keeps (s : State) : Keeps s (siteBeatExpiry s) := by
  unfold siteBeatExpiry
  split
  · exact Keeps.trans (t := { s with expired := true, beat := s.params.part.siteBeatTimeout })
      (keeps_of_eq rfl rfl rfl rfl rfl rfl rfl rfl rfl rfl rfl) (runAll_keeps .goStale _)
  · exact Keeps.refl s

theorem tickBeat_keeps (s : State) : Keeps s (tickBeat s) := by
  unfold tickBeat
  refine Keeps.trans ?_ (siteBeatExpiry_keeps _)
  split <;> [exact Keeps.refl s; exact keeps_of_eq rfl rfl rfl rfl rfl rfl rfl rfl rfl rfl rfl]

theorem buildFrame_keeps (s : State) (c : Ch) : Keeps s (buildFrame c s) :=
  Keeps.trans (t := s.setCh c { s.chans[c] with out := (buildOut s.graphics (envOf s c) s.chans[c]).2 })
    (keeps_setCh_of_eq rfl rfl id) (transmit_keeps _ _ _)

theorem periodChans_keeps (s : State) : Keeps s (periodChans s) :=
  Keeps.foldl (fun s c => runCh_keeps (.chanPeriod _) c s) _ s

theorem clearMarks_keeps (s : State) : Keeps s (clearMarks s) := keeps_of_eq rfl rfl rfl rfl rfl rfl rfl rfl rfl rfl rfl

theorem buildFrames_keeps (s : State) : Keeps s (buildFrames s) := Keeps.foldl buildFrame_keeps _ s

theorem buildAll_keeps (s : State) : Keeps s (buildAll s) :=
  (buildFrames_keeps s).trans (keeps_modTime (f := fun t => { t with built := true }) (timeOk_of_reference rfl rfl rfl rfl))

theorem periodWork_keeps (s : State) : Keeps s (periodWork s) :=
  ((((tickLog_keeps s).trans (tickBeat_keeps _)).trans (periodChans_keeps _)).trans (clearMarks_keeps _)).trans (buildAll_keeps _)

/-! ## The Time Base (R10 to R14) -/

/-- The state's waiting, reference and relock stand at a boundary (R1, R2). -/
theorem nextHfn_reference (s : State) :
    (nextHfn s).time.refState = s.time.refState ∧ (nextHfn s).time.waiting = s.time.waiting ∧
      (nextHfn s).time.relock = s.time.relock ∧ (nextHfn s).time.slipRun = s.time.slipRun := by
  unfold nextHfn
  split <;> exact ⟨rfl, rfl, rfl, rfl⟩

theorem boundaryAt_reference (n : Nat) (s : State) :
    (boundaryAt n s).time.refState = s.time.refState ∧ (boundaryAt n s).time.waiting = s.time.waiting := by
  obtain ⟨href, hwait, -⟩ := nextHfn_reference s.closePeriod
  obtain ⟨⟨-, htime, -⟩, -⟩ := closePeriod_heard s
  exact ⟨href.trans (by rw [htime]), hwait.trans (by rw [htime])⟩

theorem nextHfn_keeps (s : State) : Keeps s (nextHfn s) := by
  unfold nextHfn
  split
  · exact keeps_modTime id
  · refine Keeps.trans (t := s.modTime fun t => { t with hfn := (Config.hfnPastTop s.draws).toNat }) (keeps_modTime id) ?_
    exact keeps_of_eq rfl rfl rfl rfl rfl rfl rfl rfl rfl rfl rfl

theorem boundaryAt_keeps (n : Nat) (s : State) : Keeps s (boundaryAt n s) :=
  ((closePeriod_keeps s).trans (nextHfn_keeps _)).trans (keeps_modTime id)

theorem refNotice_keeps (why : RefReason) (carried : Option RefLabel) (own : Option Label) (s : State) :
    Keeps s (refNotice why carried own s) := notice_keeps _ _ _ _

/-- The comparison of R12 opens a slip run only while LOCKED and after the wait. -/
theorem compareLabel_keeps (l : RefLabel) {s : State} (hlocked : s.time.refState = .locked) (hwait : s.time.waiting = false) :
    Keeps s (compareLabel l s) := by
  unfold compareLabel
  dsimp only
  split
  · exact keeps_modTime fun ⟨h1, h2, _, h4⟩ => ⟨h1, h2, by simp, fun hw => ⟨(h4 hw).1, rfl⟩⟩
  · have hopen : Keeps s (s.modTime fun t => { t with slips := sat32 t.slips, slipRun := true }) :=
      keeps_modTime fun ⟨h1, h2, _, _⟩ => ⟨h1, h2, fun _ => hlocked, fun hw => absurd (hwait.symm.trans hw) (by decide)⟩
    split <;> [exact hopen.trans (refNotice_keeps _ _ _ _); exact hopen]

theorem periodBoundary_keeps (now : Nat) (pulse : Option RefLabel) (s : State) : Keeps s (periodBoundary now pulse s) := by
  unfold periodBoundary
  dsimp only
  split <;> [exact Keeps.refl s; rename_i hwait]
  split
  case h_1 l hlocked =>
    split <;> [skip; exact Keeps.refl s]
    obtain ⟨href, hw⟩ := boundaryAt_reference now s
    exact ((boundaryAt_keeps now s).trans (compareLabel_keeps l (href.trans hlocked) (hw.trans (by simpa using hwait)))).trans
      (periodWork_keeps _)
  case h_2 => exact Keeps.refl s
  case h_3 => split <;> [exact (boundaryAt_keeps _ s).trans (periodWork_keeps _); exact Keeps.refl s]

theorem timeBaseStart_keeps (now : Nat) (pulse : Option RefLabel) (s : State) : Keeps s (timeBaseStart now pulse s) := by
  unfold timeBaseStart
  split <;> [exact Keeps.refl s; rename_i hwait]
  have hwait' : s.closePeriod.time.waiting = true := by
    obtain ⟨⟨-, htime, -⟩, -⟩ := closePeriod_heard s
    rw [htime]; simpa using hwait
  split
  · split <;> [skip; exact Keeps.refl s]
    refine ((closePeriod_keeps s).trans (keeps_modTime fun ⟨h1, h2, h3, h4⟩ => ?_)).trans (periodWork_keeps _)
    exact ⟨h1, fun _ => (h4 hwait').1, fun h => (Bool.noConfusion h), fun h => (Bool.noConfusion h)⟩
  · split <;> [skip; exact Keeps.refl s]
    refine (((closePeriod_keeps s).trans (keeps_modTime fun _ => ?_)).trans (refNotice_keeps _ _ _ _)).trans (periodWork_keeps _)
    exact ⟨Nat.zero_le _, fun _ => rfl, fun h => (Bool.noConfusion h), fun h => (Bool.noConfusion h)⟩

theorem referenceLoss_keeps (now : Nat) (s : State) : Keeps s (referenceLoss now s) := by
  unfold referenceLoss
  dsimp only
  split <;> [skip; exact Keeps.refl s]
  refine (((boundaryAt_keeps _ s).trans (keeps_modTime fun _ => ?_)).trans (refNotice_keeps _ _ _ _)).trans (periodWork_keeps _)
  exact ⟨Nat.zero_le _, fun _ => rfl, fun h => (Bool.noConfusion h), fun _ => ⟨rfl, rfl⟩⟩

theorem relockPulse_keeps (now : Nat) (s : State) : Keeps s (relockPulse now s) := by
  unfold relockPulse
  dsimp only
  split <;> [exact Keeps.refl s; rename_i hwatch]
  rw [not_or, not_or] at hwatch
  obtain ⟨hwait, hfree, -⟩ := hwatch
  refine keeps_modTime fun ⟨_, _, h3, _⟩ => ⟨?_, fun h => absurd h hfree, h3, fun h => absurd h hwait⟩
  dsimp only
  split <;> omega

theorem referenceRelock_keeps (now : Nat) (l : RefLabel) (s : State) : Keeps s (referenceRelock now l s) := by
  unfold referenceRelock
  dsimp only
  split <;> [rename_i hdue; exact Keeps.refl s]
  obtain ⟨hwait, -⟩ := hdue
  obtain ⟨-, hw⟩ := boundaryAt_reference now s
  have hlock : Keeps s ((boundaryAt now s).modTime fun t => { t with refState := .locked, relock := 0, lastPulse := none }) :=
    (boundaryAt_keeps now s).trans
      (keeps_modTime fun ⟨_, _, _, h4⟩ => ⟨Nat.zero_le _, fun _ => rfl, fun _ => rfl, fun h => ⟨rfl, (h4 h).2⟩⟩)
  refine ((hlock.trans (refNotice_keeps _ _ _ _)).trans (compareLabel_keeps l ?_ ?_)).trans (periodWork_keeps _)
  all_goals
    obtain ⟨⟨-, htime, -⟩, -⟩ := notice_heard ((boundaryAt now s).modTime fun t =>
      { t with refState := .locked, relock := 0, lastPulse := none }) .loc 15 _
    refine (congrArg _ htime).trans ?_
  · rfl
  · exact hw.trans hwait

theorem relockTimeout_keeps (now : Nat) (s : State) : Keeps s (relockTimeout now s) := by
  unfold relockTimeout
  dsimp only
  split <;> [skip; exact Keeps.refl s]
  refine ((boundaryAt_keeps _ s).trans (keeps_modTime fun ⟨_, _, h3, h4⟩ => ?_)).trans (periodWork_keeps _)
  exact ⟨Nat.zero_le _, fun _ => rfl, h3, fun h => ⟨rfl, (h4 h).2⟩⟩

end Sys2Proof.Machine

/-! PROOFS. The steps keep the invariants (R10, R19 to R23, R38, R69 to R76, R127, R143 to R153, R156, R174 to R176, R181, R188, R191), and
power-on meets them. -/

namespace Sys2Proof.Machine

open Sys2Proof

/-! ## Requests that only read -/

theorem read_keeps {f : CtlFlow} {h : Head} {b : ReqBody} {op : State → State × Answer} (hop : ∀ s, (op s).1 = s) (s : State) :
    Keeps s (takeRequest f h b (answered f h b op) s) :=
  taken_keeps (fun s => by rw [hop]; exact Keeps.refl s) s

theorem getParamOn_state (h : Head) (id : ParamId) (s : State) : (getParamOn h id s).1 = s := getParamOn_calm h id s

theorem queryChannelOn_state (h : Head) (s : State) : (queryChannelOn h s).1 = s := by
  unfold queryChannelOn; split <;> rfl

theorem queryEventsOn_state (h : Head) (key count : Nat) (s : State) : (queryEventsOn h key count s).1 = s := by
  unfold queryEventsOn; split <;> [rfl; (split <;> rfl)]

theorem queryMonitorOn_state (h : Head) (s : State) : (queryMonitorOn h s).1 = s := by
  unfold queryMonitorOn; split <;> [rfl; (split <;> rfl)]

theorem logReadOn_state (number count : Nat) (s : State) : (logReadOn number count s).1 = s := by
  unfold logReadOn; split <;> [rfl; (dsimp only; split <;> rfl)]

/-! ## Every command -/

theorem exec_keeps (i : Instr) (s : State) : ∃ t, exec i s = .next t ∧ Keeps s t := by
  cases i with
  | powerOn =>
    exact ⟨_, rfl, (keeps_of_eq rfl rfl rfl rfl rfl rfl rfl rfl rfl rfl rfl : Keeps s { s with powered := true }).trans (partReset_keeps _ _)⟩
  | resetPin => exact ⟨_, rfl, live_keeps (partReset_keeps _ s)⟩
  | timeBaseStart now pulse => exact ⟨_, rfl, live_keeps (timeBaseStart_keeps now pulse s)⟩
  | refreshNeededResetRelease => exact ⟨_, rfl, live_keeps (releaseReset_keeps s)⟩
  | configDefaultedNotice => exact ⟨_, rfl, live_keeps (releaseDefaulted_keeps s)⟩
  | linkUp p => exact ⟨_, rfl, live_keeps (linkUp_keeps p s)⟩
  | linkDown p => exact ⟨_, rfl, live_keeps (linkDown_keeps p s)⟩
  | frameDrop e control rest => exact ⟨_, rfl, live_keeps (dropped_keeps s e _)⟩
  | frameHeader e bytes => exact ⟨_, rfl, live_keeps (essence_keeps (fun _ => sourceOk_header _) s e 0)⟩
  | video e bytes => exact ⟨_, rfl, live_keeps (essence_keeps (fun _ => sourceOk_video _) s e 1)⟩
  | audio e bytes => exact ⟨_, rfl, live_keeps (essence_keeps (fun _ => sourceOk_audio _) s e 2)⟩
  | controlRequestPacket e r => exact ⟨_, rfl, live_keeps (requestArrives_keeps _ _ _ s)⟩
  | periodBoundary now pulse => exact ⟨_, rfl, live_keeps (periodBoundary_keeps now pulse s)⟩
  | advisoryRaised c attr => exact ⟨_, rfl, event_keeps (.advisoryRaise attr) c s⟩
  | monitorSuspect c => exact ⟨_, rfl, event_keeps (.monitorSuspect) c s⟩
  | monitorFailed c => exact ⟨_, rfl, event_keeps (.monitorFailed) c s⟩
  | monitorHealthy c => exact ⟨_, rfl, event_keeps (.monitorHealthy) c s⟩
  | siteBeatExpiry => exact ⟨_, rfl, live_keeps (siteBeatExpiry_keeps s)⟩
  | refreshTimeout c => exact ⟨_, rfl, event_keeps (.refreshTimeout) c s⟩
  | referenceLoss now => exact ⟨_, rfl, live_keeps (referenceLoss_keeps now s)⟩
  | relockPulse now => exact ⟨_, rfl, live_keeps (relockPulse_keeps now s)⟩
  | referenceRelock now label => exact ⟨_, rfl, live_keeps (referenceRelock_keeps now label s)⟩
  | relockTimeout now => exact ⟨_, rfl, live_keeps (relockTimeout_keeps now s)⟩
  | digestScanEnd c => exact ⟨_, rfl, event_keeps (.digestScanEnd) c s⟩
  | saveComplete good => exact ⟨_, rfl, live_keeps (saveComplete_keeps good s)⟩
  | joiningStart c => exact ⟨_, rfl, event_keeps (.joiningStart) c s⟩
  | joiningTarget c => exact ⟨_, rfl, event_keeps (.joiningTarget) c s⟩
  | handbackTarget c => exact ⟨_, rfl, event_keeps (.handbackTarget) c s⟩
  | breakStart c => exact ⟨_, rfl, event_keeps (.breakStart) c s⟩
  | breakExpiry c => exact ⟨_, rfl, event_keeps (.breakExpiry) c s⟩
  | breakEnd c => exact ⟨_, rfl, event_keeps (.breakEnd) c s⟩
  | cueWindow c => exact ⟨_, rfl, event_keeps (.followed .syncLife .cueWindow) c s⟩
  | lateCue c => exact ⟨_, rfl, event_keeps (.followed .syncLife .lateCue) c s⟩
  | itemLost c => exact ⟨_, rfl, event_keeps (.followed .syncLife .itemLost) c s⟩
  | playerRoll c p => exact ⟨_, rfl, event_keeps (.followed .settled (.playerRoll p)) c s⟩
  | playerEnd c p => exact ⟨_, rfl, event_keeps (.followed .settled (.playerEnd p)) c s⟩
  | stopFrame c p => exact ⟨_, rfl, event_keeps (.followed .settled (.stopFrame p)) c s⟩
  | replyTimeout c p => exact ⟨_, rfl, event_keeps (.followed .pump (.replyTimeout p)) c s⟩
  | stall c p => exact ⟨_, rfl, event_keeps (.followed .pump (.stall p)) c s⟩
  | probe c p => exact ⟨_, rfl, event_keeps (.probe p) c s⟩
  | cued e control => exact ⟨_, rfl, live_keeps (playerReply_keeps .onCued _ s)⟩
  | cueFailed e control reason => exact ⟨_, rfl, live_keeps (playerReply_keeps (.onCueFailed · reason) _ s)⟩
  | stopped e control => exact ⟨_, rfl, live_keeps (playerReply_keeps .onStopped _ s)⟩
  | answer e control handle found length => exact ⟨_, rfl, live_keeps (playerReply_keeps (.onAnswer · found length) _ s)⟩
  | sweepQuery c => exact ⟨_, rfl, event_keeps (.sweepQuery) c s⟩
  | shadowStart c => exact ⟨_, rfl, event_keeps (.followed .pump .shadowStart) c s⟩
  | shadowRejoin c => exact ⟨_, rfl, event_keeps (.followed .pump .shadowRejoin) c s⟩
  | triggerAct c => exact ⟨_, rfl, event_keeps (.triggerAct) c s⟩
  | asRun => exact ⟨_, rfl, live_keeps (testAsRun_keeps s)⟩
  | mirrorBatch f h seq ops => exact ⟨_, rfl, asked_keeps (.mirrorBatchOn _ _) s⟩
  | refreshOpen f h seq => exact ⟨_, rfl, asked_keeps (.refreshOpenOn _) s⟩
  | refreshClose f h seq count sum => exact ⟨_, rfl, asked_keeps (.refreshCloseOn _ _ _) s⟩
  | digestCheck f h key count sum => exact ⟨_, rfl, takeRequest_keeps (digestCheckAct_keeps f h key count sum) s⟩
  | siteBeat f h day label => exact ⟨_, rfl, taken_keeps (siteBeatOn_keeps day label) s⟩
  | handover f h day label => exact ⟨_, rfl, asked_keeps (.handoverOn _ _) s⟩
  | handbackAsk f h target => exact ⟨_, rfl, asked_keeps (.handbackAskOn _) s⟩
  | setParam f h id value => exact ⟨_, rfl, taken_keeps (setParamOn_keeps h id value) s⟩
  | getParam f h id => exact ⟨_, rfl, read_keeps (getParamOn_state h id) s⟩
  | flowLoad f h tag port role channel => exact ⟨_, rfl, taken_keeps (flowLoadOn_keeps tag port role channel) s⟩
  | flowClear f h tag => exact ⟨_, rfl, taken_keeps (flowClearOn_keeps tag) s⟩
  | triggerLoad f h code action => exact ⟨_, rfl, taken_keeps (triggerLoadOn_keeps code action) s⟩
  | triggerClear f h code => exact ⟨_, rfl, taken_keeps (triggerClearOn_keeps code) s⟩
  | graphicBegin f h slot width height => exact ⟨_, rfl, taken_keeps (graphicBeginOn_keeps slot width height) s⟩
  | graphicSegment f h slot offset data => exact ⟨_, rfl, taken_keeps (graphicSegmentOn_keeps slot offset _) s⟩
  | graphicEnd f h slot => exact ⟨_, rfl, taken_keeps (graphicEndOn_keeps slot) s⟩
  | windowSet f h enabled slot x y alpha blink => exact ⟨_, rfl, asked_keeps (.windowSetOn _ _ _ _ _ _) s⟩
  | takeover f h target force => exact ⟨_, rfl, asked_keeps (.takeoverOn _ _) s⟩
  | handback f h target force => exact ⟨_, rfl, asked_keeps (.handbackOn _ _ _) s⟩
  | breakIn f h handle inPoint duration mode => exact ⟨_, rfl, asked_keeps (.breakInOn _ _ _ _) s⟩
  | resume f h mode => exact ⟨_, rfl, asked_keeps (.resumeOn _) s⟩
  | queryChannel f h => exact ⟨_, rfl, read_keeps (queryChannelOn_state h) s⟩
  | queryEvents f h key count => exact ⟨_, rfl, read_keeps (queryEventsOn_state h key count) s⟩
  | queryMonitor f h => exact ⟨_, rfl, read_keeps (queryMonitorOn_state h) s⟩
  | clearCounters f h => exact ⟨_, rfl, taken_keeps (clearCountersOn_keeps h) s⟩
  | logRead f h number count => exact ⟨_, rfl, read_keeps (logReadOn_state number count) s⟩
  | logFlush f h => exact ⟨_, rfl, taken_keeps (logFlushOn_keeps) s⟩
  | saveConfig f h => exact ⟨_, rfl, taken_keeps (saveConfigOn_keeps h) s⟩
  | timeSet f h day label => exact ⟨_, rfl, taken_keeps (timeSetOn_keeps day label) s⟩
  | resetPart f h =>
    exact ⟨_, rfl, takeRequest_keeps (fun a s => (reply_keeps s a f h .resetPart (.ok, .none)).trans (softReset_keeps _)) s⟩
  | resetChannel f h n => exact ⟨_, rfl, taken_keeps (resetChannelReq_keeps n) s⟩
  | partStatus f h => exact ⟨_, rfl, read_keeps (fun _ => rfl) s⟩
  | powerLoss =>
    exact ⟨_, rfl, live_keeps ((abandonSave_keeps s).trans (keeps_of_eq rfl rfl rfl rfl rfl rfl rfl rfl rfl rfl rfl))⟩
  | unknownRequestCode f h code => exact ⟨_, rfl, read_keeps (fun _ => rfl) s⟩

/-- A step runs a command without the queue, of which no invariant speaks. -/
theorem step_keeps {s t : State} (h : step s = .next t) : Keeps s t := by
  cases hq : s.pending with
  | nil =>
    rw [step_idle hq] at h
    obtain rfl := Host.Outcome.next.inj h
    exact Keeps.refl _
  | cons i rest =>
    rw [step_front hq] at h
    obtain ⟨u, hu, hkeeps⟩ := exec_keeps i { s with pending := rest }
    obtain rfl := Host.Outcome.next.inj (hu.symm.trans h)
    have hqueue : Keeps s { s with pending := rest } := keeps_of_eq rfl rfl rfl rfl rfl rfl rfl rfl rfl rfl rfl
    exact hqueue.trans hkeeps

/-- Settles O57: every operation keeps the Time Base's, the queues', the log's and the configuration's invariants. -/
theorem stepsKeepThePart : Obligations.StepsKeepThePart := by
  unfold Obligations.StepsKeepThePart
  intro s t h ⟨htime, hflows, hlog, hconfig⟩
  have hparts := (step_keeps h).parts
  exact ⟨hparts.time htime, hparts.flows hflows, hparts.log hlog, hparts.config hconfig⟩

/-- Settles O58: every operation keeps the sources', the slots', the stores' and the pool's invariants. -/
theorem stepsKeepTheBuffers : Obligations.StepsKeepTheBuffers := by
  unfold Obligations.StepsKeepTheBuffers
  intro s t h ⟨hintake, hgraphics⟩
  have hkeeps := step_keeps h
  exact ⟨⟨hkeeps.chans.intake hintake, hkeeps.parts.graphics hgraphics⟩, hkeeps.chans.stores⟩

/-- Settles O59: every operation of a channel keeps the mode's invariant. -/
theorem stepsKeepTheModes : Obligations.StepsKeepTheModes := by
  unfold Obligations.StepsKeepTheModes
  exact fun s t h => (step_keeps h).chans.modes

/-- Settles O60: the values of a part reset meet the invariants, and the default configuration is valid. -/
theorem resetMeetsTheInvariants : Obligations.ResetMeetsTheInvariants := by
  unfold Obligations.ResetMeetsTheInvariants
  obtain ⟨htime, hflows, hlog, hgraphics⟩ := partsOk_reset (t := State.reset) rfl rfl rfl rfl rfl rfl rfl
  have hconfig : ConfigOk State.reset := (config_valid_iff _).1 default_valid
  have hch : ∀ c : Ch, State.reset.chans[c] = Chan.reset := fun c => by simp [State.reset]
  refine ⟨htime, hflows, hlog, hconfig, fun c => ?_, hgraphics, by decide, fun c => ?_⟩
  · rw [hch]; exact ⟨intakeOk_reset, storeOk_reset, modeOk_reset⟩
  · rw [hch]; simp [OrphanApart, Chan.reset]

end Sys2Proof.Machine

/-! PROOFS. The resets, the supply and the retained image (R195 to R197): what a part reset leaves, the notices it makes, and the writes
of the image. -/

namespace Sys2Proof.Machine

open Sys2Proof

/-! ## A part reset (R197) -/

theorem abandonSave_flash (s : State) : Abandoned s (abandonSave s).flash := by
  unfold abandonSave
  split
  case h_1 hsave => exact ⟨fun _ => rfl, fun h => absurd hsave h⟩
  case h_2 j hsave =>
    refine ⟨fun h => absurd (hsave.symm.trans h) (by simp), fun _ => ?_⟩
    dsimp only
    split <;> simp

theorem abandonSave_rest (s : State) : (abandonSave s).sent = s.sent ∧ (abandonSave s).pending = s.pending ∧
    (abandonSave s).powered = s.powered := by
  unfold abandonSave
  split <;> exact ⟨rfl, rfl, rfl⟩

theorem partReset_blocks (up : Port → Bool) (s : State) : ResetBlocks up (abandonSave s).flash (partReset up s) := by
  refine ⟨rfl, fun p => ?_, rfl, rfl, rfl, rfl, fun c => ?_, fun k => ?_, rfl, rfl, rfl, rfl, rfl, rfl, rfl, rfl⟩
  · simp [partReset]
  · simp [partReset, State.reset]
  · simp [partReset, State.reset]

/-- The flags, the counters and the wire after a part reset. -/
theorem partReset_rest (up : Port → Bool) (s : State) :
    (partReset up s).powered = s.powered ∧ (partReset up s).nextMain = 0 ∧ (partReset up s).nextLocal = 0 ∧
      (partReset up s).resetNotices = true ∧ (partReset up s).sent = s.sent ∧ (partReset up s).pending = s.pending ∧
      ((partReset up s).defaultedNotice = true ↔ (abandonSave s).flash.load.2 ≠ .image) := by
  obtain ⟨hsent, hpending, hpowered⟩ := abandonSave_rest s
  exact ⟨hpowered, rfl, rfl, rfl, hsent, hpending, decide_eq_true_iff⟩

/-- Settles O4: both commands are the part reset with every link DOWN; the second clause compares it with the first state. -/
theorem powerOnAndResetPinResetThePart : Obligations.PowerOnAndResetPinResetThePart := by
  unfold Obligations.PowerOnAndResetPinResetThePart
  refine ⟨fun i s hi => ?_, fun s hflash hsave hsent hdraws hpending => ?_⟩
  · rcases hi with rfl | ⟨rfl, hpowered⟩
    · obtain ⟨hpow, hmain, hlocal, hnotices, hsent, hpending, hdef⟩ :=
        partReset_rest (fun _ => false) { s with powered := true }
      exact ⟨_, _, abandonSave_flash { s with powered := true }, rfl, partReset_blocks _ _, hpow, hmain, hlocal, hnotices, hdef,
        hsent, hpending⟩
    · obtain ⟨hpow, hmain, hlocal, hnotices, hsent, hpending, hdef⟩ := partReset_rest (fun _ => false) s
      refine ⟨_, _, abandonSave_flash s, ?_, partReset_blocks _ _, hpow.trans hpowered, hmain, hlocal, hnotices, hdef, hsent,
        hpending⟩
      exact congrArg Host.Outcome.next (live_on hpowered)
  · have hkept : abandonSave { s with powered := true } = { s with powered := true } := by simp [abandonSave, hsave]
    have hports : (Vector.ofFn fun _ : Port => PortState.reset false) = Vector.replicate 4 (PortState.reset false) :=
      Vector.ext fun i hi => by simp
    show Host.Outcome.next (partReset (fun _ => false) { s with powered := true }) = _
    unfold partReset
    rw [hkept]
    simp only [hflash, hsent, hdraws, hpending, hports]
    rfl

/-! ## The reset notices (R64, R188) -/

theorem setCh_self (s : State) (c : Ch) : s.setCh c s.chans[c] = s := by
  have hset : s.chans.set c s.chans[c] = s.chans := by simp
  unfold State.setCh
  rw [hset]

theorem runCh_resetNotice (s : State) (c : Ch) : runCh c resetNotice s = s.notice .main c.val
    (.refreshNeeded .reset s.chans[c].mirror.state s.chans[c].mirror.lastSeq s.now) :=
  congrArg (fun t => State.notice t .main c.val
    (.refreshNeeded .reset s.chans[c].mirror.state s.chans[c].mirror.lastSeq s.now)) (setCh_self s c)

theorem noticePackets_congr {s t : State} (hflows : t.flows = s.flows) (hports : t.ports = s.ports) (f : CtlFlow)
    (number channel : Nat) (n : Notice) : noticePackets t f number channel n = noticePackets s f number channel n := by
  simp only [noticePackets, leaves, State.ctlAddr, hflows, hports]

/-- The packets of the reset notices of some channels, numbered from `n` on. -/
def resetPackets (s : State) (n : Nat) (l : List Ch) : List Sent :=
  (l.zipIdx n).flatMap fun x => noticePackets s .main (x.2 % two16) x.1.val
    (.refreshNeeded .reset s.chans[x.1].mirror.state s.chans[x.1].mirror.lastSeq s.now)

theorem resetPackets_mod (s : State) (n : Nat) (l : List Ch) : resetPackets s (n % two16) l = resetPackets s n l := by
  unfold resetPackets
  induction l generalizing n with
  | nil => rfl
  | cons c l ih =>
    simp only [List.zipIdx_cons, List.flatMap_cons, Nat.mod_mod]
    rw [← ih (n % two16 + 1), ← ih (n + 1), Nat.mod_add_mod]

/-- Reset notices one after another: each takes the next number. -/
theorem foldResetNotice (l : List Ch) (s : State) (hnext : s.nextMain < two16) :
    l.foldl (fun s c => runCh c resetNotice s) s =
      { s with nextMain := (s.nextMain + l.length) % two16, sent := s.sent ++ resetPackets s s.nextMain l } := by
  induction l generalizing s with
  | nil => simp [resetPackets, Nat.mod_eq_of_lt hnext]
  | cons c l ih =>
    rw [List.foldl_cons, runCh_resetNotice, notice_main_eq, ih _ (Nat.mod_lt _ (by decide))]
    have hmod := resetPackets_mod s (s.nextMain + 1) l
    simp only [State.mk.injEq, true_and, and_true, List.length_cons]
    refine ⟨?_, ?_⟩
    · rw [Nat.mod_add_mod]; congr 1; omega
    · rw [List.append_assoc]
      congr 1
      show noticePackets s .main s.nextMain c.val _ ++ resetPackets s ((s.nextMain + 1) % two16) l = _
      rw [hmod]
      simp only [resetPackets, List.zipIdx_cons, List.flatMap_cons, Nat.mod_eq_of_lt hnext]

theorem runAll_resetNotice (s : State) (hnext : s.nextMain < two16) : runAll resetNotice s =
    { s with nextMain := (s.nextMain + 8) % two16, sent := s.sent ++ resetPackets s s.nextMain (List.finRange 8) } :=
  (foldResetNotice (List.finRange 8) s hnext).trans (by rw [List.length_finRange])

/-- However the number stood, the eight notices advance it by eight. -/
theorem runAll_resetNotice_nextMain (s : State) : (runAll resetNotice s).nextMain = (s.nextMain + 8) % two16 := by
  have hsplit : List.finRange 8 = 0 :: (List.finRange 7).map Fin.succ := List.finRange_succ
  unfold runAll
  rw [hsplit, List.foldl_cons, runCh_resetNotice, notice_main_eq, foldResetNotice _ _ (Nat.mod_lt _ (by decide))]
  show ((s.nextMain + 1) % two16 + _) % two16 = _
  simp [Nat.mod_add_mod, Nat.add_assoc]

/-- The reset notices change their flow's number and the wire only. -/
theorem runAll_resetNotice_heard (s : State) : (runAll resetNotice s).chans = s.chans ∧
    (runAll resetNotice s).nextLocal = s.nextLocal ∧ (runAll resetNotice s).log = s.log ∧
      ∃ v, (runAll resetNotice s).sent = s.sent ++ v := by
  unfold runAll
  generalize List.finRange 8 = l
  induction l generalizing s with
  | nil => exact ⟨rfl, rfl, rfl, [], (List.append_nil _).symm⟩
  | cons c l ih =>
    rw [List.foldl_cons, runCh_resetNotice, notice_main_eq]
    obtain ⟨hchans, hlocal, hlog, v, hv⟩ := ih
      { s with nextMain := (s.nextMain + 1) % two16
               sent := s.sent ++ noticePackets s .main s.nextMain c.val
                 (.refreshNeeded .reset s.chans[c].mirror.state s.chans[c].mirror.lastSeq s.now) }
    exact ⟨hchans, hlocal, hlog, _, hv.trans (List.append_assoc _ _ _)⟩

theorem mainUp_congr {s t : State} (hflows : t.flows = s.flows) (hports : t.ports = s.ports) : t.mainUp = s.mainUp := by
  simp only [State.mainUp, State.ctlAddr, hflows, hports]

theorem localUp_congr {s t : State} (hflows : t.flows = s.flows) (hports : t.ports = s.ports) : t.localUp = s.localUp := by
  simp only [State.localUp, State.ctlAddr, hflows, hports]

/-- What RELEASE of the reset notices does: nothing but their numbers, their packets and the flag. -/
structure Released (s t : State) : Prop where
  ports : t.ports = s.ports
  flows : t.flows = s.flows
  kept : t.powered = s.powered ∧ t.time = s.time ∧ t.params = s.params ∧ t.table = s.table ∧ t.graphics = s.graphics ∧
    t.beat = s.beat ∧ t.expired = s.expired ∧ t.inMain = s.inMain ∧ t.inLocal = s.inLocal ∧ t.source = s.source ∧
    t.flash = s.flash ∧ t.save = s.save ∧ t.lastSave = s.lastSave
  chans : t.chans = s.chans
  log : t.log = s.log
  nextLocal : t.nextLocal = s.nextLocal
  defaulted : t.defaultedNotice = s.defaultedNotice
  sent : ∃ v, t.sent = s.sent ++ v
  up : s.mainUp = true → t.resetNotices = false ∧ (s.resetNotices = true → t.nextMain = (s.nextMain + 8) % two16)
  down : s.mainUp = false → t.resetNotices = s.resetNotices ∧ t.nextMain = s.nextMain

theorem releaseReset_released (s : State) : Released s (releaseReset s) := by
  unfold releaseReset
  split
  case isTrue h =>
    obtain ⟨hnotices, hup⟩ := h
    obtain ⟨hpow, htime, hports, hflows, hparams, htable, hgraph, hbeat, hexp, hmain, hloc, hsource, hflash, hsave, hlast, hres,
      hdef, -⟩ := runAll_kept resetNotice { s with resetNotices := false }
    obtain ⟨hchans, hlocal, hlog, hsent⟩ := runAll_resetNotice_heard { s with resetNotices := false }
    exact { ports := hports, flows := hflows, chans := hchans, log := hlog, nextLocal := hlocal, defaulted := hdef, sent := hsent
            kept := ⟨hpow, htime, hparams, htable, hgraph, hbeat, hexp, hmain, hloc, hsource, hflash, hsave, hlast⟩
            up := fun _ => ⟨hres, fun _ => runAll_resetNotice_nextMain _⟩
            down := fun hdown => absurd (hup.symm.trans hdown) (by decide) }
  case isFalse h =>
    refine { ports := rfl, flows := rfl, chans := rfl, log := rfl, nextLocal := rfl, defaulted := rfl,
             sent := ⟨[], (List.append_nil _).symm⟩, kept := by simp, up := fun hup => ?_, down := fun _ => ⟨rfl, rfl⟩ }
    have hfalse : s.resetNotices = false := by simpa [hup] using h
    exact ⟨hfalse, fun hn => absurd (hfalse.symm.trans hn) (by decide)⟩

/-! ## RESET(PART) -/

/-- The CONFIG DEFAULTED notice that a part reset makes at once (R196). -/
theorem defaultedAtOnce {s : State} (hflag : s.defaultedNotice = true ↔ s.source ≠ .image) :
    ∃ v, (if s.defaultedNotice then defaultedNotice { s with defaultedNotice := false } else s) =
      { s with defaultedNotice := false, nextLocal := if s.source = .image then s.nextLocal else (s.nextLocal + 1) % two16,
               sent := s.sent ++ v } := by
  cases hsource : s.source with
  | image =>
    have hoff : s.defaultedNotice = false := by simpa [hsource] using hflag
    refine ⟨[], ?_⟩
    rw [if_neg (by simp [hoff])]
    cases s
    simp_all
  | defaulted why =>
    have hon : s.defaultedNotice = true := by simpa [hsource] using hflag
    rw [if_pos hon]
    refine ⟨noticePackets s .loc s.nextLocal 15 (.config (.defaulted why) none (some s.time.hfn)), ?_⟩
    simp only [defaultedNotice, notice_local_eq]
    rfl

/-- Settles O5: the reply leaves first; then the part reset and the two releases. -/
theorem resetPartKeepsTheLinks : Obligations.ResetPartKeepsTheLinks := by
  unfold Obligations.ResetPartKeepsTheLinks
  intro f h s hturn
  have hpow := hturn.1
  have hafter : ∀ p : Port, (afterTurn f s).ports[p].up = s.ports[p].up := fun p => by rw [(afterTurn_kept f s).2.1]
  obtain ⟨r, hr⟩ : ∃ r, r = (afterTurn f s).reply (s.ctlAddr f) f h .resetPart (.ok, .none) := ⟨_, rfl⟩
  have hexec : exec (.resetPart f h) s = .next (softReset r) := by
    rw [hr]; exact congrArg Host.Outcome.next (takeRequest_turn _ hturn)
  have hreply := hr.trans (reply_eq _ hafter)
  have hsent : r.sent = s.sent ++ replyPackets s f h .resetPart (.ok, .none) := by
    rw [hreply]; exact congrArg (· ++ _) (afterTurn_kept f s).2.2
  have hports : ∀ p : Port, r.ports[p].up = s.ports[p].up := fun p => by rw [hreply]; exact hafter p
  have hflash : r.flash = s.flash ∧ r.save = s.save ∧ r.powered = true := by
    rw [hreply]; simp [afterTurn, hpow]
  obtain ⟨hflash, hsave, hpowered⟩ := hflash
  have habandoned : Abandoned s (abandonSave r).flash := by
    have := abandonSave_flash r
    rwa [Abandoned, hflash, hsave] at this
  obtain ⟨u, hu⟩ : ∃ u, u = partReset (fun p => r.ports[p].up) r := ⟨_, rfl⟩
  have hblocks := partReset_blocks (fun p => r.ports[p].up) r
  obtain ⟨hpow', hmain, hlocal, hnotices, hsent', -, hflag⟩ := partReset_rest (fun p => r.ports[p].up) r
  rw [← hu] at hblocks hpow' hmain hlocal hnotices hsent' hflag
  obtain ⟨htime, hupports, hflows, hparams, htable, hsource, hchans, hgraphics, hbeat, hexpired, hlog, hinMain, hinLocal, hfl, hsv,
    hlast⟩ := hblocks
  rw [← hsource] at hflag
  obtain ⟨v, hv⟩ := defaultedAtOnce hflag
  have hsoft : softReset r = releaseReset
      { u with defaultedNotice := false, nextLocal := if u.source = .image then u.nextLocal else (u.nextLocal + 1) % two16,
               sent := u.sent ++ v } := by
    rw [← hv, hu]; rfl
  have hrel := releaseReset_released
    { u with defaultedNotice := false, nextLocal := if u.source = .image then u.nextLocal else (u.nextLocal + 1) % two16,
             sent := u.sent ++ v }
  rw [← hsoft] at hrel
  obtain ⟨kpow, ktime, kparams, ktable, kgraph, kbeat, kexp, kmain, kloc, ksource, kflash, ksave, klast⟩ := hrel.kept
  obtain ⟨v', hv'⟩ := hrel.sent
  have hup := mainUp_congr hrel.flows hrel.ports
  refine ⟨_, softReset r, v ++ v', habandoned, hexec, ?_, kpow.trans (hpow'.trans hpowered), ?_, fun hm => ?_, fun hm => ?_, ?_,
    hrel.defaulted⟩
  · exact ⟨ktime.trans htime, fun p => by rw [hrel.ports]; exact (hupports p).trans (congrArg PortState.reset (hports p)), hrel.flows.trans hflows,
      kparams.trans hparams, ktable.trans htable, ksource.trans hsource, fun c => by rw [hrel.chans]; exact hchans c,
      fun k => by rw [kgraph]; exact hgraphics k, kbeat.trans hbeat, kexp.trans hexpired, hrel.log.trans hlog,
      kmain.trans hinMain, kloc.trans hinLocal, kflash.trans hfl, ksave.trans hsv, klast.trans hlast⟩
  · rw [hv', ← List.append_assoc, ← hsent, ← hsent']
  · obtain ⟨hoff, hnext⟩ := hrel.up (hup ▸ hm)
    exact ⟨hoff, by rw [hnext hnotices]; show (u.nextMain + 8) % two16 = 8; rw [hmain]; rfl⟩
  · obtain ⟨hon, hnext⟩ := hrel.down (hup ▸ hm)
    exact ⟨hon.trans hnotices, hnext.trans hmain⟩
  · rw [hrel.nextLocal, ← hsource, hlocal]
    rfl

/-! ## Writes of the image (R195) -/

theorem saveComplete_idle {s : State} (good : Bool) (h : s.save = none) : saveComplete good s = s := by simp [saveComplete, h]

theorem written_readsBack (good : Bool) (c : Config) : (written good c).readsBack = good := by
  cases good <;> simp [written, Image.readsBack]

theorem saveComplete_writes {s : State} {j : SaveJob} (good : Bool) (h : s.save = some j) : saveComplete good s =
    { s with save := none, flash := written good j.copy, lastSave := if good then .saved else .failed
             nextLocal := (s.nextLocal + 1) % two16
             sent := s.sent ++ noticePackets s .loc s.nextLocal 15
               (.config (if good then .saved else .failed) (some j.tag) (some s.time.hfn)) } := by
  simp only [saveComplete, h, written_readsBack, notice_local_eq]
  rfl

/-- Settles O6, request by request. -/
theorem writesBeginEndAndAreAbandoned : Obligations.WritesBeginEndAndAreAbandoned := by
  unfold Obligations.WritesBeginEndAndAreAbandoned
  refine ⟨fun s hpow => ⟨fun hsave => ?_, fun j hsave => ?_⟩, fun f h s hturn => ⟨fun hsave => ?_, fun hsave => ?_⟩,
    fun good s hpow => ⟨fun hsave => ?_, fun j hsave => ?_⟩⟩
  · refine congrArg Host.Outcome.next ((live_on hpow).trans ?_)
    simp [abandonSave, hsave]
  · refine ⟨if Config.abandonedErased s.draws then .blank else .bad, s.draws + 1, ?_, congrArg Host.Outcome.next ?_⟩
    · split <;> [exact .inl rfl; exact .inr rfl]
    · rw [live_on hpow, abandonSave, hsave]
  · have hsave' : (afterTurn f s).save = none := by simp [afterTurn, hsave]
    have hop : saveConfigOn h (afterTurn f s) =
        ({ afterTurn f s with save := some { tag := h.tag, copy := (afterTurn f s).config } }, .ok, .none) := by
      simp [saveConfigOn, hsave']
    refine congrArg Host.Outcome.next ((answered_turn hturn fun p => ?_).trans ?_)
    · rw [hop]; simp [afterTurn]
    · rw [hop]; simp [afterTurn, State.config]
  · have hop : saveConfigOn h (afterTurn f s) = deny .busy (afterTurn f s) := by
      obtain ⟨j, hj⟩ := Option.ne_none_iff_exists'.1 hsave
      simp [saveConfigOn, afterTurn, hj]
    refine congrArg Host.Outcome.next ((answered_turn hturn fun p => ?_).trans ?_)
    · rw [hop]; simp [deny, afterTurn]
    · rw [hop]; simp [deny, afterTurn]
  · exact congrArg Host.Outcome.next ((live_on hpow).trans (saveComplete_idle good hsave))
  · refine congrArg Host.Outcome.next ((live_on hpow).trans ((saveComplete_writes good hsave).trans ?_))
    rfl

/-- Settles O7: the image reads back, its contents are valid, and the reset loads them. -/
theorem savedConfigurationReturnsAtReset : Obligations.SavedConfigurationReturnsAtReset := by
  unfold Obligations.SavedConfigurationReturnsAtReset
  intro s j hpow hsave hrange hflows htable
  have hvalid : j.copy.valid = true := (config_valid_iff _).2 ⟨hrange, hflows, htable⟩
  have hload : (written true j.copy).load = (j.copy, .image) := by
    have hback := written_readsBack true j.copy
    simp only [written, if_true] at hback ⊢
    simp [Image.load, hback, hvalid]
  obtain ⟨t, ht⟩ : ∃ t, t = saveComplete true s := ⟨_, rfl⟩
  have hflash : (abandonSave { t with powered := true }).flash = written true j.copy := by
    rw [ht, saveComplete_writes true hsave]; rfl
  obtain ⟨htime, -, hfl, hparams, htab, hsource, -⟩ := partReset_blocks (fun _ => false) { t with powered := true }
  rw [hflash, hload] at htime hfl hparams htab hsource
  refine ⟨t, _, ?_, rfl, hparams, hfl, htab, hsource, ?_⟩
  · rw [ht]; exact congrArg Host.Outcome.next (live_on hpow)
  · exact congrArg TimeBase.rate htime

end Sys2Proof.Machine

/-! PROOFS. The links (R64, R68, R196): LINK_UP releases what waited, LINK_DOWN discards what was open, and the releases on their own. -/

namespace Sys2Proof.Machine

open Sys2Proof

/-! ## Sources changed one after another -/

theorem modSource_source (s : State) (c d : Ch) (k j : SrcId) (f : Source → Source) :
    (s.modSource c k f).chans[d].intake.source j =
      if d = c ∧ j = k then f (s.chans[c].intake.source k) else s.chans[d].intake.source j := by
  unfold State.modSource
  rw [setCh_cases]
  by_cases hdc : d = c
  · subst hdc
    cases k <;> cases j <;> simp [Intake.modSource, Intake.source]
  · simp [hdc]

theorem modSource_kept (s : State) (c : Ch) (k : SrcId) (f : Source → Source) : PartKept s (s.modSource c k f) := setCh_kept s c _

/-- The named sources of a list, each changed by one operation that a second time changes nothing more. -/
def State.modSources (s : State) (l : List (Ch × SrcId)) (f : Source → Source) : State :=
  l.foldl (fun s x => s.modSource x.1 x.2 f) s

theorem modSources_kept (f : Source → Source) (l : List (Ch × SrcId)) (s : State) : PartKept s (s.modSources l f) := by
  induction l generalizing s with
  | nil => exact PartKept.refl s
  | cons x l ih => exact (modSource_kept s x.1 x.2 f).trans (ih _)

theorem modSources_source {f : Source → Source} (hf : ∀ x, f (f x) = f x) (l : List (Ch × SrcId)) (s : State) (c : Ch) (k : SrcId) :
    (s.modSources l f).chans[c].intake.source k =
      if (c, k) ∈ l then f (s.chans[c].intake.source k) else s.chans[c].intake.source k := by
  induction l generalizing s with
  | nil => simp [State.modSources]
  | cons x l ih =>
    obtain ⟨d, j⟩ := x
    have hstep := ih (s.modSource d j f)
    rw [modSource_source] at hstep
    rw [show s.modSources ((d, j) :: l) f = (s.modSource d j f).modSources l f from rfl, hstep]
    by_cases hhere : c = d ∧ k = j
    · obtain ⟨rfl, rfl⟩ := hhere
      simp [hf]
    · have hne : (c, k) ≠ (d, j) := fun e => hhere (Prod.mk.inj e)
      simp [hhere, hne]

theorem discard_discard (x : Source) : x.discard.discard = x.discard := by
  unfold Source.discard
  cases h : x.asm <;> simp [h]

theorem discard_facts (x : Source) : x.discard.asm = none ∧ x.discard.fifo = x.fifo ∧
    x.discard.incomplete = if x.asm.isSome then sat32 x.incomplete else x.incomplete := by
  unfold Source.discard
  cases h : x.asm <;> simp [h]

theorem mem_fedBy {s : State} {p : Port} {c : Ch} {k : SrcId} : (c, k) ∈ fedBy s p ↔
    ∃ e ∈ s.flows, e.port = p ∧ e.channel = some c ∧ roleSource e.role = some k := by
  unfold fedBy
  rw [List.mem_filterMap]
  refine exists_congr fun e => and_congr_right fun _ => ?_
  by_cases hport : e.port = p
  · cases e.channel <;> cases roleSource e.role <;> simp [hport]
  · simp [hport]

/-! ## LINK_UP -/

theorem releaseDefaulted_heard (s : State) :
    (releaseDefaulted s).ports = s.ports ∧ (releaseDefaulted s).flows = s.flows ∧ (releaseDefaulted s).chans = s.chans ∧
      (releaseDefaulted s).resetNotices = s.resetNotices ∧ (releaseDefaulted s).nextMain = s.nextMain ∧
      (s.localUp = true → (releaseDefaulted s).defaultedNotice = false) := by
  unfold releaseDefaulted
  split
  case isTrue =>
    unfold defaultedNotice
    split
    · rw [notice_local_eq]; exact ⟨rfl, rfl, rfl, rfl, rfl, fun _ => rfl⟩
    · exact ⟨rfl, rfl, rfl, rfl, rfl, fun _ => rfl⟩
  case isFalse h => exact ⟨rfl, rfl, rfl, rfl, rfl, fun hup => by simpa [hup] using h⟩

/-- An AS_RUN notice is one of LOCAL_CTL: the test of R183 leaves the numbers of MAIN_CTL alone. -/
theorem asRunTest_nextMain (n : Nat) (s : State) : (asRunTest n s).nextMain = s.nextMain := by
  induction n generalizing s with
  | zero => rfl
  | succ n ih =>
    unfold asRunTest
    split
    · rw [ih, emitAsRun, notice_local_eq]
    · rfl

theorem testAsRun_nextMain (s : State) : s.testAsRun.nextMain = s.nextMain := asRunTest_nextMain _ s

/-- What LINK_UP leaves: the port, the channels, and the notices that waited. -/
structure LinkedUp (p : Port) (s t : State) : Prop where
  ports : t.ports = s.ports.set p { s.ports[p] with up := true }
  chans : t.chans = s.chans
  up : t.mainUp = true → t.resetNotices = false ∧ (s.resetNotices = true → t.nextMain = (s.nextMain + 8) % two16)
  down : t.mainUp = false → t.resetNotices = s.resetNotices
  defaulted : ∀ tag, s.ctlAddr .loc = some (p, tag) → t.defaultedNotice = false

theorem linkUp_linkedUp {p : Port} {s : State} (hdown : s.ports[p].up = false) : LinkedUp p s (linkUp p s) := by
  obtain ⟨v, hv⟩ : ∃ v, v = s.modPort p fun x => { x with up := true } := ⟨_, rfl⟩
  have hrel := releaseReset_released v
  obtain ⟨u, hu⟩ : ∃ u, u = releaseReset v := ⟨_, rfl⟩
  rw [← hu] at hrel
  have hlink : linkUp p s =
      if (u.ctlAddr .loc).any (fun a => decide (a.1 = p)) then (releaseDefaulted u).testAsRun else u := by
    rw [hu, hv]; unfold linkUp; rw [if_neg (by rw [hdown]; decide)]
  have hports : u.ports = s.ports.set p { s.ports[p] with up := true } := by rw [hrel.ports, hv]; rfl
  have hchans : u.chans = s.chans := by rw [hrel.chans, hv]; rfl
  have hnotices : v.resetNotices = s.resetNotices ∧ v.nextMain = s.nextMain := by rw [hv]; exact ⟨rfl, rfl⟩
  obtain ⟨hres, hnext⟩ := hnotices
  have hmain : u.mainUp = v.mainUp := mainUp_congr hrel.flows hrel.ports
  have hflows : u.flows = s.flows := by rw [hrel.flows, hv]; rfl
  by_cases hlocal : (u.ctlAddr .loc).any (fun a => decide (a.1 = p)) = true
  · obtain ⟨dports, dflows, dchans, dres, dnext, ddef⟩ := releaseDefaulted_heard u
    obtain ⟨⟨-, -, tports, tflows, -, -, -, -, -, -, -, -, -, -, -, tres, tdef, -⟩, tchans⟩ :=
      testAsRun_heard (releaseDefaulted u)
    have hup := (mainUp_congr (tflows.trans dflows) (tports.trans dports)).trans hmain
    rw [hlink, if_pos hlocal]
    refine { ports := (tports.trans dports).trans hports, chans := (tchans.trans dchans).trans hchans
             up := fun h => ?_, down := fun h => ?_, defaulted := fun tag htag => ?_ }
    · obtain ⟨hoff, hn⟩ := hrel.up (hup ▸ h)
      refine ⟨(tres.trans dres).trans hoff, fun hr => ((testAsRun_nextMain _).trans dnext).trans ?_⟩
      rw [hn (hres.trans hr), hnext]
    · exact ((tres.trans dres).trans (hrel.down (hup ▸ h)).1).trans hres
    · refine tdef.trans (ddef ?_)
      have haddr : u.ctlAddr .loc = some (p, tag) := by rw [← htag]; simp only [State.ctlAddr, hflows]
      simp [State.localUp, haddr, hports]
  · rw [hlink, if_neg hlocal]
    refine { ports := hports, chans := hchans, up := fun h => ?_, down := fun h => ?_, defaulted := fun tag htag => ?_ }
    · obtain ⟨hoff, hn⟩ := hrel.up (hmain ▸ h)
      exact ⟨hoff, fun hr => by rw [hn (hres.trans hr), hnext]⟩
    · exact (hrel.down (hmain ▸ h)).1.trans hres
    · have haddr : u.ctlAddr .loc = some (p, tag) := by rw [← htag]; simp only [State.ctlAddr, hflows]
      exact absurd (by simp [haddr]) hlocal

/-! ## LINK_DOWN -/

theorem linkDown_eq {p : Port} {s : State} (hup : s.ports[p].up = true) :
    linkDown p s = (s.modPort p fun x => { x with up := false }).modSources (fedBy s p) Source.discard := by
  unfold linkDown
  rw [if_pos hup]
  rfl

/-! ## The releases -/

theorem mainUp_address {s : State} (h : s.mainUp = true) : ∃ p tag, s.ctlAddr .main = some (p, tag) ∧ s.ports[p].up = true := by
  unfold State.mainUp at h
  split at h
  case h_1 p tag haddr => exact ⟨p, tag, haddr, h⟩
  case h_2 => exact absurd h (by decide)

theorem noticePackets_up {s : State} {f : CtlFlow} {p : Port} {tag : Nat} (haddr : s.ctlAddr f = some (p, tag))
    (hup : s.ports[p].up = true) (number channel : Nat) (n : Notice) :
    noticePackets s f number channel n = [{ port := p, tag := tag, what := .notice f number channel n }] := by
  simp only [noticePackets, leaves, haddr]
  rw [if_pos hup]

/-- With the link UP the eight packets leave, in channel order. -/
theorem resetPackets_up {s : State} {p : Port} {tag : Nat} (haddr : s.ctlAddr .main = some (p, tag))
    (hup : s.ports[p].up = true) (n : Nat) : resetPackets s n (List.finRange 8) = (List.finRange 8).map fun c =>
      { port := p, tag := tag, what := .notice .main ((n + c.val) % two16) c.val
          (.refreshNeeded .reset s.chans[c].mirror.state s.chans[c].mirror.lastSeq s.now) } := by
  unfold resetPackets
  simp only [noticePackets_up haddr hup]
  rfl

/-- The releases have no effect while nothing waits or the flow has no link. -/
theorem releaseReset_idle {s : State} (h : s.resetNotices = false ∨ s.mainUp = false) : releaseReset s = s := by
  unfold releaseReset
  rw [if_neg]
  rintro ⟨hnotices, hup⟩
  rcases h with h | h
  · exact absurd (hnotices.symm.trans h) (by decide)
  · exact absurd (hup.symm.trans h) (by decide)

theorem releaseDefaulted_idle {s : State} (h : s.defaultedNotice = false ∨ s.localUp = false) : releaseDefaulted s = s := by
  unfold releaseDefaulted
  rw [if_neg]
  rintro ⟨hnotice, hup⟩
  rcases h with h | h
  · exact absurd (hnotice.symm.trans h) (by decide)
  · exact absurd (hup.symm.trans h) (by decide)

theorem releaseReset_waiting {s : State} (hnotices : s.resetNotices = true) (hup : s.mainUp = true) (hnext : s.nextMain < two16) :
    releaseReset s = { s with
      resetNotices := false, nextMain := (s.nextMain + 8) % two16,
      sent := s.sent ++ resetPackets s s.nextMain (List.finRange 8) } := by
  have hall := runAll_resetNotice { s with resetNotices := false } hnext
  have hpackets : resetPackets { s with resetNotices := false } s.nextMain (List.finRange 8) =
      resetPackets s s.nextMain (List.finRange 8) := rfl
  unfold releaseReset
  rw [if_pos ⟨hnotices, hup⟩, hall, hpackets]

/-- Settles O12, command by command. -/
theorem linksComeAndGo : Obligations.LinksComeAndGo := by
  unfold Obligations.LinksComeAndGo
  refine ⟨⟨fun p s hpow hdown => ?_, fun p s hpow hup => ?_, fun p s hpow => ⟨fun hup => ?_, fun hdown => ?_⟩⟩,
    fun s hpow hnotices hup hnext => ?_, fun s why hpow hnotice hup hsource => ?_, fun s hpow => ⟨fun h => ?_, fun h => ?_⟩⟩
  · have hlinked := linkUp_linkedUp hdown
    exact ⟨linkUp p s, congrArg Host.Outcome.next (live_on hpow), hlinked.ports, hlinked.chans, fun h => (hlinked.up h).1,
      hlinked.down, fun h => (hlinked.up h).2, hlinked.defaulted⟩
  · obtain ⟨t, ht⟩ : ∃ t, t = s.modPort p fun x => { x with up := false } := ⟨_, rfl⟩
    have hsource := modSources_source discard_discard (fedBy s p) t
    obtain ⟨-, htime, hports, hflows, hparams, -⟩ := modSources_kept Source.discard (fedBy s p) t
    have hchans : t.chans = s.chans := by rw [ht]; rfl
    rw [ht] at htime hports hflows hparams
    refine ⟨t.modSources (fedBy s p) Source.discard,
      (congrArg Host.Outcome.next ((live_on hpow).trans (linkDown_eq hup))).trans (by rw [ht]), ?_, fun c k hfed => ?_, fun c k hfed => ?_, ?_, ?_, ?_⟩
    · rw [ht]; exact hports
    · obtain ⟨hasm, hfifo, hcount⟩ := discard_facts (s.chans[c].intake.source k)
      rw [hsource c k, if_pos (mem_fedBy.2 hfed), hchans]
      exact ⟨hasm, hfifo, hcount⟩
    · rw [hsource c k, if_neg fun h => hfed (mem_fedBy.1 h), hchans]
    · rw [ht]; exact hflows
    · rw [ht]; exact hparams
    · rw [ht]; exact htime
  · exact congrArg Host.Outcome.next ((live_on hpow).trans (by unfold linkUp; rw [if_pos hup]))
  · exact congrArg Host.Outcome.next ((live_on hpow).trans (by unfold linkDown; rw [if_neg (by rw [hdown]; decide)]))
  · obtain ⟨p, tag, haddr, hport⟩ := mainUp_address hup
    refine ⟨releaseReset s, congrArg Host.Outcome.next (live_on hpow), ?_⟩
    rw [releaseReset_waiting hnotices hup hnext]
    exact ⟨rfl, rfl, rfl, rfl, rfl, p, tag, haddr, congrArg _ (resetPackets_up haddr hport _)⟩
  · refine congrArg Host.Outcome.next ((live_on hpow).trans ?_)
    unfold releaseDefaulted
    rw [if_pos ⟨hnotice, hup⟩]
    simp only [defaultedNotice, hsource, notice_local_eq]
    rfl
  · exact congrArg Host.Outcome.next ((live_on hpow).trans (releaseReset_idle h))
  · exact congrArg Host.Outcome.next ((live_on hpow).trans (releaseDefaulted_idle h))

end Sys2Proof.Machine

/-! PROOFS. The Time Base (R1, R2, R10 to R14): the first period, the boundaries of the LOCKED and the FREE_RUN part, and the relock
count. -/

namespace Sys2Proof.Machine

open Sys2Proof

/-! ## What the work of a period finds -/

/-- Beside the time, all that the work of a period reads stands as it did. -/
structure SameWork (s t : State) : Prop where
  chans : t.chans = s.chans
  ports : t.ports = s.ports
  flows : t.flows = s.flows
  params : t.params = s.params
  table : t.table = s.table
  graphics : t.graphics = s.graphics
  tick : t.log.tick = s.log.tick
  beat : t.beat = s.beat
  expired : t.expired = s.expired

theorem SameWork.trans {s t u : State} (a : SameWork s t) (b : SameWork t u) : SameWork s u where
  chans := b.chans.trans a.chans
  ports := b.ports.trans a.ports
  flows := b.flows.trans a.flows
  params := b.params.trans a.params
  table := b.table.trans a.table
  graphics := b.graphics.trans a.graphics
  tick := b.tick.trans a.tick
  beat := b.beat.trans a.beat
  expired := b.expired.trans a.expired

theorem sameWork_modTime (s : State) (f : TimeBase → TimeBase) : SameWork s (s.modTime f) :=
  ⟨rfl, rfl, rfl, rfl, rfl, rfl, rfl, rfl, rfl⟩

theorem sameWork_of_heard {s t : State} (h : Heard s t) (htick : t.log.tick = s.log.tick) : SameWork s t := by
  obtain ⟨⟨-, -, hports, hflows, hparams, htable, hgraphics, hbeat, hexpired, -⟩, hchans⟩ := h
  exact ⟨hchans, hports, hflows, hparams, htable, hgraphics, htick, hbeat, hexpired⟩

theorem closePeriod_sameWork (s : State) : SameWork s s.closePeriod := sameWork_of_heard (closePeriod_heard s) (closePeriod_tick s)

theorem refNotice_sameWork (why : RefReason) (carried : Option RefLabel) (own : Option Label) (s : State) :
    SameWork s (refNotice why carried own s) :=
  sameWork_of_heard (notice_heard _ _ _ _) (congrArg Log.tick (notice_log _ _ _ _))

theorem refNotice_time (why : RefReason) (carried : Option RefLabel) (own : Option Label) (s : State) :
    (refNotice why carried own s).time = s.time := by
  obtain ⟨⟨-, htime, -⟩, -⟩ := notice_heard s .loc 15 (.reference why s.time.hfn s.time.refState s.time.slips carried own)
  exact htime

theorem closePeriod_time (s : State) : s.closePeriod.time = s.time := by
  obtain ⟨⟨-, htime, -⟩, -⟩ := closePeriod_heard s
  exact htime

theorem nextHfn_sameWork (s : State) : SameWork s (nextHfn s) := by
  unfold nextHfn
  split <;> exact ⟨rfl, rfl, rfl, rfl, rfl, rfl, rfl, rfl, rfl⟩

theorem boundaryAt_sameWork (n : Nat) (s : State) : SameWork s (boundaryAt n s) :=
  ((closePeriod_sameWork s).trans (nextHfn_sameWork _)).trans (sameWork_modTime _ _)

/-- The work of a period whose frames are not built, done after commands that touched only the time. -/
theorem periodWork_after {s v : State} (h : SameWork s v) (hbuilt : v.time.built = false) :
    (periodWork v).time = { v.time with built := true } ∧ PeriodDone s (periodWork v) := by
  obtain ⟨htime, hdone⟩ := periodWork_facts v hbuilt
  exact ⟨htime, hdone.before h.chans h.ports h.flows h.params h.table h.graphics h.tick h.beat h.expired⟩

/-! ## A boundary -/

theorem nextHfn_time (s : State) : ∃ m, (nextHfn s).time = { s.time with hfn := m } ∧ m < two48 ∧
    (s.time.hfn + 1 < two48 → m = s.time.hfn + 1) := by
  unfold nextHfn
  split
  case isTrue h => exact ⟨_, rfl, h, fun _ => rfl⟩
  case isFalse h => exact ⟨_, rfl, (Config.hfnPastTop s.draws).isLt, fun h' => absurd h' h⟩

theorem boundaryAt_time (n : Nat) (s : State) :
    ∃ m, (boundaryAt n s).time = { s.time with hfn := m, lastBoundary := n, built := false } ∧
      m < two48 ∧ (s.time.hfn + 1 < two48 → m = s.time.hfn + 1) := by
  obtain ⟨m, htime, hlt, hnext⟩ := nextHfn_time s.closePeriod
  rw [closePeriod_time] at htime hnext
  refine ⟨m, ?_, hlt, hnext⟩
  show { (nextHfn s.closePeriod).time with lastBoundary := n, built := false } = _
  rw [htime]

/-! ## The label of a pulse (R12) -/

theorem pulseFrame_iff {rc : RateCode} {l : RefLabel} {n : Nat} :
    pulseFrame rc l = some n ↔ ∃ x, UsableLabel rc l x ∧ frameOfDay rc x = n := by
  unfold pulseFrame UsableLabel
  cases l <;> simp [and_assoc]

theorem pulseFrame_none {rc : RateCode} {l : RefLabel} (h : ∀ x, ¬ UsableLabel rc l x) : pulseFrame rc l = none := by
  cases hframe : pulseFrame rc l with
  | none => rfl
  | some n =>
    obtain ⟨x, hx, -⟩ := pulseFrame_iff.1 hframe
    exact absurd hx (h x)

theorem compareLabel_sameWork (l : RefLabel) (s : State) : SameWork s (compareLabel l s) := by
  unfold compareLabel
  dsimp only
  split <;> [exact sameWork_modTime _ _; split]
  · exact (sameWork_modTime _ _).trans (refNotice_sameWork _ _ _ _)
  · exact sameWork_modTime _ _

/-- The comparison of R12 counts a slip and opens the run, or ends the run. -/
theorem compareLabel_time (l : RefLabel) (s : State) : (compareLabel l s).time =
    if pulseFrame s.time.rate l = some (s.time.hfn % RateCode.perDay s.time.rate) then { s.time with slipRun := false }
    else { s.time with slips := sat32 s.time.slips, slipRun := true } := by
  unfold compareLabel
  dsimp only
  split <;> [rfl; split]
  · rw [refNotice_time]; rfl
  · rfl

/-! ## The first period -/

theorem timeBaseStart_pulse {now : Nat} {l : RefLabel} {s : State} (hwait : s.time.waiting = true) (hnow : now < 1500000) :
    timeBaseStart now (some l) s = periodWork (s.closePeriod.modTime fun t =>
      { t.begin with hfn := (pulseFrame t.rate l).getD 0, refState := .locked, lastBoundary := now }) := by
  simp [timeBaseStart, hwait, Config.oneAndHalf, hnow]

theorem timeBaseStart_loss {now : Nat} {s : State} (hwait : s.time.waiting = true) (hnow : 1500000 ≤ now) :
    timeBaseStart now none s = periodWork (refNotice .lost none none (s.closePeriod.modTime fun t =>
      { t.begin with hfn := 0, refState := .freeRun, relock := 0, lastBoundary := Config.oneAndHalf, lastPulse := none })) := by
  simp [timeBaseStart, hwait, Config.oneAndHalf, hnow]

/-- Settles O8: the wait ends with a pulse or without one. -/
theorem theFirstPeriodStarts : Obligations.TheFirstPeriodStarts := by
  unfold Obligations.TheFirstPeriodStarts
  refine ⟨fun now l s hpow hwait hnow => ?_, fun now s hpow hwait hnow => ?_⟩
  · obtain ⟨htime, hdone⟩ := periodWork_after ((closePeriod_sameWork s).trans (sameWork_modTime s.closePeriod fun t =>
      { t.begin with hfn := (pulseFrame t.rate l).getD 0, refState := .locked, lastBoundary := now })) rfl
    refine ⟨(pulseFrame s.time.rate l).getD 0, _, congrArg Host.Outcome.next ((live_on hpow).trans (timeBaseStart_pulse hwait hnow)),
      htime.trans ?_, fun x hx => ?_, fun hnone => ?_, hdone⟩
    · simp only [State.modTime, closePeriod_time, TimeBase.begin]
    · rw [pulseFrame_iff.2 ⟨x, hx, rfl⟩]; rfl
    · rw [pulseFrame_none hnone]; rfl
  · obtain ⟨u, hu⟩ : ∃ u, u = s.closePeriod.modTime fun t =>
        { t.begin with hfn := 0, refState := .freeRun, relock := 0, lastBoundary := Config.oneAndHalf, lastPulse := none } := ⟨_, rfl⟩
    have hwork : SameWork s u := hu ▸ (closePeriod_sameWork s).trans (sameWork_modTime _ _)
    have hutime : u.time = { s.time with
        waiting := false, timeState := .unset, slipRun := false, slips := 0, hfn := 0, refState := .freeRun, relock := 0,
        lastBoundary := 1500000, lastPulse := none, built := false } := by
      rw [hu]; simp only [State.modTime, closePeriod_time, TimeBase.begin, Config.oneAndHalf]
    have hntime := refNotice_time .lost none none u
    obtain ⟨htime, hdone⟩ := periodWork_after (hwork.trans (refNotice_sameWork .lost none none u))
      (by rw [hntime, hutime])
    refine ⟨_, congrArg Host.Outcome.next ((live_on hpow).trans ((timeBaseStart_loss hwait hnow).trans (by rw [hu]))), ?_, hdone⟩
    rw [htime, hntime, hutime]

/-! ## Boundaries while LOCKED -/

theorem periodBoundary_locked {now : Nat} {l : RefLabel} {s : State} (hwait : s.time.waiting = false)
    (hlocked : s.time.refState = .locked) : periodBoundary now (some l) s =
      if s.time.lastBoundary + 500000 ≤ now ∧ now < s.time.lastBoundary + 1500000 then
        periodWork (compareLabel l (boundaryAt now s)) else s := by
  unfold periodBoundary
  dsimp only
  rw [if_neg (by rw [hwait]; decide), hlocked]
  rfl

theorem periodBoundary_freeRun {now : Nat} {pulse : Option RefLabel} {s : State} (hwait : s.time.waiting = false)
    (hfree : s.time.refState = .freeRun) (hrelock : s.time.relock < 8) (hnow : s.time.lastBoundary + 1000000 ≤ now) :
    periodBoundary now pulse s = periodWork (boundaryAt (s.time.lastBoundary + 1000000) s) := by
  simp [periodBoundary, hwait, hfree, Config.nominal, hrelock, hnow]

/-- Settles O9: a boundary, the comparison of R12, and the work of the period. -/
theorem lockedPulsesStartPeriods : Obligations.LockedPulsesStartPeriods := by
  unfold Obligations.LockedPulsesStartPeriods
  intro now l s hpow hwait hlocked
  have hexec : exec (.periodBoundary now (some l)) s = .next (periodBoundary now (some l) s) :=
    congrArg Host.Outcome.next (live_on hpow)
  refine ⟨fun hin => ?_, fun hearly => ?_⟩
  · rw [hexec, periodBoundary_locked hwait hlocked, if_pos hin]
    obtain ⟨m, hbtime, hlt, hnext⟩ := boundaryAt_time now s
    have hctime := compareLabel_time l (boundaryAt now s)
    obtain ⟨u, hu⟩ : ∃ u, u = boundaryAt now s := ⟨_, rfl⟩
    have hwork : SameWork s u := hu ▸ boundaryAt_sameWork now s
    rw [← hu] at hbtime hctime
    have hrate : u.time.rate = s.time.rate := by rw [hbtime]
    rw [hrate] at hctime
    have hbuilt : (compareLabel l u).time.built = false := by rw [hctime]; split <;> (dsimp only; rw [hbtime])
    obtain ⟨htime, hdone⟩ := periodWork_after (hwork.trans (compareLabel_sameWork l u)) hbuilt
    rw [← hu]
    have hslips : u.time.slips = s.time.slips ∧ u.time.refState = s.time.refState ∧ u.time.lastBoundary = now ∧
        u.time.hfn = m := by rw [hbtime]; exact ⟨rfl, rfl, rfl, rfl⟩
    obtain ⟨hslips, href, hlast, hm⟩ := hslips
    have hhfn : (periodWork (compareLabel l u)).time.hfn = m := by rw [htime, hctime]; split <;> exact hm
    refine ⟨_, rfl, hdone, ?_, ?_, hhfn ▸ hlt, fun h => hhfn.trans (hnext h), fun husable => ?_, fun husable => ?_⟩
    · rw [htime, hctime]; split <;> exact hlast
    · rw [htime, hctime]; split <;> exact href.trans hlocked
    · rw [hhfn, ← hm] at husable
      rw [htime, hctime, if_pos (pulseFrame_iff.2 husable)]
      exact ⟨hslips, rfl⟩
    · rw [hhfn, ← hm] at husable
      rw [htime, hctime, if_neg fun h => husable (pulseFrame_iff.1 h)]
      exact ⟨congrArg sat32 hslips, rfl⟩
  · rw [hexec, periodBoundary_locked hwait hlocked, if_neg (by omega)]

/-! ## The loss of the reference, and the relock -/

theorem relockTimeout_due {now : Nat} {s : State} (hwait : s.time.waiting = false) (hfree : s.time.refState = .freeRun)
    (hrelock : s.time.relock = 8) (hnow : s.time.lastBoundary + 1500000 ≤ now) : relockTimeout now s =
      periodWork ((boundaryAt (s.time.lastBoundary + 1000000) s).modTime fun t => { t with relock := 0 }) := by
  simp [relockTimeout, hwait, hfree, hrelock, Config.oneAndHalf, Config.nominal, hnow]

theorem referenceLoss_due {now : Nat} {s : State} (hwait : s.time.waiting = false) (hlocked : s.time.refState = .locked)
    (hnow : s.time.lastBoundary + 1500000 ≤ now) : referenceLoss now s =
      periodWork (refNotice .lost none none ((boundaryAt (s.time.lastBoundary + 1000000) s).modTime fun t =>
        { t with refState := .freeRun, slipRun := false, relock := 0, lastPulse := none })) := by
  simp [referenceLoss, hwait, hlocked, Config.oneAndHalf, Config.nominal, hnow]

theorem referenceRelock_due {now : Nat} {l : RefLabel} {s : State} (hwait : s.time.waiting = false)
    (hfree : s.time.refState = .freeRun) (hrelock : s.time.relock = 8) (hlow : s.time.lastBoundary + 500000 ≤ now)
    (hhigh : now < s.time.lastBoundary + 1500000) : referenceRelock now l s =
      periodWork (compareLabel l (refNotice .locked none none ((boundaryAt now s).modTime fun t =>
        { t with refState := .locked, relock := 0, lastPulse := none }))) := by
  simp [referenceRelock, hwait, hfree, hrelock, Config.oneAndHalf, Config.half, hlow, hhigh]

theorem relockPulse_watched {now : Nat} {s : State} (hwait : s.time.waiting = false) (hfree : s.time.refState = .freeRun)
    (hcount : s.time.relock < 8 ∨ (s.time.relock = 8 ∧ now < s.time.lastBoundary + 500000)) : relockPulse now s =
      s.modTime fun t => { t with relock := if wellSpaced s.time now then min 8 (s.time.relock + 1) else 0, lastPulse := some now } := by
  have hnot : ¬ (s.time.waiting = true ∨ s.time.refState = .locked ∨ (s.time.relock = 8 ∧ s.time.lastBoundary + Config.half ≤ now)) := by
    simp only [hwait, hfree, Config.half]
    rcases hcount with h | ⟨h, h'⟩ <;> simp <;> omega
  unfold relockPulse
  dsimp only
  rw [if_neg hnot]
  rfl

theorem wellSpaced_iff (t : TimeBase) (now : Nat) :
    wellSpaced t now = true ↔ ∃ p, t.lastPulse = some p ∧ p + 750000 ≤ now ∧ now ≤ p + 1250000 := by
  unfold wellSpaced
  cases t.lastPulse with
  | none => simp
  | some p =>
    simp only [Option.any_some, Bool.and_eq_true, decide_eq_true_iff]
    exact ⟨fun h => ⟨p, rfl, h⟩, fun ⟨q, hq, h⟩ => Option.some.inj hq ▸ h⟩

/-- A period whose boundary only moves the time. -/
theorem boundary_then_time {n : Nat} {s : State} (f : TimeBase → TimeBase) (hbuilt : ∀ t, (f t).built = t.built) :
    PeriodDone s (periodWork ((boundaryAt n s).modTime f)) ∧
      (periodWork ((boundaryAt n s).modTime f)).time = { f (boundaryAt n s).time with built := true } := by
  obtain ⟨m, hbtime, -⟩ := boundaryAt_time n s
  obtain ⟨htime, hdone⟩ := periodWork_after ((boundaryAt_sameWork n s).trans (sameWork_modTime (boundaryAt n s) f))
    ((hbuilt _).trans (by rw [hbtime]))
  exact ⟨hdone, htime⟩

/-- Settles O10, command by command. -/
theorem theReferenceIsLostAndFoundAgain : Obligations.TheReferenceIsLostAndFoundAgain := by
  unfold Obligations.TheReferenceIsLostAndFoundAgain
  refine ⟨⟨fun now pulse s hpow hwait hfree hrelock hnow => ?_, fun now s hpow hwait hfree hrelock hnow => ?_⟩,
    ⟨fun now s hpow hwait hlocked hnow => ?_, fun now l s hpow hwait hfree hrelock hlow hhigh => ?_⟩,
    fun now s hpow hwait hfree hcount => ?_⟩
  · obtain ⟨m, hbtime, -, hnext⟩ := boundaryAt_time (s.time.lastBoundary + 1000000) s
    obtain ⟨htime, hdone⟩ := periodWork_after (boundaryAt_sameWork (s.time.lastBoundary + 1000000) s) (by rw [hbtime])
    refine ⟨_, congrArg Host.Outcome.next ((live_on hpow).trans (periodBoundary_freeRun hwait hfree hrelock hnow)), hdone, ?_,
      fun h => ?_⟩
    · rw [htime, hbtime]
    · rw [htime, hbtime]; exact hnext h
  · obtain ⟨m, hbtime, -, hnext⟩ := boundaryAt_time (s.time.lastBoundary + 1000000) s
    obtain ⟨hdone, htime⟩ := boundary_then_time (n := s.time.lastBoundary + 1000000) (s := s)
      (fun t => { t with relock := 0 }) fun _ => rfl
    refine ⟨_, congrArg Host.Outcome.next ((live_on hpow).trans (relockTimeout_due hwait hfree hrelock hnow)), hdone, ?_,
      fun h => ?_⟩
    · rw [htime, hbtime]
    · rw [htime, hbtime]; exact hnext h
  · obtain ⟨m, hbtime, -, hnext⟩ := boundaryAt_time (s.time.lastBoundary + 1000000) s
    obtain ⟨u, hu⟩ : ∃ u, u = (boundaryAt (s.time.lastBoundary + 1000000) s).modTime fun t =>
      { t with refState := .freeRun, slipRun := false, relock := 0, lastPulse := none } := ⟨_, rfl⟩
    have hwork : SameWork s u := hu ▸ (boundaryAt_sameWork _ s).trans (sameWork_modTime _ _)
    have hutime : u.time = { s.time with
        hfn := m, lastBoundary := s.time.lastBoundary + 1000000, refState := .freeRun, slipRun := false, relock := 0,
        lastPulse := none, built := false } := by
      rw [hu]; simp only [State.modTime]; rw [hbtime]
    have hntime := refNotice_time .lost none none u
    obtain ⟨htime, hdone⟩ := periodWork_after (hwork.trans (refNotice_sameWork .lost none none u)) (by rw [hntime, hutime])
    refine ⟨_, congrArg Host.Outcome.next ((live_on hpow).trans ((referenceLoss_due hwait hlocked hnow).trans (by rw [hu]))),
      hdone, ?_, fun h => ?_⟩
    · rw [htime, hntime, hutime]
    · rw [htime, hntime, hutime]; exact hnext h
  · obtain ⟨m, hbtime, -, hnext⟩ := boundaryAt_time now s
    obtain ⟨u, hu⟩ : ∃ u, u = refNotice .locked none none ((boundaryAt now s).modTime fun t =>
      { t with refState := .locked, relock := 0, lastPulse := none }) := ⟨_, rfl⟩
    have hwork : SameWork s u :=
      hu ▸ ((boundaryAt_sameWork _ s).trans (sameWork_modTime _ _)).trans (refNotice_sameWork _ _ _ _)
    have hutime : u.time = { s.time with
        hfn := m, lastBoundary := now, refState := .locked, relock := 0, lastPulse := none,
        built := false } := by
      rw [hu, refNotice_time]; simp only [State.modTime]; rw [hbtime]
    have hctime := compareLabel_time l u
    obtain ⟨htime, hdone⟩ := periodWork_after (hwork.trans (compareLabel_sameWork l u))
      (by rw [hctime, hutime]; split <;> rfl)
    refine ⟨_, congrArg Host.Outcome.next ((live_on hpow).trans ((referenceRelock_due hwait hfree hrelock hlow hhigh).trans
      (by rw [hu]))), hdone, ?_, ?_, ?_, fun h => ?_⟩
    · rw [htime, hctime, hutime]; split <;> rfl
    · rw [htime, hctime, hutime]; split <;> rfl
    · rw [htime, hctime, hutime]; split <;> rfl
    · rw [htime, hctime, hutime]; split <;> exact hnext h
  · have hexec : exec (.relockPulse now) s = .next (s.modTime fun t =>
        { t with relock := if wellSpaced s.time now then min 8 (s.time.relock + 1) else 0, lastPulse := some now }) :=
      congrArg Host.Outcome.next ((live_on hpow).trans (relockPulse_watched hwait hfree hcount))
    refine ⟨fun p hp hlow hhigh => ?_, fun hfar => ?_⟩
    · rw [hexec, if_pos ((wellSpaced_iff _ _).2 ⟨p, hp, hlow, hhigh⟩)]
      rfl
    · rw [hexec, if_neg]
      · rfl
      · rw [wellSpaced_iff]
        rintro ⟨p, hp, hlow, hhigh⟩
        have := hfar p hp
        omega

end Sys2Proof.Machine

/-! PROOFS. What arrives (R65, R66, R72 to R78): the checks, the assemblies, the pictures, the requests that queue and the replies
that are ignored. -/

namespace Sys2Proof.Machine

open Sys2Proof

/-! ## The checks of R65 -/

theorem check_down {s : State} {e : Eth} (h : s.ports[e.port].up = false) : check s e = .ignored := by
  unfold check
  rw [if_pos h]

theorem check_bad {s : State} {e : Eth} (hup : s.ports[e.port].up = true) (h : e.fcsOk = false) : check s e = .bad := by
  unfold check
  rw [if_neg (by rw [hup]; decide), if_pos h]

theorem check_oversize {s : State} {e : Eth} (hup : s.ports[e.port].up = true) (hfcs : e.fcsOk = true) (h : 9216 < e.length) :
    check s e = .oversize := by
  unfold check
  rw [if_neg (by rw [hup]; decide), if_neg (by simp [hfcs]), if_pos h]

theorem check_etherType {s : State} {e : Eth} (hup : s.ports[e.port].up = true) (hfcs : e.fcsOk = true) (hlen : e.length ≤ 9216)
    (h : e.etherType ≠ s.params.part.etherType) : check s e = .ignored := by
  unfold check
  rw [if_neg (by rw [hup]; decide), if_neg (by simp [hfcs]), if_neg (by omega), if_pos h]

/-- The lookup of R66, once the checks of R65 have passed. -/
theorem check_lookup {s : State} {e : Eth} (hup : s.ports[e.port].up = true) (hfcs : e.fcsOk = true) (hlen : e.length ≤ 9216)
    (htype : e.etherType = s.params.part.etherType) : check s e =
      match kindOf e with
      | none => .unknown
      | some k => match entryByTag s.flows (flowTag e) with
        | some x => if x.port = e.port ∧ routed x.role k then .entry x else .unknown
        | none => .unknown := by
  unfold check
  rw [if_neg (by rw [hup]; decide), if_neg (by simp [hfcs]), if_neg (by omega), if_neg (by simp [htype])] <;> rfl

theorem check_unknown {s : State} {e : Eth} (hup : s.ports[e.port].up = true) (hfcs : e.fcsOk = true) (hlen : e.length ≤ 9216)
    (htype : e.etherType = s.params.part.etherType)
    (h : ∀ x q, kindOf e = some q → entryByTag s.flows (flowTag e) = some x → ¬ (x.port = e.port ∧ routed x.role q = true)) :
    check s e = .unknown := by
  rw [check_lookup hup hfcs hlen htype]
  cases hkind : kindOf e with
  | none => rfl
  | some k =>
    cases htag : entryByTag s.flows (flowTag e) with
    | none => rfl
    | some x => simp only [if_neg (h x k hkind htag)]

theorem check_routed {s : State} {e : Eth} {x : FlowEntry} {k : PktKind} (h : Routed s e x k) : check s e = .entry x := by
  obtain ⟨-, hup, hfcs, hlen, htype, hkind, htag, hport, hrole⟩ := h
  rw [check_lookup hup hfcs hlen htype, hkind, htag]
  exact if_pos ⟨hport, hrole⟩

theorem arrives_dropped {s : State} {e : Eth} (h : ∀ x, check s e ≠ .entry x) (spelt : Bool) (f : FlowEntry → State → State) :
    arrives s e spelt f = dropped s e (check s e) := by
  unfold arrives
  split
  case h_1 x hx => exact absurd hx (h x)
  case h_2 => rfl

theorem arrives_routed {s : State} {e : Eth} {x : FlowEntry} {k : PktKind} (h : Routed s e x k) (f : FlowEntry → State → State) :
    arrives s e true f = f x s := by
  unfold arrives
  rw [check_routed h]
  rfl

theorem routed_kind {s : State} {e : Eth} {x : FlowEntry} {k : PktKind} (h : Routed s e x k) : kindOf e = some k := by
  obtain ⟨-, -, -, -, -, hkind, -⟩ := h
  exact hkind

/-- A frame that the checks or the lookup drop is dropped alike under every command that brings it. -/
theorem exec_dropped {i : Instr} {e : Eth} {s : State} (hi : i.arrival = some e) (hpow : s.powered = true)
    (h : ∀ x, check s e ≠ .entry x) : exec i s = .next (dropped s e (check s e)) := by
  have hlive : ∀ f : State → State, f s = dropped s e (check s e) →
      Host.Outcome.next (live f s) = (.next (dropped s e (check s e)) : Host.Outcome State Fault Refusal) :=
    fun f hf => congrArg Host.Outcome.next ((live_on hpow).trans hf)
  cases i
  case frameDrop o k r => cases hi; exact hlive _ rfl
  case frameHeader o bytes => cases hi; exact hlive _ (arrives_dropped h _ _)
  case video o bytes => cases hi; exact hlive _ (arrives_dropped h _ _)
  case audio o bytes => cases hi; exact hlive _ (arrives_dropped h _ _)
  case controlRequestPacket o r => cases hi; exact hlive _ (arrives_dropped h _ _)
  case cued o k => cases hi; exact hlive _ (arrives_dropped h _ _)
  case cueFailed o k r => cases hi; exact hlive _ (arrives_dropped h _ _)
  case stopped o k => cases hi; exact hlive _ (arrives_dropped h _ _)
  case answer o k n b m => cases hi; exact hlive _ (arrives_dropped h _ _)
  all_goals exact absurd hi (by simp [Instr.arrival])

/-- Settles O13: each check in its order, then the lookup. -/
theorem droppedFramesAreCounted : Obligations.DroppedFramesAreCounted := by
  unfold Obligations.DroppedFramesAreCounted
  intro i e k s hi hk hpow
  subst hk
  have hcounted : ∀ d, check s e = d → (∀ x, d ≠ .entry x) → exec i s = .next (dropped s e d) := by
    intro d hd hne
    subst hd
    exact exec_dropped hi hpow hne
  refine ⟨fun hdown => ?_, fun hup => ⟨fun hbad => ?_, fun hfcs hlong => ?_, fun hfcs hlen => ⟨fun htype => ?_, fun htype h => ?_⟩⟩⟩
  · exact hcounted _ (check_down hdown) nofun
  · exact hcounted _ (check_bad hup hbad) nofun
  · exact hcounted _ (check_oversize hup hfcs hlong) nofun
  · exact hcounted _ (check_etherType hup hfcs hlen htype) nofun
  · exact hcounted _ (check_unknown hup hfcs hlen htype h) nofun

/-! ## Essence -/

theorem essence_feeds {s : State} {e : Eth} {t : Nat} {c : Ch} {k : SrcId} (h : Feeds s e t c k) (f : Source → Source) :
    essence s e t f = s.modSource c k f := by
  obtain ⟨x, hrouted, htype, hchannel, hsource⟩ := h
  unfold essence
  rw [htype, decide_eq_true rfl, arrives_routed hrouted]
  simp only [toSource, hchannel, hsource]

theorem feeds_powered {s : State} {e : Eth} {t : Nat} {c : Ch} {k : SrcId} (h : Feeds s e t c k) : s.powered = true := by
  obtain ⟨x, ⟨hpow, -⟩, -⟩ := h
  exact hpow

/-- A source is changed by what the operation makes of the source as it stands. -/
theorem modSource_congr {s : State} {c : Ch} {k : SrcId} {f g : Source → Source}
    (h : f (s.chans[c].intake.source k) = g (s.chans[c].intake.source k)) : s.modSource c k f = s.modSource c k g := by
  unfold State.modSource Intake.modSource
  cases k <;> (simp only [Intake.source] at h; simp only [h])

theorem header_eq (hdr : FrameHdr) (x : Source) : Source.header (some hdr) x =
    if hdr.count = 0 then
      { x with asm := none, incomplete := if x.asm.isSome then sat32 x.incomplete else x.incomplete, stray := sat32 x.stray }
    else { x with
      asm := some { hdr := hdr, units := [], picture := [], audio := [],
                    sums := { lumaSum := 0, lumaCount := 0, signature := 0, peak := 0 } }
      incomplete := if x.asm.isSome then sat32 x.incomplete else x.incomplete } := by
  obtain ⟨asm, _⟩ := x
  cases asm <;> rfl

/-- Settles O14: the packet opens an assembly, or is stray. -/
theorem frameHeadersOpenAssemblies : Obligations.FrameHeadersOpenAssemblies := by
  unfold Obligations.FrameHeadersOpenAssemblies
  intro e c k bytes hdr s hfeeds hread
  have hexec : exec (.frameHeader e bytes) s = .next (s.modSource c k (Source.header (some hdr))) := by
    rw [← hread]
    exact congrArg Host.Outcome.next ((live_on (feeds_powered hfeeds)).trans (essence_feeds hfeeds _))
  refine ⟨fun hcount => ?_, fun hcount => ?_⟩
  · exact hexec.trans (congrArg Host.Outcome.next (modSource_congr ((header_eq _ _).trans (if_neg (by omega)))))
  · exact hexec.trans (congrArg Host.Outcome.next (modSource_congr ((header_eq _ _).trans (if_pos hcount))))

theorem takes_iff (a : Assembly) (n : Nat) : a.takes n = true ↔ n < a.hdr.count ∧ n ∉ a.units := by
  simp [Assembly.takes]

/-- A unit that an assembly takes leaves it open, or ends it with its frame in the FIFO. -/
theorem received_eq (a b : Assembly) (x : Source) (hhdr : b.hdr = a.hdr) (hunits : b.units.length = a.units.length + 1) :
    x.received b =
      if a.units.length + 1 = a.hdr.count then { x with
        asm := none, completed := sat32 x.completed
        fifo := (if x.fifo.length < 4 then x.fifo else x.fifo.drop 1) ++
          [{ hdr := a.hdr, picture := b.picture, sound := b.audio.flatMap fun u => u.2, sums := b.sums }]
        pushedOut := if x.fifo.length < 4 then x.pushedOut else sat32 x.pushedOut }
      else { x with asm := some b } := by
  unfold Source.received
  rw [hhdr, hunits]
  split
  case isFalse => rfl
  case isTrue =>
    unfold Source.push
    by_cases hroom : x.fifo.length < 4
    · refine (if_pos (show x.fifo.length < Config.fifoSize from hroom)).trans ?_
      simp only [if_pos hroom]
      rfl
    · refine (if_neg (show ¬ x.fifo.length < Config.fifoSize from hroom)).trans ?_
      simp only [if_neg hroom]
      rfl

/-- A unit that no open assembly takes is stray. -/
theorem video_stray {v : VideoPkt} {x : Source} (h : ∀ a, x.asm = some a → a.takes v.index = false) :
    Source.video (some v) x = { x with stray := sat32 x.stray } := by
  unfold Source.video
  split
  case h_1 u a hu hasm => cases hu; rw [if_neg (by rw [h a hasm]; decide)]; rfl
  case h_2 => rfl

theorem audio_stray {v : AudioPkt} {x : Source} (h : ∀ a, x.asm = some a → a.takes v.index = false) :
    Source.audio (some v) x = { x with stray := sat32 x.stray } := by
  unfold Source.audio
  split
  case h_1 u a hu hasm => cases hu; rw [if_neg (by rw [h a hasm]; decide)]; rfl
  case h_2 => rfl

/-! ## The samples of a VIDEO packet (R74, R78) -/

/-- The samples of a run that land inside the picture. -/
def landing (line first : Nat) (vs : List (BitVec 10)) : List (BitVec 10 × Nat) :=
  (vs.zipIdx first).filter fun x => decide (line < 1080 ∧ x.2 < 3840)

theorem sample_kept (line pos : Nat) (v : BitVec 10) (a : Assembly) :
    (a.sample line pos v).hdr = a.hdr ∧ (a.sample line pos v).units = a.units ∧ (a.sample line pos v).audio = a.audio ∧
      (a.sample line pos v).sums.peak = a.sums.peak := by
  unfold Assembly.sample
  split <;> exact ⟨rfl, rfl, rfl, rfl⟩

theorem samples_kept (line first : Nat) (vs : List (BitVec 10)) (a : Assembly) :
    (a.samples line first vs).hdr = a.hdr ∧ (a.samples line first vs).units = a.units ∧
      (a.samples line first vs).audio = a.audio ∧ (a.samples line first vs).sums.peak = a.sums.peak := by
  induction vs generalizing first a with
  | nil => exact ⟨rfl, rfl, rfl, rfl⟩
  | cons v vs ih =>
    obtain ⟨hhdr, hunits, haudio, hpeak⟩ := ih (first + 1) (a.sample line first v)
    obtain ⟨ohdr, ounits, oaudio, opeak⟩ := sample_kept line first v a
    exact ⟨hhdr.trans ohdr, hunits.trans ounits, haudio.trans oaudio, hpeak.trans opeak⟩

theorem cellAt_mem {α : Type} {k : Nat} {v : α} {m : List (Nat × α)} (h : cellAt k m = some v) : (k, v) ∈ m := by
  induction m with
  | nil => simp [cellAt] at h
  | cons c m ih =>
    obtain ⟨j, w⟩ := c
    unfold cellAt at h
    split at h
    case isTrue hj => cases h; rw [hj]; exact List.mem_cons_self
    case isFalse => exact List.mem_cons_of_mem _ (ih h)

theorem picture_read_write {p : Picture} (h : Picture.wf p = true) (k j : Nat) (v : BitVec 10) :
    (p.write k v).read j = if j = k then v else p.read j := by
  obtain ⟨hrise, -⟩ := (picture_wf_iff p).1 h
  unfold Picture.read Picture.write
  by_cases hblack : v = blackAt k
  · rw [if_pos hblack]
    by_cases hjk : j = k
    · rw [if_pos hjk, hjk, cellAt_cellDrop_self k hrise, hblack]; rfl
    · rw [if_neg hjk, cellAt_cellDrop_of_ne hjk]
  · rw [if_neg hblack, cellAt_cellSet]
    by_cases hjk : j = k
    · rw [if_pos hjk, if_pos hjk]; rfl
    · rw [if_neg hjk, if_neg hjk]

/-- A place that no sample of the run falls on keeps its sample. -/
theorem samples_read_other (line first j : Nat) (vs : List (BitVec 10)) (a : Assembly) (hwf : Picture.wf a.picture = true)
    (h : ∀ i, i < vs.length → line < 1080 → first + i < 3840 → j ≠ 3840 * line + (first + i)) :
    (a.samples line first vs).picture.read j = a.picture.read j := by
  induction vs generalizing first a with
  | nil => rfl
  | cons v vs ih =>
    have htail : ∀ i, i < vs.length → line < 1080 → first + 1 + i < 3840 → j ≠ 3840 * line + (first + 1 + i) := by
      intro i hi hline hpos
      have := h (i + 1) (Nat.succ_lt_succ hi) hline (by omega)
      omega
    have hone : (a.sample line first v).picture.read j = a.picture.read j ∧ Picture.wf (a.sample line first v).picture = true := by
      unfold Assembly.sample
      split
      case isFalse => exact ⟨rfl, hwf⟩
      case isTrue hin =>
        obtain ⟨hline, hpos⟩ := hin
        have hne := h 0 (Nat.succ_pos _) hline (by omega)
        refine ⟨?_, picture_wf_write _ v hwf⟩
        rw [picture_read_write hwf, if_neg]
        unfold picKey
        omega
    obtain ⟨hread, hwf'⟩ := hone
    exact (ih (first + 1) (a.sample line first v) hwf' htail).trans hread

/-- A sample inside the picture stands at its place: the later ones of its run fall elsewhere. -/
theorem samples_read_here (line first i : Nat) (v : BitVec 10) (vs : List (BitVec 10)) (a : Assembly)
    (hwf : Picture.wf a.picture = true) (hv : vs[i]? = some v) (hline : line < 1080) (hpos : first + i < 3840) :
    (a.samples line first vs).picture.read (3840 * line + (first + i)) = v := by
  induction vs generalizing first i a with
  | nil => simp at hv
  | cons u vs ih =>
    have hwf' : Picture.wf (a.sample line first u).picture = true := by
      unfold Assembly.sample
      split <;> [exact picture_wf_write _ u hwf; exact hwf]
    cases i with
    | zero =>
      have hu : u = v := by simpa using hv
      rw [show a.samples line first (u :: vs) = (a.sample line first u).samples line (first + 1) vs from rfl,
        samples_read_other line (first + 1) _ vs _ hwf' (fun n _ _ _ => by omega)]
      unfold Assembly.sample
      rw [if_pos ⟨hline, by omega⟩]
      show (a.picture.write (picKey line first) u).read _ = v
      rw [picture_read_write hwf, if_pos (by unfold picKey; omega), hu]
    | succ n =>
      have hv' : vs[n]? = some v := by simpa using hv
      have := ih (first + 1) n (a.sample line first u) hwf' hv' (by omega)
      rwa [Nat.add_assoc, Nat.add_comm 1 n] at this

/-- The samples that land are summed into the signature, those at odd positions into the luma sums. -/
theorem samples_sums (line first : Nat) (vs : List (BitVec 10)) (a : Assembly) (hsig : a.sums.signature < 4294967296) :
    (a.samples line first vs).sums =
      { lumaSum := a.sums.lumaSum + (((landing line first vs).filter fun x => decide (x.2 % 2 = 1)).map fun x => x.1.toNat).sum
        lumaCount := a.sums.lumaCount + ((landing line first vs).filter fun x => decide (x.2 % 2 = 1)).length
        signature := (a.sums.signature + ((landing line first vs).map fun x => x.1.toNat).sum) % 4294967296
        peak := a.sums.peak } := by
  induction vs generalizing first a with
  | nil => simp [Assembly.samples, landing, Nat.mod_eq_of_lt hsig]
  | cons v vs ih =>
    have hlanding : landing line first (v :: vs) =
        if line < 1080 ∧ first < 3840 then (v, first) :: landing line (first + 1) vs else landing line (first + 1) vs := by
      simp only [landing, List.zipIdx_cons, List.filter_cons, decide_eq_true_iff]
    rw [show a.samples line first (v :: vs) = (a.sample line first v).samples line (first + 1) vs from rfl, hlanding]
    unfold Assembly.sample
    by_cases hin : line < 1080 ∧ first < 3840
    · rw [if_pos hin, if_pos hin, ih _ _ (Nat.mod_lt _ (by decide))]
      have hsum : ∀ n m : Nat, ((a.sums.signature + n) % two32 + m) % 4294967296 = (a.sums.signature + (n + m)) % 4294967296 := by
        intro n m
        rw [show two32 = 4294967296 from rfl, Nat.mod_add_mod, Nat.add_assoc]
      by_cases hodd : first % 2 = 1
      · simp [hodd, hsum, Nat.add_assoc, Nat.add_comm]
      · simp [hodd, hsum]
    · rw [if_neg hin, if_neg hin, ih _ _ hsig]

/-- Settles O15: a unit that the assembly takes, a stray one, and the samples of a VIDEO packet. -/
theorem unitsCompleteFramesOrAreStray : Obligations.UnitsCompleteFramesOrAreStray := by
  unfold Obligations.UnitsCompleteFramesOrAreStray
  refine ⟨fun i e c k a b n bytes s hasm hcount hnew hunit => ?_, fun i e c k n bytes s hunit hstray => ?_,
    fun line first vs a b shown luma hb hsig hwf hshown hluma => ?_⟩
  · have htakes : a.takes n = true := (takes_iff a n).2 ⟨hcount, hnew⟩
    have hjoined : exec i s = .next (s.modSource c k fun x => x.received b) ∧ b.hdr = a.hdr ∧
        b.units.length = a.units.length + 1 := by
      rcases hunit with ⟨v, hfeeds, rfl, hread, rfl, rfl⟩ | ⟨v, hfeeds, rfl, hread, rfl, rfl⟩
      · obtain ⟨hhdr, -⟩ := samples_kept v.line v.first v.samples a
        refine ⟨congrArg Host.Outcome.next ((live_on (feeds_powered hfeeds)).trans ((essence_feeds hfeeds _).trans
          (modSource_congr ?_))), hhdr, rfl⟩
        simp only [Source.video, hread, hasm, if_pos htakes]
      · refine ⟨congrArg Host.Outcome.next ((live_on (feeds_powered hfeeds)).trans ((essence_feeds hfeeds _).trans
          (modSource_congr ?_))), rfl, rfl⟩
        simp only [Source.audio, hread, hasm, if_pos htakes]
        rfl
    obtain ⟨hexec, hhdr, hunits⟩ := hjoined
    refine ⟨fun hopen => ?_, fun hfull => ?_⟩
    · exact hexec.trans (congrArg Host.Outcome.next (modSource_congr ((received_eq a b _ hhdr hunits).trans (if_neg hopen))))
    · exact hexec.trans (congrArg Host.Outcome.next (modSource_congr ((received_eq a b _ hhdr hunits).trans (if_pos hfull))))
  · have htakes : ∀ a, (s.chans[c].intake.source k).asm = some a → a.takes n = false := by
      intro a ha
      have hno := hstray a ha
      rw [← Bool.not_eq_true, takes_iff]
      rintro ⟨hlt, hmem⟩
      rcases hno with h | h
      · omega
      · exact hmem h
    rcases hunit with ⟨v, hfeeds, rfl, hread, rfl⟩ | ⟨v, hfeeds, rfl, hread, rfl⟩
    · refine congrArg Host.Outcome.next ((live_on (feeds_powered hfeeds)).trans ((essence_feeds hfeeds _).trans
        (modSource_congr ?_)))
      rw [hread]
      exact video_stray htakes
    · refine congrArg Host.Outcome.next ((live_on (feeds_powered hfeeds)).trans ((essence_feeds hfeeds _).trans
        (modSource_congr ?_)))
      rw [hread]
      exact audio_stray htakes
  · subst hb
    obtain ⟨hhdr, hunits, haudio, -⟩ := samples_kept line first vs a
    obtain ⟨-, hpic⟩ := samples_facts line first vs a
    refine ⟨hhdr, hunits, haudio, hpic hwf, fun i v hv hline hpos => samples_read_here line first i v vs a hwf hv hline hpos,
      fun j hj => samples_read_other line first j vs a hwf hj, ?_⟩
    rw [hluma, hshown]
    exact samples_sums line first vs a hsig

/-! ## Pictures (R74) -/

/-- Two rising stores that answer every address alike are the same. -/
theorem rising_ext {α : Type} {lo lo' : Nat} {m m' : List (Nat × α)} (h : risingBelow lo m = true) (h' : risingBelow lo' m' = true)
    (hall : ∀ k, cellAt k m = cellAt k m') : m = m' := by
  induction m generalizing lo lo' m' with
  | nil =>
    cases m' with
    | nil => rfl
    | cons c m' =>
      have := hall c.1
      simp [cellAt] at this
  | cons c m ih =>
    obtain ⟨j, v⟩ := c
    obtain ⟨hlo, hrise⟩ := risingBelow_cons.1 h
    cases m' with
    | nil =>
      have := hall j
      simp [cellAt] at this
    | cons c' m' =>
      obtain ⟨j', v'⟩ := c'
      obtain ⟨hlo', hrise'⟩ := risingBelow_cons.1 h'
      have hhead : ∀ {n n' : Nat} {x x' : α} {l l' : List (Nat × α)}, risingBelow (n' + 1) l' = true →
          cellAt n ((n, x) :: l) = cellAt n ((n', x') :: l') → ¬ n < n' := by
        intro n n' x x' l l' hr he hlt
        have hout := cellAt_of_lt_rising hr (Nat.lt_succ_of_lt hlt)
        rw [cellAt, if_pos rfl, cellAt, if_neg (by omega), hout] at he
        exact absurd he (by simp)
      have hjj : j = j' := by
        have h1 := hhead hrise' (hall j)
        have h2 := hhead hrise (hall j').symm
        omega
      subst hjj
      have hvv : v = v' := by
        have := hall j
        simpa [cellAt] using this
      subst hvv
      have htail : ∀ k, cellAt k m = cellAt k m' := by
        intro k
        by_cases hk : k = j
        · rw [hk, cellAt_of_lt_rising hrise (Nat.lt_succ_self j), cellAt_of_lt_rising hrise' (Nat.lt_succ_self j)]
        · have := hall k
          rwa [cellAt, if_neg (Ne.symm hk), cellAt, if_neg (Ne.symm hk)] at this
      rw [ih hrise hrise' htail]

/-- What a picture in its one form lists follows from what it reads. -/
theorem cellAt_picture {p : Picture} (h : Picture.wf p = true) (k : Nat) :
    cellAt k p = if p.read k = blackAt k then none else some (p.read k) := by
  obtain ⟨-, hblack⟩ := (picture_wf_iff p).1 h
  unfold Picture.read
  cases hcell : cellAt k p with
  | none => simp
  | some v =>
    have hv : v ≠ blackAt k := hblack _ (cellAt_mem hcell)
    simp [hv]

/-- Settles O16. -/
theorem picturesReadBackWhatIsWritten : Obligations.PicturesReadBackWhatIsWritten := by
  unfold Obligations.PicturesReadBackWhatIsWritten
  refine ⟨fun p k v hwf => ⟨picture_wf_write k v hwf, ?_, fun j hj => ?_⟩, fun p q hp hq hread => ?_, rfl, fun line pos => ?_⟩
  · rw [picture_read_write hwf, if_pos rfl]
  · rw [picture_read_write hwf, if_neg hj]
  · obtain ⟨hrise, -⟩ := (picture_wf_iff p).1 hp
    obtain ⟨hrise', -⟩ := (picture_wf_iff q).1 hq
    exact rising_ext hrise hrise' fun k => by rw [cellAt_picture hp, cellAt_picture hq, hread]
  · show blackAt (3840 * line + pos) = _
    have hparity : (3840 * line + pos) % 2 = pos % 2 := by omega
    rw [blackAt, hparity]

/-! ## Requests and replies -/

/-- Settles O17: the packet queues, or is dropped and counted. -/
theorem requestPacketsQueue : Obligations.RequestPacketsQueue := by
  unfold Obligations.RequestPacketsQueue
  intro o e k n b r x s he hrouted hlen hhead hsame hother
  have hbody : requestOf (controlCode e) b = r.body := by
    unfold requestOf
    split
    case isTrue h => exact (hsame h).symm
    case isFalse h => exact (hother h).symm
  have hcarried : carried e n b = r := by
    obtain ⟨head, body⟩ := r
    dsimp only at hhead hbody
    subst hhead hbody
    unfold carried requestHead
    rw [if_neg (by omega)]
    rfl
  have hpow : s.powered = true := by
    obtain ⟨hpow, -⟩ := hrouted
    exact hpow
  have hexec : ∀ f : CtlFlow, (if x.role = .mainCtl then .main else .loc) = f →
      exec (.controlRequestPacket o ⟨k, n, b⟩) s = .next
        (if (s.inbound f).length < 8 then s.setInbound (s.inbound f ++ [r]) f
         else s.modPort e.port fun y => { y with overflow := sat32 y.overflow }) := by
    intro f hf
    refine congrArg Host.Outcome.next ((live_on hpow).trans ?_)
    show requestArrives (o.carrying k) n b s = _
    unfold requestArrives
    rw [← he, decide_eq_true (routed_kind hrouted), arrives_routed hrouted, hcarried, hf]
    rfl
  have hmain : x.role = .mainCtl → (if x.role = .mainCtl then CtlFlow.main else .loc) = .main := fun h => if_pos h
  have hlocal : x.role = .localCtl → (if x.role = .mainCtl then CtlFlow.main else .loc) = .loc := fun h => by rw [h]; decide
  refine ⟨fun hrole hroom => ?_, fun hrole hroom => ?_, fun hfull => ?_⟩
  · rw [hexec _ (hmain hrole), if_pos (show (s.inbound .main).length < 8 from hroom)]
    rfl
  · rw [hexec _ (hlocal hrole), if_pos (show (s.inbound .loc).length < 8 from hroom)]
    rfl
  · rcases hfull with ⟨hrole, hfull⟩ | ⟨hrole, hfull⟩
    · rw [hexec _ (hmain hrole), if_neg (show ¬ (s.inbound .main).length < 8 from Nat.not_lt.2 hfull)]
    · rw [hexec _ (hlocal hrole), if_neg (show ¬ (s.inbound .loc).length < 8 from Nat.not_lt.2 hfull)]

/-- A reply under the entry of a player runs that player's channel. -/
theorem playerReply_routed {s : State} {e : Eth} {x : FlowEntry} {c : Ch} {p : PlayerId} (h : Routed s e x .reply)
    (hchannel : x.channel = some c) (hrole : rolePlayer x.role = some p) (act : PlayerId → Flight → Env → W → W) :
    playerReply e act s = runCh c (replied p (requestTag e) (act p)) s := by
  unfold playerReply
  rw [decide_eq_true (routed_kind h), arrives_routed h]
  simp only [hchannel, hrole]

theorem runCh_unmoved {c : Ch} {op : Env → W → W} {s : State} (h : op (envOf s c) (begun s c) = begun s c) : runCh c op s = s := by
  have hrun : runCh c op s = (ranCh c op s).fx.foldl (applyEffect c) (s.setCh c (ranCh c op s).ch) := rfl
  rw [hrun, ranCh, h]
  exact setCh_self s c

theorem replied_other {p : PlayerId} {tag : Nat} {w : W} (h : ∀ f, (w.player p).flight = some f → f.tag ≠ tag)
    (act : Flight → Env → W → W) (env : Env) : replied p tag act env w = w := by
  unfold replied
  cases hf : (w.player p).flight with
  | none => rfl
  | some f => exact if_neg (h f hf)

/-- Settles O21: no reply moves the channel when its tag is not the one in flight. -/
theorem repliesWithAnotherTagAreIgnored : Obligations.RepliesWithAnotherTagAreIgnored := by
  unfold Obligations.RepliesWithAnotherTagAreIgnored
  intro i o e k c p x s he hrouted hchannel hrole hi hflight
  have hpow : s.powered = true := by
    obtain ⟨hpow, -⟩ := hrouted
    exact hpow
  have hidle : ∀ act, playerReply (o.carrying k) act s = s := by
    intro act
    rw [← he, playerReply_routed hrouted hchannel hrole]
    exact runCh_unmoved (replied_other (w := begun s c) hflight _ _)
  rcases hi with rfl | rfl | ⟨r, rfl⟩ | ⟨h, b, n, rfl⟩ <;> exact congrArg Host.Outcome.next ((live_on hpow).trans (hidle _))

end Sys2Proof.Machine

/-! PROOFS. The players' replies (R106 to R111, R119): CUED, STOPPED, CUE_FAILED and ANSWER. -/

namespace Sys2Proof.Machine

open Sys2Proof

/-! ## A reply for the request in flight -/

theorem inFlight_powered {s : State} {e : Eth} {c : Ch} {p : PlayerId} {f : Flight} (h : InFlight s e c p f) : s.powered = true := by
  obtain ⟨x, ⟨hpow, -⟩, -⟩ := h
  exact hpow

/-- The reply to the request in flight runs its player's channel. -/
theorem playerReply_inFlight {s : State} {e : Eth} {c : Ch} {p : PlayerId} {f : Flight} (h : InFlight s e c p f)
    (act : PlayerId → Flight → Env → W → W) : playerReply e act s = runCh c (replied p f.tag (act p)) s := by
  obtain ⟨x, hrouted, hchannel, hrole, -, htag⟩ := h
  rw [playerReply_routed hrouted hchannel hrole, htag]

/-- What a reply is acted on with: the flight has ended, and the next request is sent after it. -/
theorem replied_flight {s : State} {e : Eth} {c : Ch} {p : PlayerId} {f : Flight} (h : InFlight s e c p f)
    (act : Flight → Env → W → W) : ranCh c (replied p f.tag act) s =
      pump (envOf s c) (takePointer (envOf s c) (sendNext (envOf s c) p (act f (envOf s c) (answeredBy s c p)))) := by
  obtain ⟨x, -, -, -, hflight, -⟩ := h
  have hbegun : ((begun s c).player p).flight = some f := hflight
  unfold ranCh replied
  rw [hbegun]
  exact if_pos rfl

/-- What follows a reply leaves the record that it made of a busy player. -/
theorem replied_hold {s : State} {e : Eth} {c : Ch} {p : PlayerId} {f : Flight} (h : InFlight s e c p f)
    (act : Flight → Env → W → W) (hidle : ((act f (envOf s c) (answeredBy s c p)).player p).state ≠ .idle)
    (hfault : ((act f (envOf s c) (answeredBy s c p)).player p).state ≠ .fault) :
    ((runCh c (replied p f.tag act) s).chans[c].seq.player p).hold =
      ((act f (envOf s c) (answeredBy s c p)).player p).hold := by
  rw [runCh_here, replied_flight h]
  have hnext := sendNext_left (envOf s c) p p (act f (envOf s c) (answeredBy s c p)) hfault
  have hpointer : Left p _ (takePointer (envOf s c) (sendNext (envOf s c) p (act f (envOf s c) (answeredBy s c p)))) :=
    Left.of_hands (takePointer_hands _ _)
  obtain ⟨hbusy, -⟩ := (hnext.trans hpointer).trans (pump_left (envOf s c) p _)
  exact hbusy hidle

theorem hold_parts {x y : Player} (h : x.hold = y.hold) :
    x.state = y.state ∧ x.loaded = y.loaded ∧ x.roll = y.roll ∧ x.stopConfirmed = y.stopConfirmed := by
  simp only [Player.hold, Prod.mk.injEq] at h
  obtain ⟨hstate, hloaded, hroll, -, -, hconf⟩ := h
  exact ⟨hstate, hloaded, hroll, hconf⟩

theorem answeredBy_player (s : State) (c : Ch) (p : PlayerId) :
    (answeredBy s c p).player p = { s.chans[c].seq.player p with flight := none } := W.modPlayer_player _ _ _

/-- A record that no cue waits behind. -/
theorem cueQueued_false {x : Player} (h : ∀ q ∈ x.queue, q.2.isCue = false) : x.cueQueued = false := by
  rw [← Bool.not_eq_true, cueQueued_iff]
  rintro ⟨q, hq, hcue⟩
  exact absurd ((h q hq).symm.trans hcue) (by decide)

theorem isCue_eq {r : PReq} (h : r.isCue = true) : ∃ a b c d, r = .cue a b c d := by
  cases r with
  | cue a b c d => exact ⟨a, b, c, d, rfl⟩
  | stop x => exact absurd h Bool.false_ne_true
  | query x => exact absurd h Bool.false_ne_true

/-! ## CUED and STOPPED (R107, R108) -/

/-- CUED for a CUEING record: in time, or late. -/
theorem onCued_cueing {p : PlayerId} {f : Flight} {env : Env} {w : W} {i : Item} {r : Frame} (hcue : f.req.isCue = true)
    (hstate : (w.player p).state = .cueing) (hloaded : (w.player p).loaded = some i) (hroll : (w.player p).roll = some r)
    (hqueue : (w.player p).cueQueued = false) : onCued p f env w =
      if env.now < r then w.modPlayer p fun x => { x with state := .cued }
      else itemReturned p (w.ch.triedLast p false i) i (stopAtOnce env p env.now w) := by
  obtain ⟨a, b, c, d, hreq⟩ := isCue_eq hcue
  simp [onCued, hreq, hstate, hloaded, hroll, hqueue]

theorem stopAtOnce_player (env : Env) (p : PlayerId) (frame : Frame) (w : W) :
    ((stopAtOnce env p frame w).player p).state = .stopping ∧ ((stopAtOnce env p frame w).player p).loaded = none := by
  unfold stopAtOnce
  rw [W.modPlayer_player]
  exact ⟨rfl, rfl⟩

theorem runCh_congr {c : Ch} {op op' : Env → W → W} {s : State}
    (h : op (envOf s c) (begun s c) = op' (envOf s c) (begun s c)) : runCh c op s = runCh c op' s := by
  have hrun : ∀ o : Env → W → W, runCh c o s = (ranCh c o s).fx.foldl (applyEffect c) (s.setCh c (ranCh c o s).ch) := fun _ => rfl
  rw [hrun, hrun, ranCh, ranCh, h]

/-- A reply that does nothing with the record it finds only ends the flight. -/
theorem replied_ends {s : State} {e : Eth} {c : Ch} {p : PlayerId} {f : Flight} (h : InFlight s e c p f)
    {act : Flight → Env → W → W} (hact : act f (envOf s c) (answeredBy s c p) = answeredBy s c p) :
    runCh c (replied p f.tag act) s = runCh c (replied p f.tag fun _ _ w => w) s := by
  refine runCh_congr ?_
  have hleft := replied_flight h act
  have hright := replied_flight h fun _ _ w => w
  rw [hact] at hleft
  exact hleft.trans hright.symm

theorem cueCancelled_answered {s : State} {c : Ch} {p : PlayerId} (h : CueCancelled (s.chans[c].seq.player p)) :
    CueCancelled ((answeredBy s c p).player p) := by
  rw [answeredBy_player]
  exact h

theorem onStopped_stopping {p : PlayerId} {f : Flight} {env : Env} {w : W} {x : Frame} (hstop : f.req = .stop x)
    (hstate : (w.player p).state = .stopping) : onStopped p f env w = clearCue p .idle w := by
  simp [onStopped, hstop, hstate]

theorem onStopped_playing {p : PlayerId} {f : Flight} {env : Env} {w : W} {x : Frame} (hstop : f.req = .stop x)
    (hstate : (w.player p).state = .playing) (hframe : (w.player p).stopF = some x) (hearly : env.now < x) :
    onStopped p f env w = w.modPlayer p fun y => { y with stopConfirmed := true } := by
  simp [onStopped, hstop, hstate, hframe, hearly]

/-- Settles O18, reply by reply. -/
theorem cuedAndStoppedRepliesMoveThePlayer : Obligations.CuedAndStoppedRepliesMoveThePlayer := by
  unfold Obligations.CuedAndStoppedRepliesMoveThePlayer
  refine ⟨fun e k c p f i r s hflight hcue hstate hloaded hroll hqueue => ?_, fun e k c p f s hflight _ hcancelled => ?_,
    fun e k c p f x s hflight hstop => ?_⟩
  · have hact := onCued_cueing (env := envOf s c) (w := answeredBy s c p) (i := i) (r := r) hcue
      (by rw [answeredBy_player]; exact hstate) (by rw [answeredBy_player]; exact hloaded)
      (by rw [answeredBy_player]; exact hroll) (by rw [answeredBy_player]; exact cueQueued_false hqueue)
    refine ⟨runCh c (replied p f.tag (onCued p)) s,
      congrArg Host.Outcome.next ((live_on (inFlight_powered hflight)).trans (playerReply_inFlight hflight onCued)),
      runCh_kept _ _ _, runCh_others _ _ _, fun hearly => ?_, fun hlate => ?_⟩
    · rw [if_pos (show (envOf s c).now < r from hearly)] at hact
      have hplayer : (onCued p f (envOf s c) (answeredBy s c p)).player p =
          { s.chans[c].seq.player p with flight := none, state := .cued } := by
        rw [hact, W.modPlayer_player, answeredBy_player]
      obtain ⟨h1, h2, h3, -⟩ := hold_parts (replied_hold hflight (onCued p) (by rw [hplayer]; simp) (by rw [hplayer]; simp))
      rw [hplayer] at h1 h2 h3
      exact ⟨h1, h2.trans hloaded, h3.trans hroll⟩
    · rw [if_neg (show ¬ (envOf s c).now < r from Int.not_lt.2 hlate)] at hact
      have hplayer := hands_player (itemReturned_hands p ((answeredBy s c p).ch.triedLast p false i) i
        (stopAtOnce (envOf s c) p (envOf s c).now (answeredBy s c p))) p
      obtain ⟨hstopping, hnone⟩ := stopAtOnce_player (envOf s c) p (envOf s c).now (answeredBy s c p)
      rw [← hact] at hplayer
      rw [← hplayer] at hstopping hnone
      obtain ⟨h1, h2, -⟩ := hold_parts (replied_hold hflight (onCued p) (by rw [hstopping]; decide) (by rw [hstopping]; decide))
      exact ⟨h1.trans hstopping, h2.trans hnone⟩
  · refine congrArg Host.Outcome.next ((live_on (inFlight_powered hflight)).trans
      ((playerReply_inFlight hflight onCued).trans (replied_ends hflight ?_)))
    exact onCued_cancelled (cueCancelled_answered hcancelled) f (envOf s c)
  · refine ⟨congrArg Host.Outcome.next ((live_on (inFlight_powered hflight)).trans (playerReply_inFlight hflight onStopped)),
      fun hstate => ?_, fun hstate hframe hearly => ?_⟩
    · rw [onStopped_stopping hstop (by rw [answeredBy_player]; exact hstate), clearCue, W.modPlayer_player]
      exact ⟨rfl, rfl⟩
    · have hact := onStopped_playing (env := envOf s c) (w := answeredBy s c p) hstop
        (by rw [answeredBy_player]; exact hstate) (by rw [answeredBy_player]; exact hframe) hearly
      have hplayer : (onStopped p f (envOf s c) (answeredBy s c p)).player p =
          { s.chans[c].seq.player p with flight := none, stopConfirmed := true } := by
        rw [hact, W.modPlayer_player, answeredBy_player]
      have hplaying : ((onStopped p f (envOf s c) (answeredBy s c p)).player p).state = .playing := by rw [hplayer]; exact hstate
      obtain ⟨-, -, -, hconf⟩ :=
        hold_parts (replied_hold hflight (onStopped p) (by rw [hplaying]; decide) (by rw [hplaying]; decide))
      rw [hconf, hplayer]

/-! ## The events of a store, looked up -/

theorem lookupId_map {f : Event → Event} (hf : ∀ e, (f e).id = e.id) (n : Nat) (l : List Event) :
    lookupId n (l.map f) = (lookupId n l).map f := by
  unfold lookupId
  rw [List.find?_map]
  congr 2
  funext e
  simp [hf]

/-- A change of one event, looked up. -/
theorem event_modEvent {f : Event → Event} (hf : ∀ e, (f e).id = e.id) (k n : Nat) (t : Store) :
    (t.modEvent k f).event n = (t.event n).map fun e => if e.id = k then f e else e := by
  have hid : ∀ e : Event, (if e.id = k then f e else e).id = e.id := fun e => by split <;> [exact hf e; rfl]
  unfold Store.event Store.modEvent
  dsimp only
  rw [lookupId_map hid]
  cases lookupId n t.current with
  | some e => rfl
  | none =>
    cases t.orphan with
    | none => rfl
    | some o =>
      simp only [Option.map_none, Option.map_some, hid]
      split <;> rfl

theorem event_id {t : Store} {n : Nat} {v : Event} (h : t.event n = some v) : v.id = n := by
  unfold Store.event at h
  split at h
  case h_1 e he => cases h; exact (lookupId_some he).2
  case h_2 =>
    split at h
    case h_1 o ho =>
      split at h
      case isTrue hn => cases h; exact hn
      case isFalse => cases h
    case h_2 => cases h

/-- The readiness of an event of the store. -/
def Store.reading (t : Store) (n : Nat) : Option Readiness := (t.event n).map fun e => e.readiness

theorem setMark_reading (event i n : Nat) (m : Option Frame) (w : W) :
    (w.setMark event i m).ch.store.reading n = w.ch.store.reading n := by
  show ((w.ch.store.modEvent event (Event.setMark i m)).event n).map _ = _
  rw [event_modEvent (f := Event.setMark i m) (fun e => rfl), Option.map_map]
  unfold Store.reading
  congr 1
  funext e
  show (if e.id = event then e.setMark i m else e).readiness = e.readiness
  split <;> rfl

theorem dropOwner_reading (i : Item) (n : Nat) (w : W) : (w.dropOwner i).ch.store.reading n = w.ch.store.reading n := by
  unfold W.dropOwner W.dropPending
  dsimp only
  rw [foldl_keeps (fun w => w.ch.store.reading n) _ fun w x => setMark_reading _ _ _ _ w]
  rfl

/-- The entries of an item leave the pending list without a change in the Sequencer. -/
theorem dropOwner_seq (i : Item) (w : W) : (w.dropOwner i).ch.seq = w.ch.seq := by
  unfold W.dropOwner W.dropPending
  dsimp only
  exact (foldl_keeps (fun w => w.ch.seq) (fun w (t : PendTrig) => w.setMark t.event t.index none) (fun w x => rfl) _ _).trans rfl

/-! ## CUE_FAILED (R109) -/

theorem itemAgain_reading (again : Bool) (p : PlayerId) (avoid : Option PlayerId) (i : Item) (n : Nat) (w : W) :
    (itemAgain again p avoid i w).ch.store.reading n = w.ch.store.reading n := by
  rw [← dropOwner_reading i n w]
  unfold itemAgain
  dsimp only
  split
  · rfl
  · split <;> split <;> rfl

/-- Where an item of the timeline goes that no landing holds: back to the pointer, or among the ABSENT fill. -/
theorem itemAgain_slots {p : PlayerId} {i : Item} {w : W} (hkind : i.kind = .pass) (hlanding : w.ch.seq.landing = none)
    (hcued : ∀ j, w.ch.seq.cued = some j → j.player = some p) (again : Bool) (avoid : Option PlayerId) :
    (itemAgain again p avoid i w).ch.seq.cued = none ∧
      (again = true → (itemAgain again p avoid i w).ch.seq.preroll = some (i.released avoid)) ∧
      (again = false → (itemAgain again p avoid i w).ch.seq.preroll = none ∧
        (itemAgain again p avoid i w).ch.seq.spent = w.ch.seq.spent ++ [{ event := i.event, pass := i.pass, due := none }]) := by
  have hseq := dropOwner_seq i w
  obtain ⟨v, hv⟩ : ∃ v, v = w.dropOwner i := ⟨_, rfl⟩
  rw [← hv] at hseq
  have hempty : v.ch.seq.cued.filter (fun j => decide (j.player ≠ some p)) = none := by
    rw [hseq]
    cases hj : w.ch.seq.cued with
    | none => rfl
    | some j => simp [hcued j hj]
  have hnot : v.ch.isLanding p = false := by simp [Chan.isLanding, hseq, hlanding]
  have hagain : itemAgain again p avoid i w =
      let u := v.modSeq fun q => { q with cued := q.cued.filter fun j => decide (j.player ≠ some p) }
      if again then u.modSeq fun q => { q with preroll := some (i.released avoid) }
      else (u.modSeq fun q => { q with preroll := none }).addSpent (i.released avoid) none := by
    unfold itemAgain
    dsimp only
    rw [if_neg (show ¬ (i.released avoid).kind = .brk by show ¬ i.kind = .brk; rw [hkind]; decide), ← hv,
      if_neg (by rw [hnot]; decide)]
  rw [hagain]
  cases again with
  | true => exact ⟨hempty, fun _ => rfl, fun h => absurd h (by decide)⟩
  | false => exact ⟨hempty, fun h => absurd h (by decide), fun _ => ⟨rfl, by rw [← hseq]; rfl⟩⟩

/-- A player's record changes without the slots. -/
theorem modPlayer_slots (w : W) (p : PlayerId) (f : Player → Player) :
    (w.modPlayer p f).ch.seq.landing = w.ch.seq.landing ∧ (w.modPlayer p f).ch.seq.cued = w.ch.seq.cued ∧
      (w.modPlayer p f).ch.seq.spent = w.ch.seq.spent ∧ (w.modPlayer p f).ch.seq.sweep = w.ch.seq.sweep := by
  cases p <;> exact ⟨rfl, rfl, rfl, rfl⟩

theorem setReadiness_event (id n : Nat) (r : Readiness) (w : W) : (w.setReadiness id r).ch.store.event n =
    (w.ch.store.event n).map fun e => if e.id = id then { e with readiness := r } else e :=
  event_modEvent (f := fun e => { e with readiness := r }) (fun _ => rfl) id n w.ch.store

/-- The channel after a failed cue: the record is cleared, and the readiness that the reason gives is set where the cue named
the handle that the sweep asks about. -/
def cueFailedOn (p : PlayerId) (i : Item) (r : Readiness) (w : W) : W :=
  if i.isPass && (clearCue p .idle w).ch.sweepsHandle i then (clearCue p .idle w).setReadiness i.event r else clearCue p .idle w

theorem cueFailedOn_seq (p : PlayerId) (i : Item) (r : Readiness) (w : W) :
    (cueFailedOn p i r w).ch.seq = (clearCue p .idle w).ch.seq := by
  unfold cueFailedOn
  split <;> rfl

/-- A substitute is chosen by the event's own fields, which the readiness leaves alone. -/
theorem canSubstitute_iff {c : Chan} {i : Item} (hkind : i.kind = .pass) : c.canSubstitute i = true ↔
    i.subTried = false ∧ i.attempts < 2 ∧ ∃ v, c.store.event i.event = some v ∧
      (v.fieldsFor i.pass i.contin).2.2.2 = .play ∧ (v.fieldsFor i.pass i.contin).2.2.1.isSome = true := by
  unfold Chan.canSubstitute Item.isPass
  cases c.store.event i.event <;> simp [hkind, and_assoc]

theorem cueFailedOn_fields {p : PlayerId} {i : Item} {r : Readiness} {w : W} {v : Event}
    (hv : w.ch.store.event i.event = some v) : ∃ v', (cueFailedOn p i r w).ch.store.event i.event = some v' ∧
      v'.fieldsFor = v.fieldsFor ∧ (i.kind = .pass → i.handle = some v.sweepHandle → v'.readiness = r) := by
  have hclear : (clearCue p .idle w).ch.store = w.ch.store := rfl
  unfold cueFailedOn
  by_cases hswept : (i.isPass && (clearCue p .idle w).ch.sweepsHandle i) = true
  · refine ⟨{ v with readiness := r }, ?_, rfl, fun _ _ => rfl⟩
    rw [if_pos hswept, setReadiness_event, hclear, hv]
    simp [event_id hv]
  · refine ⟨v, ?_, rfl, fun hkind hhandle => absurd ?_ hswept⟩
    · rw [if_neg hswept, hclear]; exact hv
    · simp [Item.isPass, hkind, Chan.sweepsHandle, hclear, hv, hhandle]

/-- CUE_FAILED for a CUEING record, by its reason. -/
theorem onCueFailed_cueing {p : PlayerId} {f : Flight} {env : Env} {w : W} {i : Item} (reason : CueReason)
    (hcue : f.req.isCue = true) (hstate : (w.player p).state = .cueing) (hloaded : (w.player p).loaded = some i)
    (hqueue : (w.player p).cueQueued = false) : onCueFailed p reason f env w =
      match reasonReadiness reason with
      | none => itemAgain (decide (i.attempts < 2)) p (some p) i (clearCue p .idle w)
      | some r =>
        if (cueFailedOn p i r w).ch.canSubstitute i then
          itemAgain true p none { i with subTried := true, subNext := true, subShort := decide (reason = .short) }
            (cueFailedOn p i r w)
        else itemAgain false p none i (cueFailedOn p i r w) := by
  obtain ⟨a, b, c, d, hreq⟩ := isCue_eq hcue
  simp only [onCueFailed, hreq, hstate, hloaded, hqueue, itemReturned]
  rfl

theorem clearCue_player (p : PlayerId) (st : PState) (w : W) :
    ((clearCue p st w).player p).state = st ∧ ((clearCue p st w).player p).loaded = none := by
  unfold clearCue
  rw [W.modPlayer_player]
  exact ⟨rfl, rfl⟩

/-- However its item fares, the record is IDLE with nothing loaded. -/
theorem onCueFailed_player {p : PlayerId} {f : Flight} {env : Env} {w : W} {i : Item} (reason : CueReason)
    (hcue : f.req.isCue = true) (hstate : (w.player p).state = .cueing) (hloaded : (w.player p).loaded = some i)
    (hqueue : (w.player p).cueQueued = false) :
    ((onCueFailed p reason f env w).player p).state = .idle ∧ ((onCueFailed p reason f env w).player p).loaded = none := by
  have hidle := clearCue_player p .idle w
  have hset : ∀ r, (cueFailedOn p i r w).player p = (clearCue p .idle w).player p := fun r =>
    congrArg (fun q => Seq.player q p) (cueFailedOn_seq p i r w)
  rw [onCueFailed_cueing reason hcue hstate hloaded hqueue]
  cases reasonReadiness reason with
  | none =>
    dsimp only
    rw [hands_player (itemAgain_hands _ _ _ _ _) p]
    exact hidle
  | some r =>
    dsimp only
    split
    · rw [hands_player (itemAgain_hands _ _ _ _ _) p, hset]; exact hidle
    · rw [hands_player (itemAgain_hands _ _ _ _ _) p, hset]; exact hidle

/-- Settles O19: a cancelled cue, and a failed one by its reason. -/
theorem failedCuesReturnTheItem : Obligations.FailedCuesReturnTheItem := by
  unfold Obligations.FailedCuesReturnTheItem
  refine ⟨fun e k c p f reason s hflight _ hcancelled => ?_, fun e k c p f i reason s w hflight hcue hstate hloaded hqueue hw => ?_⟩
  · refine congrArg Host.Outcome.next ((live_on (inFlight_powered hflight)).trans
      ((playerReply_inFlight hflight fun p => onCueFailed p reason).trans (replied_ends hflight ?_)))
    exact onCueFailed_cancelled (cueCancelled_answered hcancelled) reason f (envOf s c)
  · obtain ⟨v0, hv0⟩ : ∃ v0, v0 = answeredBy s c p := ⟨_, rfl⟩
    rw [← hv0] at hw
    have hplayer : v0.player p = { s.chans[c].seq.player p with flight := none } := by rw [hv0, answeredBy_player]
    have hstate' : (v0.player p).state = .cueing := by rw [hplayer]; exact hstate
    have hloaded' : (v0.player p).loaded = some i := by rw [hplayer]; exact hloaded
    have hqueue' : (v0.player p).cueQueued = false := by rw [hplayer]; exact cueQueued_false hqueue
    have hstore : v0.ch.store = s.chans[c].store := by rw [hv0]; rfl
    have hact := onCueFailed_cueing (env := envOf s c) reason hcue hstate' hloaded' hqueue'
    rw [← hw] at hact
    obtain ⟨hidle, hnone⟩ := onCueFailed_player (env := envOf s c) reason hcue hstate' hloaded' hqueue'
    rw [← hw] at hidle hnone
    obtain ⟨hland, hcued, hspent, -⟩ := modPlayer_slots (begun s c) p fun x => { x with flight := none }
    obtain ⟨cland, ccued, cspent, -⟩ := modPlayer_slots v0 p fun x =>
      { x with state := .idle, loaded := none, roll := none, endF := none, stopF := none, stopConfirmed := false }
    have hslots : (clearCue p .idle v0).ch.seq.landing = s.chans[c].seq.landing ∧
        (clearCue p .idle v0).ch.seq.cued = s.chans[c].seq.cued ∧ (clearCue p .idle v0).ch.seq.spent = s.chans[c].seq.spent :=
      ⟨cland.trans (by rw [hv0]; exact hland), ccued.trans (by rw [hv0]; exact hcued), cspent.trans (by rw [hv0]; exact hspent)⟩
    obtain ⟨slanding, scued, sspent⟩ := hslots
    refine ⟨congrArg Host.Outcome.next ((live_on (inFlight_powered hflight)).trans
        (playerReply_inFlight hflight fun p => onCueFailed p reason)), hidle, hnone, fun r v hr hkind hv hhandle => ?_,
      fun hunable hkind hlanding hheld => ?_, fun v act sub hreason hkind hlanding hheld hv hact' hsub => ?_⟩
    · rw [← hstore] at hv
      obtain ⟨v', hv', -, hready⟩ := cueFailedOn_fields (p := p) (r := r) hv
      have hreading : w.ch.store.reading i.event = some r := by
        rw [hact, hr]
        dsimp only
        split <;> (rw [itemAgain_reading, Store.reading, hv']; exact congrArg some (hready hkind hhandle))
      unfold Store.reading at hreading
      obtain ⟨u, hu, hur⟩ := Option.map_eq_some_iff.1 hreading
      exact ⟨u, hu, hur⟩
    · obtain ⟨hgone, hagain, hfill⟩ := itemAgain_slots hkind (slanding.trans hlanding) (by rw [scued]; exact hheld)
        (decide (i.attempts < 2)) (some p)
      rw [hact, hunable]
      refine ⟨fun hlt => ⟨hagain (decide_eq_true hlt), hgone⟩, fun hge => ?_⟩
      obtain ⟨hpre, hsp⟩ := hfill (decide_eq_false (Nat.not_lt.2 hge))
      exact ⟨hpre, hgone, by rw [← sspent]; exact hsp⟩
    · obtain ⟨r, hr⟩ : ∃ r, reasonReadiness reason = some r := by
        rcases hreason with rfl | rfl
        · exact ⟨.absent, rfl⟩
        · exact ⟨.short, rfl⟩
      rw [← hstore] at hv
      obtain ⟨v', hv', hfields, -⟩ := cueFailedOn_fields (p := p) (r := r) hv
      have hseq := cueFailedOn_seq p i r v0
      have hcan := canSubstitute_iff (c := (cueFailedOn p i r v0).ch) hkind
      have hslots' : ∀ (again : Bool) (j : Item), j.kind = .pass → _ := fun again j hj =>
        itemAgain_slots (p := p) (w := cueFailedOn p i r v0) hj (by rw [hseq]; exact slanding.trans hlanding)
          (by rw [hseq, scued]; exact hheld) again none
      rw [hact, hr]
      dsimp only
      refine ⟨fun hplay hsome htried hlt => ?_, fun hno => ?_⟩
      · rw [if_pos (hcan.2 ⟨htried, hlt, v', hv', by rw [hfields, ← hact']; exact hplay, by rw [hfields, ← hsub]; exact hsome⟩)]
        obtain ⟨hgone, hagain, -⟩ := hslots' true
          { i with subTried := true, subNext := true, subShort := decide (reason = .short) } hkind
        exact ⟨hagain rfl, hgone⟩
      · have hcannot : ¬ (cueFailedOn p i r v0).ch.canSubstitute i = true := by
          rw [hcan]
          rintro ⟨htried, hlt, u, hu, hplay, hsome⟩
          rw [hv'] at hu
          cases hu
          rw [hfields, ← hact'] at hplay
          rw [hfields, ← hsub] at hsome
          rcases hno with h | h | h | h
          · exact h hplay
          · rw [h] at hsome; exact absurd hsome (by decide)
          · exact absurd (htried.symm.trans h) (by decide)
          · omega
        rw [if_neg hcannot]
        obtain ⟨hgone, -, hfill⟩ := hslots' false i hkind
        obtain ⟨hpre, hsp⟩ := hfill rfl
        exact ⟨hpre, hgone, by rw [hsp, hseq, sspent]⟩

/-! ## ANSWER (R111, R119) -/

theorem lookupId_modEvent {f : Event → Event} (hf : ∀ e, (f e).id = e.id) {n : Nat} {t : Store} {v : Event}
    (hv : lookupId n t.current = some v) : lookupId n (t.modEvent n f).current = some (f v) := by
  have hid : ∀ e : Event, (if e.id = n then f e else e).id = e.id := fun e => by split <;> [exact hf e; rfl]
  show lookupId n (t.current.map fun e => if e.id = n then f e else e) = _
  rw [lookupId_map hid, hv]
  exact congrArg some (if_pos (lookupId_some hv).2)

/-- Settles O20: the probe, and the query of the sweep. -/
theorem answersEndProbesAndQueries : Obligations.AnswersEndProbesAndQueries := by
  unfold Obligations.AnswersEndProbesAndQueries
  intro e k handle length found c p f s w hflight hquery hw
  have hact : w = if f.probe then
      (((answeredBy s c p).modPlayer p fun x => { x with state := .idle, queue := [], probeTimer := 0 }).notice (envOf s c) .loc
        (.player p .fault .idle .answer none (envOf s c).now))
    else match (answeredBy s c p).ch.seq.sweep with
      | some q =>
        if q.player = p ∧ q.tag = f.tag then
          match lookupId q.event (abandonSweep (answeredBy s c p)).ch.store.current with
          | some e => (abandonSweep (answeredBy s c p)).setReadiness q.event (answerReadiness e found length)
          | none => abandonSweep (answeredBy s c p)
        else answeredBy s c p
      | none => answeredBy s c p := by
    rw [hw]
    unfold onAnswer
    rw [if_neg (by rw [hquery]; decide)] <;> rfl
  refine ⟨congrArg Host.Outcome.next ((live_on (inFlight_powered hflight)).trans
    (playerReply_inFlight hflight fun p => onAnswer p found length)), fun hprobe => ?_, fun q v hprobe hsweep hplayer htag hv => ?_⟩
  · rw [if_pos hprobe] at hact
    have hplayer : w.player p = { (answeredBy s c p).player p with state := .idle, queue := [], probeTimer := 0 } := by
      rw [hact, W.notice, emit_player, W.modPlayer_player]
    rw [hplayer]
    exact ⟨rfl, rfl, by rw [hact]; rfl⟩
  · obtain ⟨-, -, -, hsame⟩ := modPlayer_slots (begun s c) p fun x => { x with flight := none }
    have hsweep' : (answeredBy s c p).ch.seq.sweep = some q := hsame.trans hsweep
    have hv' : lookupId q.event (abandonSweep (answeredBy s c p)).ch.store.current = some v := hv
    rw [if_neg (by rw [hprobe]; decide), hsweep'] at hact
    dsimp only at hact
    rw [if_pos ⟨hplayer, htag⟩, hv'] at hact
    dsimp only at hact
    rw [hact]
    exact ⟨rfl, _, lookupId_modEvent (f := fun e => { e with readiness := answerReadiness v found length }) (fun e => rfl) hv', rfl⟩

end Sys2Proof.Machine

/-! PROOFS. The Feed Monitor (R84 to R95): the conditions, the counts and advisories, the changes of state and how they move the
channel. -/

namespace Sys2Proof.Machine

open Sys2Proof

/-! ## An event of one channel -/

theorem within_runCh {c : Ch} {op : Env → W → W} {s : State} (h : (ranCh c op s).rest = (begun s c).rest) :
    Within c s (runCh c op s) := by
  simp only [W.rest, Prod.mk.injEq] at h
  obtain ⟨hintake, hcounter, hheld, hrun, -⟩ := h
  exact ⟨runCh_kept _ _ _, runCh_others _ _ _, by rw [runCh_here]; exact hintake, by rw [runCh_here]; exact hcounter,
    by rw [runCh_here]; exact hheld, by rw [runCh_here]; exact hrun⟩

/-- An event that only changes its channel and makes one notice on LOCAL_CTL. -/
theorem runCh_notice {c : Ch} {op : Env → W → W} {s : State} {x : Chan} {ch : Nat} {n : Notice}
    (h : ranCh c op s = { ch := x, fx := [.notice .loc ch n] }) : runCh c op s =
      { s.setCh c x with nextLocal := (s.nextLocal + 1) % two16, sent := s.sent ++ noticePackets s .loc s.nextLocal ch n } := by
  have hrun : runCh c op s = (ranCh c op s).fx.foldl (applyEffect c) (s.setCh c (ranCh c op s).ch) := rfl
  rw [hrun, h]
  show (s.setCh c x).notice .loc ch n = _
  rw [notice_local_eq, noticePackets_congr (s := s) (t := s.setCh c x) rfl rfl]
  rfl

/-! ## The conditions (R85, R86) -/

/-- What can be judged neither way in the period. -/
def Chan.holdsBack (c : Chan) (a : Fin 8) : Prop :=
  (c.intake.takeMain = none ∧ (a = 1 ∨ a = 2 ∨ a = 3 ∨ a = 5)) ∨
    (a = 5 ∧ ∃ f, c.intake.takeMain = some f ∧ f.hdr.stamp = none)

theorem condOf_ne_held (b : Bool) : condOf b ≠ .held := by cases b <;> simp [condOf]

theorem condOf_holds (b : Bool) : condOf b = .holds ↔ b = true := by cases b <;> simp [condOf]

theorem condOf_decide (p : Prop) [Decidable p] : condOf (decide p) = if p then .holds else .lacks := by
  unfold condOf
  by_cases h : p <;> simp [h]

/-- Every condition of a period without a MAIN frame (R85). -/
theorem condition_lost {c : Chan} (h : c.intake.takeMain = none) (env : Env) (bad : Bool) :
    condition env c bad 0 = .holds ∧ condition env c bad 1 = .held ∧ condition env c bad 2 = .held ∧
      condition env c bad 3 = .held ∧ condition env c bad 4 = .lacks ∧ condition env c bad 5 = .held := by
  simp [condition, h]

/-- Every condition of a period with a MAIN frame (R86). -/
theorem condition_taken {c : Chan} {f : EssFrame} (h : c.intake.takeMain = some f) (env : Env) (bad : Bool) :
    condition env c bad 0 = .lacks ∧ condition env c bad 1 = condOf (decide (lumaMean f.sums < env.part.blackLevel)) ∧
      condition env c bad 2 = condOf (decide (c.mon.prevSig = some f.sums.signature)) ∧
      condition env c bad 3 = condOf (decide (f.sums.peak < env.part.silenceLevel)) ∧
      condition env c bad 4 = condOf f.hdr.stamp.isNone ∧ (f.hdr.stamp = none → condition env c bad 5 = .held) ∧
      ∀ p, f.hdr.stamp = some p → condition env c bad 5 = condOf (divergence c.store.current p) := by
  unfold condition
  rw [h]
  refine ⟨rfl, rfl, rfl, rfl, rfl, fun hs => ?_, fun p hs => ?_⟩ <;> simp [hs]

theorem condition_part (env : Env) (c : Chan) (bad : Bool) :
    condition env c bad 6 = condOf env.expired ∧ condition env c bad 7 = condOf bad := by
  unfold condition
  cases c.intake.takeMain <;> exact ⟨rfl, rfl⟩

theorem condition_held_iff (env : Env) (c : Chan) (bad : Bool) (a : Fin 8) :
    condition env c bad a.val = .held ↔ c.holdsBack a := by
  obtain ⟨hsix, hseven⟩ := condition_part env c bad
  have hne := condOf_ne_held
  unfold Chan.holdsBack
  cases hm : c.intake.takeMain with
  | none =>
    obtain ⟨h0, h1, h2, h3, h4, h5⟩ := condition_lost hm env bad
    match a with
    | 0 => simp [h0]
    | 1 => simp [h1]
    | 2 => simp [h2]
    | 3 => simp [h3]
    | 4 => simp [h4]
    | 5 => simp [h5]
    | 6 => simp [hsix, hne]
    | 7 => simp [hseven, hne]
  | some f =>
    obtain ⟨h0, h1, h2, h3, h4, h5, h5'⟩ := condition_taken hm env bad
    match a with
    | 0 => simp [h0]
    | 1 => simp [h1, hne]
    | 2 => simp [h2, hne]
    | 3 => simp [h3, hne]
    | 4 => simp [h4, hne]
    | 5 =>
      cases hs : f.hdr.stamp with
      | none => simp [h5 hs, hs]
      | some p => simp [h5' p hs, hne, hs]
    | 6 => simp [hsix, hne]
    | 7 => simp [hseven, hne]

theorem heldNow_iff (env : Env) (a : Fin 8) (w : W) : heldNow env a w = true ↔ w.ch.holdsBack a := by
  unfold heldNow
  rw [decide_eq_true_iff, condition_held_iff]

/-! ## Advisories (R88) -/

theorem raises_iff (p : AttrParam) (x : Attr) :
    Attr.raises p x = true ↔ p.cls = .advisory ∧ p.threshold ≤ x.run ∧ x.flag = false := by
  simp [Attr.raises, and_assoc]

theorem clears_iff (p : AttrParam) (x : Attr) : Attr.clears p x = true ↔ p.cls = .advisory ∧ x.run = 0 ∧ x.flag = true := by
  simp [Attr.clears, and_assoc]

/-- Settles the first clause of O22. -/
theorem advisoryRaised_once (c : Ch) (a : Fin 8) (p : AttrParam) (r : Attr) (s : State) (hpow : s.powered = true)
    (hp : p = s.params.chans[c].attrs[a]) (hr : r = s.chans[c].mon.attrs[a]) :
    (p.cls = .advisory → p.threshold ≤ r.run → r.flag = false → ¬ HeldNow s c a →
      ∃ t, exec (.advisoryRaised c a) s = .next t ∧ Within c s t ∧ t.log = s.log ∧
        t.chans[c].mon.attrs = s.chans[c].mon.attrs.set a { r with flag := true } ∧
        t.chans[c].mon.state = s.chans[c].mon.state ∧ t.nextLocal = (s.nextLocal + 1) % two16 ∧ t.nextMain = s.nextMain ∧
        t.sent = s.sent ++ noticePackets s .loc s.nextLocal c.val
          (.advisory a.val true p.cls p.threshold r.run r.total r.worst s.now)) ∧
    (p.cls ≠ .advisory ∨ r.run < p.threshold ∨ r.flag = true ∨ HeldNow s c a → exec (.advisoryRaised c a) s = .next s) := by
  subst hp hr
  have hexec : exec (.advisoryRaised c a) s = .next (runCh c (fun env w => advisoryRaise env a w) s) :=
    congrArg Host.Outcome.next (live_on hpow)
  have hheld : heldNow (envOf s c) a (begun s c) = true ↔ HeldNow s c a := heldNow_iff _ _ _
  have hraises := raises_iff s.params.chans[c].attrs[a] s.chans[c].mon.attrs[a]
  refine ⟨fun hcls hrun hflag hnot => ?_, fun hno => ?_⟩
  · have hdue : heldNow (envOf s c) a (begun s c) = false ∧ Attr.raises (envOf s c).cp.attrs[a] (begun s c).ch.mon.attrs[a] = true :=
      ⟨by rw [← Bool.not_eq_true, hheld]; exact hnot, hraises.2 ⟨hcls, hrun, hflag⟩⟩
    have hop : ranCh c (fun env w => advisoryRaise env a w) s =
        { ch := { s.chans[c] with mon := { s.chans[c].mon with
            attrs := s.chans[c].mon.attrs.set a { s.chans[c].mon.attrs[a] with flag := true } } }
          fx := [.notice .loc c.val (.advisory a.val true s.params.chans[c].attrs[a].cls s.params.chans[c].attrs[a].threshold
            s.chans[c].mon.attrs[a].run s.chans[c].mon.attrs[a].total s.chans[c].mon.attrs[a].worst s.now)] } := by
      show advisoryRaise (envOf s c) a (begun s c) = _
      unfold advisoryRaise
      rw [if_pos hdue]
      unfold advisoryNotice
      have hset : (setFlag a true (begun s c)).ch.mon.attrs[a] = { s.chans[c].mon.attrs[a] with flag := true } := by
        simp [setFlag, begun, W.modMon, W.modCh]
      rw [hset]
      rfl
    have hrest : (ranCh c (fun env w => advisoryRaise env a w) s).rest = (begun s c).rest := advisoryRaise_rest _ _ _
    have hwithin := within_runCh hrest
    rw [runCh_notice hop] at hexec hwithin
    refine ⟨_, hexec, hwithin, rfl, ?_, ?_, rfl, rfl, rfl⟩ <;> simp
  · have hidle : advisoryRaise (envOf s c) a (begun s c) = begun s c := by
      unfold advisoryRaise
      refine if_neg fun h => ?_
      obtain ⟨hfree, hup⟩ := h
      obtain ⟨hcls, hrun, hflag⟩ := hraises.1 hup
      rcases hno with h | h | h | h
      · exact h hcls
      · exact absurd hrun (Nat.not_le.2 h)
      · exact absurd (hflag.symm.trans h) (by decide)
      · exact absurd ((hheld.2 h).symm.trans hfree) (by decide)
    exact hexec.trans (congrArg Host.Outcome.next (runCh_unmoved hidle))

/-! ## What a change of the monitor's state does -/

theorem monitorChanged_mon (env : Env) (before after : MonState) (w : W) : (monitorChanged env before after w).ch.mon = w.ch.mon := by
  unfold monitorChanged
  dsimp only
  split <;> [split; split; split; skip] <;> simp

theorem changeMon_mon (env : Env) (after : MonState) (w : W) : (changeMon env after w).ch.mon = { w.ch.mon with state := after } :=
  monitorChanged_mon _ _ _ _

/-- The channel hears of a change: its rule but for what the change makes of the mode and the switch. -/
def W.told (after : MonState) (w : W) : W := w.modCtl fun c => { c with monitor := after }

/-- In a mode that a change does not move the channel only hears of it. -/
theorem monitorChanged_unmoved {env : Env} {before after : MonState} {w : W}
    (hreturning : w.mode = .returning → ¬ (before = .healthy ∧ after ≠ .healthy ∧ (w.ch.ctl.switch.any fun x => !x.force) = true))
    (hmirror : w.mode = .mirror → ¬ (after = .failed ∧ env.cp.policy = .auto)) (hjoining : w.mode = .joining → after ≠ .failed) :
    monitorChanged env before after w = w.told after := by
  unfold monitorChanged
  dsimp only
  split
  case h_1 h => exact if_neg (hreturning h)
  case h_2 h => exact if_neg (hmirror h)
  case h_3 h => exact if_neg (hjoining h)
  case h_4 => rfl

theorem monitorChanged_auto {env : Env} {before : MonState} {w : W} (hmode : w.mode = .mirror) (hpolicy : env.cp.policy = .auto) :
    monitorChanged env before .failed w = autoTakeover env (w.told .failed) := by
  have hmode' : (w.told .failed).mode = .mirror := hmode
  unfold monitorChanged
  dsimp only
  rw [show (w.modCtl fun c => { c with monitor := .failed }) = w.told .failed from rfl, hmode']
  exact if_pos ⟨rfl, hpolicy⟩

theorem monitorChanged_joining {env : Env} {before : MonState} {w : W} (hmode : w.mode = .joining) :
    monitorChanged env before .failed w = failureJoin env (w.told .failed) := by
  have hmode' : (w.told .failed).mode = .joining := hmode
  unfold monitorChanged
  dsimp only
  rw [show (w.modCtl fun c => { c with monitor := .failed }) = w.told .failed from rfl, hmode']
  exact if_pos rfl

theorem monitorChanged_returning {env : Env} {after : MonState} {w : W} {x : Switch} (hmode : w.mode = .returning)
    (hafter : after ≠ .healthy) (hswitch : w.ch.ctl.switch = some x) (hforce : x.force = false) :
    monitorChanged env .healthy after w = cancelHandback env .byMonitor (w.told after) := by
  have hmode' : (w.told after).mode = .returning := hmode
  have hswitch' : (w.told after).ch.ctl.switch = some x := hswitch
  unfold monitorChanged
  dsimp only
  rw [show (w.modCtl fun c => { c with monitor := after }) = w.told after from rfl, hmode']
  exact if_pos ⟨rfl, hafter, by rw [hswitch']; simp [hforce]⟩

/-- Whatever the change moves, the Channel Controller has heard of it. -/
theorem monitorChanged_tells (env : Env) (before after : MonState) (w : W) :
    (monitorChanged env before after w).ch.ctl.monitor = after := by
  unfold monitorChanged
  dsimp only
  split
  · split
    · cases hswitch : w.ch.ctl.switch with
      | none => simp [cancelHandback, W.modCtl, W.modCh, hswitch]
      | some x =>
        obtain ⟨-, -, -, hmon, -⟩ := rule_ctl (cancelHandback_rule env .byMonitor (w.told after) x hswitch)
        exact hmon
    · rfl
  · split
    · obtain ⟨-, -, -, hmon, -⟩ := rule_ctl (autoTakeover_rule env (w.told after))
      exact hmon
    · rfl
  · split
    · cases hswitch : w.ch.ctl.switch with
      | none => simp [failureJoin, W.modCtl, W.modCh, hswitch]
      | some x =>
        obtain ⟨y, hrule, -⟩ := failureJoin_rule env (w.told after) x hswitch
        obtain ⟨-, -, -, hmon, -⟩ := rule_ctl hrule
        exact hmon
    · rfl
  · rfl

theorem changeMon_tells (env : Env) (after : MonState) (w : W) :
    (changeMon env after w).ch.ctl.monitor = (changeMon env after w).ch.mon.state := by
  rw [changeMon_mon]
  exact monitorChanged_tells _ _ _ _

/-! ## The tests of the state (R90 to R92) -/

theorem reached_of_attrs {env : Env} {v w : W} (h : v.ch.mon.attrs = w.ch.mon.attrs) : v.reached env = w.reached env := by
  simp only [W.reached, h]

theorem shows_of_attrs {env : Env} {v w : W} (h : v.ch.mon.attrs = w.ch.mon.attrs) : v.shows env = w.shows env := by
  simp only [W.shows, h]

theorem attr_reached_iff (p : AttrParam) (x : Attr) : Attr.reached p x = true ↔ p.cls = .decisive ∧ p.threshold ≤ x.run := by
  simp [Attr.reached]

theorem attr_shows_iff (p : AttrParam) (x : Attr) : Attr.shows p x = true ↔ p.cls = .decisive ∧ 0 < x.run := by
  simp [Attr.shows]

theorem begun_reached {s : State} {c : Ch} : (begun s c).reached (envOf s c) = true ↔ DecisiveReached s c := by
  unfold W.reached anyReached
  rw [List.any_eq_true]
  exact ⟨fun ⟨i, _, h⟩ => ⟨i, (attr_reached_iff _ _).1 h⟩, fun ⟨i, h⟩ => ⟨i, List.mem_finRange i, (attr_reached_iff _ _).2 h⟩⟩

theorem begun_shows {s : State} {c : Ch} : (begun s c).shows (envOf s c) = true ↔ DecisiveShows s c := by
  unfold W.shows anyShows
  rw [List.any_eq_true]
  exact ⟨fun ⟨i, _, h⟩ => ⟨i, (attr_shows_iff _ _).1 h⟩, fun ⟨i, h⟩ => ⟨i, List.mem_finRange i, (attr_shows_iff _ _).2 h⟩⟩

theorem monitorFailed_due {env : Env} {w : W} (hreached : w.reached env = true)
    (hstate : w.ch.mon.state = .recovering ∨ (w.ch.mon.state = .suspect ∧ env.cp.holdoff ≤ w.ch.mon.holdoff)) :
    monitorFailed env w = changeMon env .failed w := if_pos ⟨hreached, hstate⟩

theorem monitorFailed_idle {env : Env} {w : W}
    (h : ¬ (w.ch.mon.state = .recovering ∨ (w.ch.mon.state = .suspect ∧ env.cp.holdoff ≤ w.ch.mon.holdoff))) :
    monitorFailed env w = w := if_neg fun hdue => by obtain ⟨-, hstate⟩ := hdue; exact h hstate

theorem monitorSuspect_due {env : Env} {w : W} (hstate : w.ch.mon.state = .healthy) (hreached : w.reached env = true) :
    monitorSuspect env w = monitorFailed env (changeMon env .suspect (w.modMon fun m => { m with holdoff := 0 })) :=
  if_pos ⟨hstate, hreached⟩

theorem monitorSuspect_idle {env : Env} {w : W} (h : w.ch.mon.state ≠ .healthy ∨ w.reached env = false) :
    monitorSuspect env w = w := by
  refine if_neg fun hdue => ?_
  obtain ⟨hstate, hreached⟩ := hdue
  rcases h with h | h
  · exact h hstate
  · exact absurd (hreached.symm.trans h) (by decide)

/-- HEALTHY with a run at its threshold: SUSPECT, and with no holdoff FAILED at once. -/
theorem monitorSuspect_mon {env : Env} {w : W} (hstate : w.ch.mon.state = .healthy) (hreached : w.reached env = true) :
    (monitorSuspect env w).ch.mon =
        { w.ch.mon with holdoff := 0, state := if env.cp.holdoff = 0 then .failed else .suspect } ∧
      (monitorSuspect env w).ch.ctl.monitor = (monitorSuspect env w).ch.mon.state := by
  rw [monitorSuspect_due hstate hreached]
  obtain ⟨v, hv⟩ : ∃ v, v = changeMon env .suspect (w.modMon fun m => { m with holdoff := 0 }) := ⟨_, rfl⟩
  have hmon : v.ch.mon = { w.ch.mon with holdoff := 0, state := .suspect } := by rw [hv, changeMon_mon]; rfl
  have htold : v.ch.ctl.monitor = v.ch.mon.state := by rw [hv]; exact changeMon_tells _ _ _
  rw [← hv]
  have hreached' : v.reached env = true := (reached_of_attrs (by rw [hmon])).trans hreached
  by_cases hzero : env.cp.holdoff = 0
  · rw [monitorFailed_due hreached' (Or.inr ⟨by rw [hmon], by rw [hmon, hzero]⟩), if_pos hzero]
    refine ⟨?_, changeMon_tells _ _ _⟩
    rw [changeMon_mon, hmon]
  · have hidle : ¬ (v.ch.mon.state = .recovering ∨ (v.ch.mon.state = .suspect ∧ env.cp.holdoff ≤ v.ch.mon.holdoff)) := by
      rw [hmon]
      rintro (h | ⟨-, h⟩)
      · exact absurd h (by simp)
      · exact hzero (Nat.le_zero.1 h)
    rw [monitorFailed_idle hidle, if_neg hzero]
    exact ⟨hmon, htold⟩

theorem monitorHealthy_due {env : Env} {w : W} (hstate : w.ch.mon.state = .recovering) (hreached : w.reached env = false)
    (hshows : w.shows env = false) (hrun : env.cp.healthyRun ≤ w.ch.mon.healthy) :
    monitorHealthy env w = changeMon env .healthy w := if_pos ⟨hstate, hreached, hshows, hrun⟩

theorem monitorHealthy_idle {env : Env} {w : W} (hrun : ¬ env.cp.healthyRun ≤ w.ch.mon.healthy) : monitorHealthy env w = w :=
  if_neg fun hdue => by obtain ⟨-, -, -, h⟩ := hdue; exact hrun h

/-- RECOVERING with no decisive condition: HEALTHY once the run is long enough. -/
theorem monitorHealthy_mon {env : Env} {w : W} (hstate : w.ch.mon.state = .recovering) (hreached : w.reached env = false)
    (hshows : w.shows env = false) (htold : w.ch.ctl.monitor = w.ch.mon.state) :
    (monitorHealthy env w).ch.mon =
        { w.ch.mon with state := if env.cp.healthyRun ≤ w.ch.mon.healthy then .healthy else .recovering } ∧
      (monitorHealthy env w).ch.ctl.monitor = (monitorHealthy env w).ch.mon.state := by
  by_cases hrun : env.cp.healthyRun ≤ w.ch.mon.healthy
  · rw [monitorHealthy_due hstate hreached hshows hrun, if_pos hrun]
    exact ⟨changeMon_mon _ _ _, changeMon_tells _ _ _⟩
  · rw [monitorHealthy_idle hrun, if_neg hrun, ← hstate]
    exact ⟨rfl, htold⟩

/-! ## An evaluation (R84, R87, R88) -/

/-- What R88 makes of counts that are up to date; `held` when it can be judged neither way. -/
def Attr.judged (p : AttrParam) (held : Bool) (x : Attr) : Attr :=
  let y := if held = false ∧ Attr.raises p x then { x with flag := true } else x
  if held = false ∧ Attr.clears p y then { y with flag := false } else y

theorem judged_counts (p : AttrParam) (held : Bool) (x : Attr) :
    (x.judged p held).run = x.run ∧ (x.judged p held).total = x.total ∧ (x.judged p held).worst = x.worst := by
  unfold Attr.judged
  dsimp only
  split <;> split <;> exact ⟨rfl, rfl, rfl⟩

theorem judged_still {p : AttrParam} {held : Bool} (x : Attr) (h : p.cls ≠ .advisory ∨ held = true) : x.judged p held = x := by
  have hnot : ∀ y : Attr, ¬ (held = false ∧ Attr.raises p y = true) ∧ ¬ (held = false ∧ Attr.clears p y = true) := by
    intro y
    rw [raises_iff, clears_iff]
    rcases h with h | h
    · exact ⟨fun ⟨_, hc, _⟩ => h hc, fun ⟨_, hc, _⟩ => h hc⟩
    · rw [h]; simp
  unfold Attr.judged
  dsimp only
  obtain ⟨hraise, hclear⟩ := hnot x
  rw [if_neg hraise, if_neg hclear]

/-- The flag rises with the run at its threshold and falls with the run at 0. -/
theorem judged_flag {p : AttrParam} (x : Attr) (hcls : p.cls = .advisory) (hthreshold : 1 ≤ p.threshold) :
    (x.judged p false).flag = true ↔ p.threshold ≤ x.run ∨ (x.flag = true ∧ x.run ≠ 0) := by
  unfold Attr.judged
  simp only [true_and, raises_iff, clears_iff, hcls]
  by_cases hrun : p.threshold ≤ x.run
  · have hpos : x.run ≠ 0 := by omega
    cases hflag : x.flag <;> simp [hrun, hpos, hflag]
  · have hsome : p.threshold ≠ 0 := by omega
    cases hflag : x.flag <;> by_cases hzero : x.run = 0 <;> simp [hrun, hflag, hzero, hsome]

/-- The attributes of a list judged, and nothing else of the channel changed. -/
structure Advised (env : Env) (l : List (Fin 8)) (w v : W) : Prop where
  rest : v.ch = { w.ch with mon := { w.ch.mon with attrs := v.ch.mon.attrs } }
  attrs : ∀ j : Fin 8, v.ch.mon.attrs[j] =
    if j ∈ l then w.ch.mon.attrs[j].judged env.cp.attrs[j] (heldNow env j w) else w.ch.mon.attrs[j]

theorem heldNow_congr {env : Env} {v w : W} (h : v.ch.intake = w.ch.intake) (j : Fin 8) : heldNow env j v = heldNow env j w := by
  rw [Bool.eq_iff_iff, heldNow_iff, heldNow_iff, Chan.holdsBack, Chan.holdsBack, h]

theorem setFlag_attrs (i : Fin 8) (b : Bool) (w : W) (j : Fin 8) : (setFlag i b w).ch.mon.attrs[j] =
    if j = i then { w.ch.mon.attrs[i] with flag := b } else w.ch.mon.attrs[j] := by
  show (w.ch.mon.attrs.set i { w.ch.mon.attrs[i] with flag := b })[j] = _
  by_cases h : j = i
  · rw [if_pos h, h]; simp
  · have hval : i.val ≠ j.val := fun he => h (Fin.ext he.symm)
    rw [if_neg h]
    simp [hval]

theorem advisoryRaise_attrs (env : Env) (i j : Fin 8) (w : W) : (advisoryRaise env i w).ch.mon.attrs[j] =
    if j = i ∧ heldNow env i w = false ∧ Attr.raises env.cp.attrs[i] w.ch.mon.attrs[i] = true then
      { w.ch.mon.attrs[i] with flag := true } else w.ch.mon.attrs[j] := by
  unfold advisoryRaise
  by_cases hdue : heldNow env i w = false ∧ Attr.raises env.cp.attrs[i] w.ch.mon.attrs[i] = true
  · rw [if_pos hdue]
    refine (setFlag_attrs i true w j).trans ?_
    simp only [hdue, and_true]
  · rw [if_neg hdue, if_neg fun h => hdue h.2]

theorem advisoryClear_attrs (env : Env) (i j : Fin 8) (w : W) : (advisoryClear env i w).ch.mon.attrs[j] =
    if j = i ∧ heldNow env i w = false ∧ Attr.clears env.cp.attrs[i] w.ch.mon.attrs[i] = true then
      { w.ch.mon.attrs[i] with flag := false } else w.ch.mon.attrs[j] := by
  unfold advisoryClear
  by_cases hdue : heldNow env i w = false ∧ Attr.clears env.cp.attrs[i] w.ch.mon.attrs[i] = true
  · rw [if_pos hdue]
    refine (setFlag_attrs i false w j).trans ?_
    simp only [hdue, and_true]
  · rw [if_neg hdue, if_neg fun h => hdue h.2]

theorem advisoryRaise_ch (env : Env) (i : Fin 8) (w : W) : (advisoryRaise env i w).ch =
    { w.ch with mon := { w.ch.mon with attrs := (advisoryRaise env i w).ch.mon.attrs } } := by
  unfold advisoryRaise
  split <;> rfl

theorem advisoryClear_ch (env : Env) (i : Fin 8) (w : W) : (advisoryClear env i w).ch =
    { w.ch with mon := { w.ch.mon with attrs := (advisoryClear env i w).ch.mon.attrs } } := by
  unfold advisoryClear
  split <;> rfl

/-- One of the eight judged. -/
theorem advised_one (env : Env) (i : Fin 8) (w : W) : Advised env [i] w (advisoryClear env i (advisoryRaise env i w)) := by
  obtain ⟨u, hu⟩ : ∃ u, u = advisoryRaise env i w := ⟨_, rfl⟩
  have hch := advisoryRaise_ch env i w
  have hattrs := fun j => advisoryRaise_attrs env i j w
  rw [← hu] at hch ⊢
  have hheld : heldNow env i u = heldNow env i w := heldNow_congr (by rw [hch]) i
  refine ⟨?_, fun j => ?_⟩
  · have hclear := advisoryClear_ch env i u
    rw [hclear, hch]
  · rw [advisoryClear_attrs, hheld]
    by_cases hji : j = i
    · subst hji
      have hself := hattrs j
      rw [← hu] at hself
      simp only [true_and] at hself
      rw [if_pos (List.mem_singleton.2 rfl), Attr.judged, ← hself]
      simp only [true_and]
    · have hother := hattrs j
      rw [← hu, if_neg (fun h => hji h.1)] at hother
      rw [if_neg (fun h => hji h.1), if_neg (fun h => hji (List.mem_singleton.1 h)), hother]

theorem advised_fold (env : Env) (l : List (Fin 8)) (hl : l.Nodup) (w : W) :
    Advised env l w (l.foldl (fun w i => advisoryClear env i (advisoryRaise env i w)) w) := by
  induction l generalizing w with
  | nil => exact ⟨rfl, fun j => (if_neg (List.not_mem_nil)).symm⟩
  | cons i l ih =>
    obtain ⟨hi, hl'⟩ := List.nodup_cons.1 hl
    have hone := advised_one env i w
    obtain ⟨u, hu⟩ : ∃ u, u = advisoryClear env i (advisoryRaise env i w) := ⟨_, rfl⟩
    rw [← hu] at hone
    have htail := ih hl' u
    rw [List.foldl_cons, ← hu]
    refine ⟨?_, fun j => ?_⟩
    · have h1 := htail.rest
      rw [hone.rest] at h1
      exact h1
    · have hintake : u.ch.intake = w.ch.intake := by rw [hone.rest]
      rw [htail.attrs j, hone.attrs j, heldNow_congr hintake]
      by_cases hji : j = i
      · subst hji
        simp [hi]
      · simp [hji]

/-- The counts of a period (R87). -/
theorem countPeriod_attrs (env : Env) (bad : Bool) (w : W) (j : Fin 8) :
    (countPeriod env bad w).ch.mon.attrs[j] = w.ch.mon.attrs[j].update (condition env w.ch bad j.val) := by
  show (Vector.ofFn fun i : Fin 8 => w.ch.mon.attrs[i].update (condition env w.ch bad i.val))[j] = _
  simp

/-- The attributes of a period counted and judged, before the tests of the state. -/
def judgedPeriod (env : Env) (bad : Bool) (w : W) : W :=
  (List.finRange 8).foldl (fun w i => advisoryClear env i (advisoryRaise env i w)) (countPeriod env bad w)

theorem evaluate_eq (env : Env) (bad : Bool) (w : W) : evaluate env bad w = stateTests env (judgedPeriod env bad w) := rfl

theorem judgedPeriod_advised (env : Env) (bad : Bool) (w : W) :
    Advised env (List.finRange 8) (countPeriod env bad w) (judgedPeriod env bad w) :=
  advised_fold env _ (List.nodup_finRange 8) _

theorem judgedPeriod_attrs (env : Env) (bad : Bool) (w : W) (j : Fin 8) : (judgedPeriod env bad w).ch.mon.attrs[j] =
    (w.ch.mon.attrs[j].update (condition env w.ch bad j.val)).judged env.cp.attrs[j] (heldNow env j w) := by
  rw [(judgedPeriod_advised env bad w).attrs j, if_pos (List.mem_finRange j), countPeriod_attrs,
    heldNow_congr (v := countPeriod env bad w) (w := w) rfl]

/-- The runs decide what the tests of the state see. -/
theorem reached_of_runs {env : Env} {v w : W} (h : ∀ j : Fin 8, v.ch.mon.attrs[j].run = w.ch.mon.attrs[j].run) :
    v.reached env = w.reached env ∧ v.shows env = w.shows env := by
  have hreached : ∀ j : Fin 8, Attr.reached env.cp.attrs[j] v.ch.mon.attrs[j] = Attr.reached env.cp.attrs[j] w.ch.mon.attrs[j] :=
    fun j => by rw [Attr.reached, Attr.reached, h j]
  have hshows : ∀ j : Fin 8, Attr.shows env.cp.attrs[j] v.ch.mon.attrs[j] = Attr.shows env.cp.attrs[j] w.ch.mon.attrs[j] :=
    fun j => by rw [Attr.shows, Attr.shows, h j]
  simp only [W.reached, W.shows, anyReached, anyShows, hreached, hshows, and_self]

/-- What the tests of the state find after the counts and the advisories. -/
theorem judgedPeriod_facts (env : Env) (bad : Bool) (w : W) :
    (judgedPeriod env bad w).ch.mon.state = w.ch.mon.state ∧ (judgedPeriod env bad w).ch.mon.holdoff = w.ch.mon.holdoff ∧
      (judgedPeriod env bad w).ch.mon.healthy = w.ch.mon.healthy ∧ (judgedPeriod env bad w).ch.ctl = w.ch.ctl ∧
      (judgedPeriod env bad w).ch.intake = w.ch.intake ∧
      (judgedPeriod env bad w).reached env = (countPeriod env bad w).reached env ∧
      (judgedPeriod env bad w).shows env = (countPeriod env bad w).shows env := by
  have hch := (judgedPeriod_advised env bad w).rest
  obtain ⟨hreached, hshows⟩ := reached_of_runs (env := env) (v := judgedPeriod env bad w) (w := countPeriod env bad w) fun j => by
    rw [judgedPeriod_attrs, countPeriod_attrs]
    exact (judged_counts _ _ _).1
  refine ⟨?_, ?_, ?_, ?_, ?_, hreached, hshows⟩ <;> (rw [hch]; rfl)

/-! ### The tests of the state -/

theorem monitorFailed_attrs (env : Env) (w : W) : (monitorFailed env w).ch.mon.attrs = w.ch.mon.attrs := by
  unfold monitorFailed
  split <;> [rw [changeMon_mon]; rfl]

theorem monitorSuspect_attrs (env : Env) (w : W) : (monitorSuspect env w).ch.mon.attrs = w.ch.mon.attrs := by
  unfold monitorSuspect
  split <;> [(dsimp only; rw [monitorFailed_attrs, changeMon_mon]; rfl); rfl]

theorem monitorHealthy_attrs (env : Env) (w : W) : (monitorHealthy env w).ch.mon.attrs = w.ch.mon.attrs := by
  unfold monitorHealthy
  split <;> [rw [changeMon_mon]; rfl]

theorem stateTests_attrs (env : Env) (w : W) : (stateTests env w).ch.mon.attrs = w.ch.mon.attrs := by
  unfold stateTests
  split
  · split <;> [rw [monitorSuspect_attrs, changeMon_mon]; rfl]
  · exact monitorSuspect_attrs env w
  · split <;> [rw [changeMon_mon]; (rw [monitorFailed_attrs]; rfl)]
  · split <;> [rfl; (rw [monitorHealthy_attrs, changeMon_mon]; rfl)]
  · split <;> [exact monitorFailed_attrs env w; (split <;> [rfl; (rw [monitorHealthy_attrs]; rfl)])]

/-- The Channel Controller knows the monitor's state. -/
def W.knows (w : W) : Prop := w.ch.ctl.monitor = w.ch.mon.state

theorem monitorFailed_knows {env : Env} {w : W} (h : w.knows) : (monitorFailed env w).knows := by
  unfold monitorFailed
  split <;> [exact changeMon_tells _ _ _; exact h]

theorem monitorSuspect_knows {env : Env} {w : W} (h : w.knows) : (monitorSuspect env w).knows := by
  unfold monitorSuspect
  split <;> [exact monitorFailed_knows (changeMon_tells _ _ _); exact h]

theorem monitorHealthy_knows {env : Env} {w : W} (h : w.knows) : (monitorHealthy env w).knows := by
  unfold monitorHealthy
  split <;> [exact changeMon_tells _ _ _; exact h]

theorem stateTests_knows {env : Env} {w : W} (h : w.knows) : (stateTests env w).knows := by
  unfold stateTests
  split
  · split <;> [exact monitorSuspect_knows (changeMon_tells _ _ _); exact h]
  · exact monitorSuspect_knows h
  · split <;> [exact changeMon_tells _ _ _; exact monitorFailed_knows h]
  · split <;> [exact h; exact monitorHealthy_knows (changeMon_tells _ _ _)]
  · split <;> [exact monitorFailed_knows h; (split <;> [exact h; exact monitorHealthy_knows h])]

/-- STARTING leaves with the first MAIN frame (R90). -/
theorem stateTests_starting {env : Env} {w : W} (h : w.ch.mon.state = .starting) : stateTests env w =
    if w.ch.intake.takeMain.isSome then monitorSuspect env (changeMon env .healthy w) else w := by
  unfold stateTests
  rw [h]

theorem stateTests_healthy {env : Env} {w : W} (h : w.ch.mon.state = .healthy) : stateTests env w = monitorSuspect env w := by
  unfold stateTests
  rw [h]

theorem stateTests_suspect {env : Env} {w : W} (h : w.ch.mon.state = .suspect) : stateTests env w =
    if w.reached env = false then changeMon env .healthy w
    else monitorFailed env (w.modMon fun m => { m with holdoff := min 1000 (m.holdoff + 1) }) := by
  unfold stateTests
  rw [h]

theorem stateTests_failed {env : Env} {w : W} (h : w.ch.mon.state = .failed) : stateTests env w =
    if w.shows env then w
    else monitorHealthy env (changeMon env .recovering (w.modMon fun m => { m with healthy := 1 })) := by
  unfold stateTests
  rw [h]

theorem stateTests_recovering {env : Env} {w : W} (h : w.ch.mon.state = .recovering) : stateTests env w =
    if w.reached env then monitorFailed env w
    else if w.shows env then w.modMon fun m => { m with healthy := 0 }
    else monitorHealthy env (w.modMon fun m => { m with healthy := sat16 m.healthy }) := by
  unfold stateTests
  rw [h]

theorem sat16_eq (n : Nat) : sat16 n = min 65535 (n + 1) := by
  unfold sat16
  rw [show two16 = 65536 from rfl]
  split <;> omega

theorem sat32_eq (n : Nat) : sat32 n = min 4294967295 (n + 1) := by
  unfold sat32
  rw [show two32 = 4294967296 from rfl]
  split <;> omega

/-- What an evaluation's tests make of each state (R90 to R92). -/
structure Tested (env : Env) (m n : Monitor) (taken r d : Bool) : Prop where
  waiting : m.state = .starting → taken = false → n.state = .starting
  arrived : m.state = .starting → taken = true → r = false → n.state = .healthy
  suspect : (m.state = .starting ∧ taken = true) ∨ m.state = .healthy → r = true →
    n.state = (if env.cp.holdoff = 0 then .failed else .suspect) ∧ n.holdoff = 0
  healthy : m.state = .healthy → r = false → n.state = .healthy
  back : m.state = .suspect → r = false → n.state = .healthy
  holding : m.state = .suspect → r = true → n.holdoff = min 1000 (m.holdoff + 1) ∧
    n.state = (if env.cp.holdoff ≤ n.holdoff then .failed else .suspect)
  failed : m.state = .failed → d = true → n.state = .failed
  recovers : m.state = .failed → d = false → r = false →
    n.healthy = 1 ∧ n.state = (if env.cp.healthyRun ≤ 1 then .healthy else .recovering)
  fails : m.state = .recovering → r = true → n.state = .failed
  shown : m.state = .recovering → r = false → d = true → n.state = .recovering ∧ n.healthy = 0
  running : m.state = .recovering → r = false → d = false → n.healthy = min 65535 (m.healthy + 1) ∧
    n.state = (if env.cp.healthyRun ≤ n.healthy then .healthy else .recovering)

theorem monitorFailed_mon {env : Env} {w : W} (hreached : w.reached env = true) (hstate : w.ch.mon.state = .suspect) :
    (monitorFailed env w).ch.mon = { w.ch.mon with state := if env.cp.holdoff ≤ w.ch.mon.holdoff then .failed else .suspect } := by
  by_cases hdue : env.cp.holdoff ≤ w.ch.mon.holdoff
  · rw [monitorFailed_due hreached (Or.inr ⟨hstate, hdue⟩), changeMon_mon, if_pos hdue]
  · have hidle : ¬ (w.ch.mon.state = .recovering ∨ (w.ch.mon.state = .suspect ∧ env.cp.holdoff ≤ w.ch.mon.holdoff)) := by
      rw [hstate]
      simp [hdue]
    rw [monitorFailed_idle hidle, if_neg hdue, ← hstate]

theorem stateTests_tested (env : Env) (w : W) :
    Tested env w.ch.mon (stateTests env w).ch.mon w.ch.intake.takeMain.isSome (w.reached env) (w.shows env) := by
  have harrived : (changeMon env .healthy w).ch.mon = { w.ch.mon with state := .healthy } := changeMon_mon _ _ _
  have hreached' : (changeMon env .healthy w).reached env = w.reached env := reached_of_attrs (by rw [harrived])
  refine { waiting := fun h ht => ?_, arrived := fun h ht hr => ?_, suspect := fun h hr => ?_, healthy := fun h hr => ?_
           back := fun h hr => ?_, holding := fun h hr => ?_, failed := fun h hd => ?_, recovers := fun h hd hr => ?_
           fails := fun h hr => ?_, shown := fun h hr hd => ?_, running := fun h hr hd => ?_ }
  · rw [stateTests_starting h, if_neg (by rw [ht]; decide)]; exact h
  · rw [stateTests_starting h, if_pos ht, monitorSuspect_idle (Or.inr (hreached'.trans hr)), harrived]
  · rcases h with ⟨h, ht⟩ | h
    · obtain ⟨hmon, -⟩ := monitorSuspect_mon (w := changeMon env .healthy w) (by rw [harrived]) (hreached'.trans hr)
      rw [stateTests_starting h, if_pos ht, hmon]
      exact ⟨rfl, rfl⟩
    · obtain ⟨hmon, -⟩ := monitorSuspect_mon h hr
      rw [stateTests_healthy h, hmon]
      exact ⟨rfl, rfl⟩
  · rw [stateTests_healthy h, monitorSuspect_idle (Or.inr hr)]; exact h
  · rw [stateTests_suspect h, if_pos hr, harrived]
  · obtain ⟨u, hu⟩ : ∃ u, u = w.modMon fun m => { m with holdoff := min 1000 (m.holdoff + 1) } := ⟨_, rfl⟩
    have hmon : u.ch.mon = { w.ch.mon with holdoff := min 1000 (w.ch.mon.holdoff + 1) } := by rw [hu]; rfl
    rw [stateTests_suspect h, if_neg (by rw [hr]; decide), ← hu,
      monitorFailed_mon ((reached_of_attrs (by rw [hmon])).trans hr) (by rw [hmon]; exact h), hmon]
    exact ⟨rfl, rfl⟩
  · rw [stateTests_failed h, if_pos hd]; exact h
  · obtain ⟨u, hu⟩ : ∃ u, u = changeMon env .recovering (w.modMon fun m => { m with healthy := 1 }) := ⟨_, rfl⟩
    have hmon : u.ch.mon = { w.ch.mon with healthy := 1, state := .recovering } := by rw [hu, changeMon_mon]; rfl
    have hknows : u.ch.ctl.monitor = u.ch.mon.state := by rw [hu]; exact changeMon_tells _ _ _
    obtain ⟨hmon', -⟩ := monitorHealthy_mon (env := env) (w := u) (by rw [hmon])
      ((reached_of_attrs (by rw [hmon])).trans hr) ((shows_of_attrs (by rw [hmon])).trans hd) hknows
    rw [stateTests_failed h, if_neg (by rw [hd]; decide), ← hu, hmon', hmon]
    exact ⟨rfl, rfl⟩
  · rw [stateTests_recovering h, if_pos hr, monitorFailed_due hr (Or.inl h), changeMon_mon]
  · rw [stateTests_recovering h, if_neg (by rw [hr]; decide), if_pos hd]
    exact ⟨h, rfl⟩
  · rw [stateTests_recovering h, if_neg (by rw [hr]; decide), if_neg (by rw [hd]; decide)]
    obtain ⟨u, hu⟩ : ∃ u, u = w.modMon fun m => { m with healthy := sat16 m.healthy } := ⟨_, rfl⟩
    have hmon : u.ch.mon = { w.ch.mon with healthy := min 65535 (w.ch.mon.healthy + 1) } := by
      rw [hu, ← sat16_eq]; rfl
    have hstate : u.ch.mon.state = .recovering := by rw [hmon]; exact h
    rw [← hu]
    by_cases hrun : env.cp.healthyRun ≤ u.ch.mon.healthy
    · rw [monitorHealthy_due hstate ((reached_of_attrs (by rw [hmon])).trans hr) ((shows_of_attrs (by rw [hmon])).trans hd) hrun,
        changeMon_mon]
      exact ⟨by rw [hmon], (if_pos hrun).symm⟩
    · rw [monitorHealthy_idle hrun, if_neg hrun]
      exact ⟨by rw [hmon], hstate⟩

/-! ## The statements -/

/-- A command that changes the monitor's state, as the third clause of O22 reads it. -/
theorem monitor_event {c : Ch} {i : Instr} {op : Env → W → W} {s : State} (hexec : exec i s = .next (live (runCh c op) s))
    (hpow : s.powered = true) (hrest : (ranCh c op s).rest = (begun s c).rest) :
    ∃ t, exec i s = .next t ∧ Within c s t ∧ t.chans[c] = (ranCh c op s).ch :=
  ⟨_, hexec.trans (congrArg Host.Outcome.next (live_on hpow)), within_runCh hrest, runCh_here _ _ _⟩

theorem monitorEvents_change (c : Ch) (m : Monitor) (s : State) (hpow : s.powered = true) (hm : m = s.chans[c].mon) :
    (m.state = .healthy → DecisiveReached s c →
      ∃ t, exec (.monitorSuspect c) s = .next t ∧ Within c s t ∧ t.chans[c].mon.holdoff = 0 ∧ t.chans[c].mon.attrs = m.attrs ∧
        t.chans[c].mon.state = (if s.params.chans[c].holdoff = 0 then .failed else .suspect) ∧
        t.chans[c].ctl.monitor = t.chans[c].mon.state) ∧
    (DecisiveReached s c → m.state = .recovering ∨ (m.state = .suspect ∧ s.params.chans[c].holdoff ≤ m.holdoff) →
      ∃ t, exec (.monitorFailed c) s = .next t ∧ Within c s t ∧ t.chans[c].mon = { m with state := .failed } ∧
        t.chans[c].ctl.monitor = .failed) ∧
    (m.state = .recovering → ¬ DecisiveReached s c → ¬ DecisiveShows s c → s.params.chans[c].healthyRun ≤ m.healthy →
      ∃ t, exec (.monitorHealthy c) s = .next t ∧ Within c s t ∧ t.chans[c].mon = { m with state := .healthy } ∧
        t.chans[c].ctl.monitor = .healthy) := by
  subst hm
  refine ⟨fun hstate hreached => ?_, fun hreached hstate => ?_, fun hstate hreached hshows hrun => ?_⟩
  · obtain ⟨hmon, hknows⟩ := monitorSuspect_mon (env := envOf s c) (w := begun s c) hstate (begun_reached.2 hreached)
    obtain ⟨t, ht, hwithin, hch⟩ := monitor_event (c := c) (i := .monitorSuspect c) (op := monitorSuspect) rfl hpow
      (monitorSuspect_rest (envOf s c) (begun s c))
    refine ⟨t, ht, hwithin, ?_⟩
    rw [hch, ranCh, hknows, hmon]
    exact ⟨rfl, rfl, rfl, rfl⟩
  · have hdue := monitorFailed_due (env := envOf s c) (w := begun s c) (begun_reached.2 hreached) hstate
    obtain ⟨t, ht, hwithin, hch⟩ := monitor_event (c := c) (i := .monitorFailed c) (op := monitorFailed) rfl hpow
      (monitorFailed_rest (envOf s c) (begun s c))
    refine ⟨t, ht, hwithin, ?_⟩
    rw [hch, ranCh, hdue, changeMon_tells, changeMon_mon]
    exact ⟨rfl, rfl⟩
  · have hdue := monitorHealthy_due (env := envOf s c) (w := begun s c) hstate
      (by rw [← Bool.not_eq_true, begun_reached]; exact hreached) (by rw [← Bool.not_eq_true, begun_shows]; exact hshows) hrun
    obtain ⟨t, ht, hwithin, hch⟩ := monitor_event (c := c) (i := .monitorHealthy c) (op := monitorHealthy) rfl hpow
      (monitorHealthy_rest (envOf s c) (begun s c))
    refine ⟨t, ht, hwithin, ?_⟩
    rw [hch, ranCh, hdue, changeMon_tells, changeMon_mon]
    exact ⟨rfl, rfl⟩

theorem divergence_eq (l : List Event) (p : PosStamp) : condOf (divergence l p) = (match lookupId p.event l with
    | some e => if effLen e ≤ p.offset then .holds else .lacks
    | none => .holds) := by
  unfold divergence
  cases lookupId p.event l with
  | none => rfl
  | some e => exact condOf_decide _

/-- The table of the conditions (R85, R86). -/
theorem conditions_table (env : Env) (x : Chan) (bad : Bool) : (condition env x bad 6 = .holds ↔ env.expired = true) ∧
    (condition env x bad 7 = .holds ↔ bad = true) ∧ condition env x bad 6 ≠ .held ∧ condition env x bad 7 ≠ .held ∧
    (x.intake.takeMain = none → condition env x bad 0 = .holds ∧ condition env x bad 1 = .held ∧ condition env x bad 2 = .held ∧
      condition env x bad 3 = .held ∧ condition env x bad 4 = .lacks ∧ condition env x bad 5 = .held) ∧
    ∀ f, x.intake.takeMain = some f → condition env x bad 0 = .lacks ∧
      condition env x bad 1 = (if lumaMean f.sums < env.part.blackLevel then .holds else .lacks) ∧
      condition env x bad 2 = (if x.mon.prevSig = some f.sums.signature then .holds else .lacks) ∧
      condition env x bad 3 = (if f.sums.peak < env.part.silenceLevel then .holds else .lacks) ∧
      condition env x bad 4 = (if f.hdr.stamp = none then .holds else .lacks) ∧
      (f.hdr.stamp = none → condition env x bad 5 = .held) ∧
      ∀ p, f.hdr.stamp = some p → condition env x bad 5 = (match lookupId p.event x.store.current with
        | some e => if effLen e ≤ p.offset then .holds else .lacks
        | none => .holds) := by
  obtain ⟨hsix, hseven⟩ := condition_part env x bad
  rw [hsix, hseven, condOf_holds, condOf_holds]
  refine ⟨Iff.rfl, Iff.rfl, condOf_ne_held _, condOf_ne_held _, fun h => condition_lost h env bad, fun f h => ?_⟩
  obtain ⟨h0, h1, h2, h3, h4, h5, h5'⟩ := condition_taken h env bad
  refine ⟨h0, h1.trans (condOf_decide _), h2.trans (condOf_decide _), h3.trans (condOf_decide _), h4.trans ?_, h5,
    fun p hp => (h5' p hp).trans (divergence_eq _ p)⟩
  cases f.hdr.stamp <;> simp [condOf]

/-- One of the eight before and after an evaluation (R87, R88). -/
theorem evaluate_attr (env : Env) (bad : Bool) (w : W) (a : Fin 8) (x y : Attr) (k : Cond) (p : AttrParam)
    (hx : x = w.ch.mon.attrs[a]) (hy : y = (evaluate env bad w).ch.mon.attrs[a]) (hk : k = condition env w.ch bad a.val)
    (hp : p = env.cp.attrs[a]) :
    (k = .holds → y.run = min 65535 (x.run + 1) ∧ y.total = min 4294967295 (x.total + 1)) ∧
    (k = .lacks → y.run = 0 ∧ y.total = x.total) ∧ (k = .held → y.run = x.run ∧ y.total = x.total) ∧
    y.worst = max x.worst y.run ∧ (p.cls ≠ .advisory ∨ k = .held → y.flag = x.flag) ∧
    (p.cls = .advisory → 1 ≤ p.threshold → k ≠ .held → (y.flag = true ↔ p.threshold ≤ y.run ∨ (x.flag = true ∧ y.run ≠ 0))) := by
  have hheld : heldNow env a w = decide (k = .held) := by
    rw [Bool.eq_iff_iff, heldNow_iff, decide_eq_true_iff, hk, condition_held_iff]
  have hjudged : y = (x.update k).judged p (decide (k = .held)) := by
    rw [hy, evaluate_eq, stateTests_attrs, judgedPeriod_attrs, hheld, hx, hk, hp]
  obtain ⟨hrun, htotal, hworst⟩ := judged_counts p (decide (k = .held)) (x.update k)
  rw [← hjudged] at hrun htotal hworst
  have hupdate : (x.update k).flag = x.flag ∧ (x.update k).worst = max x.worst (x.update k).run := ⟨rfl, rfl⟩
  obtain ⟨hflag, hmax⟩ := hupdate
  refine ⟨fun h => ?_, fun h => ?_, fun h => ?_, by rw [hworst, hmax, hrun], fun h => ?_, fun hcls hthreshold h => ?_⟩
  · rw [hrun, htotal, h]; exact ⟨sat16_eq _, sat32_eq _⟩
  · rw [hrun, htotal, h]; exact ⟨rfl, rfl⟩
  · rw [hrun, htotal, h]; exact ⟨rfl, rfl⟩
  · rw [hjudged, judged_still _ (h.imp_right decide_eq_true)]; exact hflag
  · rw [decide_eq_false h] at hjudged
    rw [hrun, ← hflag]
    rw [hjudged]
    exact judged_flag _ hcls hthreshold

/-- Settles O22, clause by clause. -/
theorem theMonitorRaisesAdvisoriesAndChangesState : Obligations.TheMonitorRaisesAdvisoriesAndChangesState := by
  unfold Obligations.TheMonitorRaisesAdvisoriesAndChangesState
  refine ⟨advisoryRaised_once, monitorEvents_change, fun env bad w => rfl,
    ⟨fun env bad w => rfl, fun env w => rfl, fun env w => rfl, fun env w v hv => ?_⟩, conditions_table,
    fun env bad w v a x y k p hv hx hy hk hp => evaluate_attr env bad w a x y k p hx (hv ▸ hy) hk hp,
    fun env bad w v m n r d hv hm hn hr hd => ?_⟩
  · subst hv
    obtain ⟨hair, hplayers⟩ := chanTick_counts env w
    obtain ⟨hnone, hopen, hgiven⟩ := chanTick_refresh env w
    refine ⟨hair, hnone, hopen, hgiven, fun p x y hx hy => ?_⟩
    rw [hplayers p, ← hx] at hy
    subst hy
    refine ⟨⟨rfl, rfl, rfl, rfl⟩, rfl, fun h => by simp [Player.tick, h], fun f hf => ⟨f.tick env.now, by simp [Player.tick, hf], ?_⟩⟩
    obtain ⟨hage, hstop⟩ := Flight.tick_counts env.now f
    exact ⟨rfl, rfl, rfl, rfl, hage, hstop⟩
  · have hfacts := judgedPeriod_facts env bad w
    have htested := stateTests_tested env (judgedPeriod env bad w)
    have hknows : w.ch.ctl.monitor = m.state → v.ch.ctl.monitor = n.state := by
      intro h
      rw [hn, hv, evaluate_eq]
      refine stateTests_knows ?_
      obtain ⟨hstate, -, -, hctl, -⟩ := hfacts
      unfold W.knows
      rw [hctl, hstate, h, hm]
    rw [← evaluate_eq, ← hv, ← hn] at htested
    obtain ⟨u, hu⟩ : ∃ u, u = judgedPeriod env bad w := ⟨_, rfl⟩
    rw [← hu] at hfacts htested
    obtain ⟨hstate, hholdoff, hhealthy, -, hintake, hreached, hshows⟩ := hfacts
    rw [← hm] at hstate hholdoff hhealthy
    rw [hreached, ← hr, hshows, ← hd, hintake] at htested
    obtain ⟨t1, t2, t3, t4, t5, t6, t7, t8, t9, t10, t11⟩ := htested
    rw [hstate] at t1 t2 t3 t4 t5 t6 t7 t8 t9 t10 t11
    rw [hholdoff] at t6
    rw [hhealthy] at t11
    exact ⟨hknows, fun h ht => t1 h (by rw [ht]; rfl), t2, t3, t4, t5, t6, t7, t8, t9, t10, t11⟩

/-! ## How a change moves the channel (R91, R94, R132, R133, R144) -/

theorem told_rule (after : MonState) (w : W) : (w.told after).rule =
    (w.ch.ctl.mode, w.ch.ctl.switch, w.ch.ctl.ctx, after, w.ch.ctl.pendingBreak, w.ch.ctl.resume, w.ch.ctl.expiry) := rfl

/-- A change of the monitor's state: the notice, then what the Channel Controller does. -/
theorem changeMon_announced (env : Env) (after : MonState) (w : W) : ∃ u,
    changeMon env after w = monitorChanged env w.ch.mon.state after u ∧ u.ch = { w.ch with mon := { w.ch.mon with state := after } } :=
  ⟨_, rfl, rfl⟩

/-- What a change into FAILED makes of a channel in MIRROR or JOINING. -/
structure FailedMoves (env : Env) (w v : W) : Prop where
  mon : v.ch.mon.state = .failed
  known : v.ch.ctl.monitor = .failed
  auto : w.mode = .mirror → env.cp.policy = .auto → v.ch.ctl.mode = .joining ∧
    v.ch.ctl.switch = some { kind := .takeover, cause := .auto, force := true, target :=
      if env.cp.standby = .hot ∧ w.ch.seq.shadow = true then env.now + 1 else env.now + env.cp.lead }
  manual : w.mode = .mirror → env.cp.policy = .manual → v.ch.ctl.mode = .mirror ∧ v.ch.ctl.switch = w.ch.ctl.switch
  joining : ∀ x, w.mode = .joining → w.ch.ctl.switch = some x → ∃ y, v.ch.ctl.mode = .joining ∧
    v.ch.ctl.switch = some y ∧ y.force = true ∧ y.target = min x.target (env.now + env.cp.lead)

/-- Only the mode, the switch and the shadow flag of the channel before the change matter. -/
theorem FailedMoves.of_ch {env : Env} {w u v : W} (hsame : w.mode = .mirror ∨ w.mode = .joining →
    u.mode = w.mode ∧ u.ch.ctl.switch = w.ch.ctl.switch ∧ u.ch.seq = w.ch.seq) (h : FailedMoves env u v) : FailedMoves env w v := by
  refine { mon := h.mon, known := h.known, auto := fun hmode hpolicy => ?_, manual := fun hmode hpolicy => ?_
           joining := fun x hmode hswitch => ?_ }
  · obtain ⟨hm, -, hseq⟩ := hsame (Or.inl hmode)
    rw [← hseq]
    exact h.auto (hm.trans hmode) hpolicy
  · obtain ⟨hm, hs, -⟩ := hsame (Or.inl hmode)
    rw [← hs]
    exact h.manual (hm.trans hmode) hpolicy
  · obtain ⟨hm, hs, -⟩ := hsame (Or.inr hmode)
    exact h.joining x (hm.trans hmode) (hs.trans hswitch)

theorem monitorChanged_failed (env : Env) (before : MonState) (w : W) (hmon : w.ch.mon.state = .failed) :
    FailedMoves env w (monitorChanged env before .failed w) := by
  refine { mon := by rw [monitorChanged_mon]; exact hmon, known := monitorChanged_tells _ _ _ _
           auto := fun hmode hpolicy => ?_, manual := fun hmode hpolicy => ?_, joining := fun x hmode hswitch => ?_ }
  · rw [monitorChanged_auto hmode hpolicy]
    obtain ⟨hmode', hswitch, -⟩ := rule_ctl (autoTakeover_rule env (w.told .failed))
    exact ⟨hmode', hswitch⟩
  · rw [monitorChanged_unmoved (fun h => absurd (hmode.symm.trans h) (by decide))
      (fun _ ⟨_, h⟩ => by rw [hpolicy] at h; exact absurd h (by decide)) fun h => absurd (hmode.symm.trans h) (by decide)]
    exact ⟨hmode, rfl⟩
  · rw [monitorChanged_joining hmode]
    obtain ⟨y, hrule, -, hforce, htarget⟩ := failureJoin_rule env (w.told .failed) x hswitch
    obtain ⟨hmode', hswitch', -⟩ := rule_ctl hrule
    exact ⟨y, hmode'.trans hmode, hswitch', hforce, htarget⟩

theorem changeMon_failed (env : Env) (w : W) : FailedMoves env w (changeMon env .failed w) := by
  obtain ⟨u, hu, hch⟩ := changeMon_announced env .failed w
  rw [hu]
  exact (monitorChanged_failed env _ u (by rw [hch])).of_ch fun _ => ⟨by rw [W.mode, hch, W.mode], by rw [hch], by rw [hch]⟩

/-- A change that moves no channel: the controller hears of it. -/
theorem changeMon_unmoved {env : Env} {after : MonState} {w : W} (hreturning : w.mode = .returning →
      ¬ (w.ch.mon.state = .healthy ∧ after ≠ .healthy ∧ (w.ch.ctl.switch.any fun x => !x.force) = true))
    (hafter : w.mode = .mirror ∨ w.mode = .joining → after ≠ .failed) :
    (changeMon env after w).ch.ctl = { w.ch.ctl with monitor := after } ∧ (changeMon env after w).ch.seq = w.ch.seq := by
  obtain ⟨u, hu, hch⟩ := changeMon_announced env after w
  have hmode : u.mode = w.mode := by rw [W.mode, hch, W.mode]
  have hswitch : u.ch.ctl.switch = w.ch.ctl.switch := by rw [hch]
  have hplain := monitorChanged_unmoved (env := env) (before := w.ch.mon.state) (after := after) (w := u)
    (by rw [hmode, hswitch]; exact hreturning) (by rw [hmode]; exact fun h ⟨h', _⟩ => hafter (Or.inl h) h')
    (by rw [hmode]; exact fun h => hafter (Or.inr h))
  rw [hu, hplain]
  exact ⟨by rw [W.told, W.modCtl, W.modCh, hch], by rw [W.told, W.modCtl, W.modCh, hch]⟩

/-- HEALTHY goes to FAILED at once with the holdoff at 0. -/
theorem monitorSuspect_failed {env : Env} {w : W} (hstate : w.ch.mon.state = .healthy) (hreached : w.reached env = true)
    (hzero : env.cp.holdoff = 0) : ∃ u, monitorSuspect env w = changeMon env .failed u ∧
      u = changeMon env .suspect (w.modMon fun m => { m with holdoff := 0 }) := by
  refine ⟨_, (monitorSuspect_due hstate hreached).trans (monitorFailed_due ?_ (Or.inr ⟨?_, ?_⟩)), rfl⟩
  · exact (reached_of_attrs (by rw [changeMon_mon]; rfl)).trans hreached
  · rw [changeMon_mon]
  · rw [changeMon_mon, hzero]; exact Nat.zero_le _

theorem monitorSuspect_failedMoves {env : Env} {w : W} (hstate : w.ch.mon.state = .healthy) (hreached : w.reached env = true)
    (hzero : env.cp.holdoff = 0) : FailedMoves env w (monitorSuspect env w) := by
  obtain ⟨u, hfailed, hu⟩ := monitorSuspect_failed hstate hreached hzero
  rw [hfailed]
  refine (changeMon_failed env u).of_ch fun hmode => ?_
  obtain ⟨hctl, hseq⟩ := changeMon_unmoved (env := env) (after := .suspect) (w := w.modMon fun m => { m with holdoff := 0 })
    (fun h => by rcases hmode with h' | h' <;> exact absurd (h'.symm.trans h) (by decide)) fun _ => by decide
  rw [← hu] at hctl hseq
  exact ⟨by rw [W.mode, hctl]; rfl, by rw [hctl]; rfl, hseq⟩

/-- A channel that no change into FAILED moves keeps its mode and switch. -/
theorem monitorFailed_unmoved {env : Env} {w : W} (hmode : w.mode = .takeover ∨ (w.mode = .returning ∧ w.ch.mon.state ≠ .healthy)) :
    (monitorFailed env w).ch.ctl.mode = w.ch.ctl.mode ∧ (monitorFailed env w).ch.ctl.switch = w.ch.ctl.switch := by
  unfold monitorFailed
  split
  · obtain ⟨hctl, -⟩ := changeMon_unmoved (env := env) (after := .failed) (w := w)
      (fun h ⟨hs, _⟩ => by
        rcases hmode with h' | ⟨-, h'⟩
        · exact absurd (h'.symm.trans h) (by decide)
        · exact h' hs)
      (fun h => by rcases hmode with h' | ⟨h', -⟩ <;> rcases h with h | h <;> exact absurd (h'.symm.trans h) (by decide))
    rw [hctl]
    exact ⟨rfl, rfl⟩
  · exact ⟨rfl, rfl⟩

/-- A change out of HEALTHY in RETURNING: a handback that is not forced is cancelled (R144). -/
theorem monitorSuspect_returning {env : Env} {w : W} {x : Switch} (hstate : w.ch.mon.state = .healthy) (hreached : w.reached env = true)
    (hmode : w.mode = .returning) (hswitch : w.ch.ctl.switch = some x) :
    (x.force = false → (monitorSuspect env w).ch.ctl.mode = .takeover ∧ (monitorSuspect env w).ch.ctl.switch = none) ∧
      (x.force = true → (monitorSuspect env w).ch.ctl.mode = .returning ∧ (monitorSuspect env w).ch.ctl.switch = some x) := by
  rw [monitorSuspect_due hstate hreached]
  obtain ⟨v, hv⟩ : ∃ v, v = w.modMon fun m => { m with holdoff := 0 } := ⟨_, rfl⟩
  have hvstate : v.ch.mon.state = .healthy := by rw [hv]; exact hstate
  have hvmode : v.mode = .returning := by rw [hv]; exact hmode
  have hvswitch : v.ch.ctl.switch = some x := by rw [hv]; exact hswitch
  rw [← hv]
  refine ⟨fun hforce => ?_, fun hforce => ?_⟩
  · obtain ⟨u, hu, hch⟩ := changeMon_announced env .suspect v
    have hcancel := monitorChanged_returning (env := env) (after := .suspect) (w := u) (x := x) (by rw [W.mode, hch]; exact hvmode)
      (by decide) (by rw [hch]; exact hvswitch) hforce
    rw [hvstate, hcancel] at hu
    obtain ⟨cmode, cswitch, -⟩ := rule_ctl (cancelHandback_rule env .byMonitor (u.told .suspect) x
      (show u.ch.ctl.switch = some x by rw [hch]; exact hvswitch))
    rw [← hu] at cmode cswitch
    obtain ⟨fmode, fswitch⟩ := monitorFailed_unmoved (env := env) (Or.inl (show (changeMon env .suspect v).mode = .takeover from cmode))
    exact ⟨fmode.trans cmode, fswitch.trans cswitch⟩
  · obtain ⟨hctl, -⟩ := changeMon_unmoved (env := env) (after := .suspect) (w := v)
      (fun _ ⟨_, _, h⟩ => by rw [hvswitch] at h; simp [hforce] at h) fun _ => by decide
    have hmode' : (changeMon env .suspect v).mode = .returning := by rw [W.mode, hctl]; exact hvmode
    obtain ⟨fmode, fswitch⟩ := monitorFailed_unmoved (env := env) (w := changeMon env .suspect v)
      (Or.inr ⟨hmode', by rw [changeMon_mon]; simp⟩)
    exact ⟨fmode.trans hmode', fswitch.trans (by rw [hctl]; exact hvswitch)⟩

/-- Settles O23: the change into FAILED, and the handback that a change out of HEALTHY cancels. -/
theorem monitorChangesMoveTheChannel : Obligations.MonitorChangesMoveTheChannel := by
  unfold Obligations.MonitorChangesMoveTheChannel
  refine ⟨fun c i m s hpow hreached hm hi => ?_, fun c x s hpow hreached hstate hmode hswitch => ?_⟩
  · subst hm
    have hmoves : ∃ op : Env → W → W, exec i s = .next (live (runCh c op) s) ∧ (ranCh c op s).rest = (begun s c).rest ∧
        FailedMoves (envOf s c) (begun s c) (ranCh c op s) := by
      rcases hi with ⟨rfl, hstate⟩ | ⟨rfl, hstate, hzero⟩
      · refine ⟨monitorFailed, rfl, monitorFailed_rest _ _, ?_⟩
        rw [ranCh, monitorFailed_due (begun_reached.2 hreached) hstate]
        exact changeMon_failed _ _
      · exact ⟨monitorSuspect, rfl, monitorSuspect_rest _ _, monitorSuspect_failedMoves hstate (begun_reached.2 hreached) hzero⟩
    obtain ⟨op, hexec, hrest, hfailed⟩ := hmoves
    obtain ⟨t, ht, hwithin, hch⟩ := monitor_event hexec hpow hrest
    refine ⟨t, ht, hwithin, ?_⟩
    rw [hch]
    exact ⟨hfailed.mon, hfailed.known, hfailed.auto, hfailed.manual, hfailed.joining⟩
  · obtain ⟨t, ht, hwithin, hch⟩ := monitor_event (c := c) (i := .monitorSuspect c) (op := monitorSuspect) rfl hpow
      (monitorSuspect_rest (envOf s c) (begun s c))
    refine ⟨t, ht, hwithin, ?_⟩
    rw [hch]
    exact monitorSuspect_returning (w := begun s c) hstate (begun_reached.2 hreached) hmode hswitch

end Sys2Proof.Machine

/-! PROOFS. Site silence (R59, R95) and the events of the Mirror Engine (R39, R49, R58, R62, R63): the expiry of the beat timer, the
timeout of a refresh and the end of a digest scan. -/

namespace Sys2Proof.Machine

open Sys2Proof

/-! ## Site silence -/

theorem setMirror_changed {env : Env} {after : MirrorState} {cause : MirrorCause} {w : W} (h : w.ch.mirror.state ≠ after) :
    setMirror env after cause w = { w with
      ch := { w.ch with mirror := { w.ch.mirror with state := after } },
      fx := w.fx ++ [.notice .loc env.ch.val
        (.mirror w.ch.mirror.state after cause w.ch.mirror.lastSeq w.ch.store.opening env.now)] } := by
  unfold setMirror
  dsimp only
  rw [if_neg fun hsame => h hsame.1]
  rfl

/-- A channel's state under site silence. -/
def Mirror.silenced (m : Mirror) : Mirror := { m with state := if m.state = .current then .stale else m.state }

theorem silenced_other {m : Mirror} (h : m.state ≠ .current) : m.silenced = m := by
  unfold Mirror.silenced
  rw [if_neg h]

/-- One channel hears of the silence: its mirror, one LOCAL_CTL notice and nothing else. -/
theorem runCh_goStale (c : Ch) (s : State) : (runCh c goStale s).log = s.log ∧ (runCh c goStale s).nextMain = s.nextMain ∧
    (runCh c goStale s).chans[c] = { s.chans[c] with mirror := s.chans[c].mirror.silenced } := by
  by_cases hcurrent : s.chans[c].mirror.state = .current
  · have hop : ranCh c goStale s = { ch := { s.chans[c] with mirror := s.chans[c].mirror.silenced }
                                     fx := [.notice .loc c.val (.mirror s.chans[c].mirror.state .stale .siteSilence
                                       s.chans[c].mirror.lastSeq s.chans[c].store.opening s.time.hfn)] } := by
      have hdue : (begun s c).ch.mirror.state = .current := hcurrent
      show goStale (envOf s c) (begun s c) = _
      unfold goStale
      rw [if_pos hdue, setMirror_changed (by rw [hdue]; decide), Mirror.silenced, if_pos hcurrent]
      rfl
    rw [runCh_notice hop]
    exact ⟨rfl, rfl, setCh_here s c _⟩
  · have hidle : goStale (envOf s c) (begun s c) = begun s c := if_neg hcurrent
    rw [runCh_unmoved hidle, silenced_other hcurrent]
    exact ⟨rfl, rfl, rfl⟩

theorem runAll_goStale (s : State) : (runAll goStale s).log = s.log ∧ (runAll goStale s).nextMain = s.nextMain ∧
    ∀ c : Ch, (runAll goStale s).chans[c] = { s.chans[c] with mirror := s.chans[c].mirror.silenced } := by
  have hheard : (runAll goStale s).log = s.log ∧ (runAll goStale s).nextMain = s.nextMain := by
    unfold runAll
    generalize List.finRange 8 = l
    induction l generalizing s with
    | nil => exact ⟨rfl, rfl⟩
    | cons c l ih =>
      obtain ⟨hlog, hnext, -⟩ := runCh_goStale c s
      obtain ⟨ihlog, ihnext⟩ := ih (runCh c goStale s)
      exact ⟨ihlog.trans hlog, ihnext.trans hnext⟩
  obtain ⟨hlog, hnext⟩ := hheard
  refine ⟨hlog, hnext, fun c => runAll_here (P := fun a b => b = { a with mirror := a.mirror.silenced }) (fun env w => ?_) s c⟩
  obtain ⟨hother, hcurrent⟩ := goStale_ch env w
  by_cases h : w.ch.mirror.state = .current
  · rw [hcurrent h, Mirror.silenced, if_pos h]
  · rw [hother h, silenced_other h]

/-- Settles O24: the timer at its timeout, with its mark clear or set. -/
theorem siteSilenceMakesMirrorsStale : Obligations.SiteSilenceMakesMirrorsStale := by
  unfold Obligations.SiteSilenceMakesMirrorsStale
  intro s hpow
  have hexec : exec .siteBeatExpiry s = .next (siteBeatExpiry s) := congrArg Host.Outcome.next (live_on hpow)
  refine ⟨fun hclear hdue => ?_, fun hnot => ?_⟩
  · have hall : siteBeatExpiry s = runAll goStale { s with expired := true, beat := s.params.part.siteBeatTimeout } :=
      if_pos ⟨hclear, hdue⟩
    obtain ⟨-, htime, -, -, hparams, -, -, hbeat, hexpired, -⟩ :=
      runAll_kept goStale { s with expired := true, beat := s.params.part.siteBeatTimeout }
    obtain ⟨hlog, hnext, hchans⟩ := runAll_goStale { s with expired := true, beat := s.params.part.siteBeatTimeout }
    rw [← hall] at htime hparams hbeat hexpired hlog hnext hchans
    exact ⟨_, hexec, hexpired, hbeat, htime, hparams, hlog, hnext, hchans⟩
  · refine hexec.trans (congrArg Host.Outcome.next (if_neg fun hdue => ?_))
    obtain ⟨hclear, hreached⟩ := hdue
    rcases hnot with h | h
    · exact absurd (h.symm.trans hclear) (by decide)
    · omega

/-! ## Refreshes that time out -/

/-- A refresh given up from SYNCING: the freed record, the state and both notices. -/
theorem giveUp_syncing {env : Env} {after : MirrorState} {cause : MirrorCause} {need : NeedCause} {w : W}
    (h : w.ch.mirror.state ≠ after) : giveUp env after cause need w =
      { ch := { w.ch with store := { w.ch.store with refresh := none }, mirror := { w.ch.mirror with state := after, timer := 0 } }
        fx := w.fx ++ [.notice .loc env.ch.val (.mirror w.ch.mirror.state after cause w.ch.mirror.lastSeq none env.now)] ++
          [.notice .main env.ch.val (.refreshNeeded need after w.ch.mirror.lastSeq (env.at env.now))] } := by
  have hfreed : (freeRefresh w).ch.mirror.state ≠ after := h
  unfold giveUp
  rw [setMirror_changed hfreed]
  rfl

/-- An event that changes its channel and makes one notice on each flow. -/
theorem runCh_notices {c : Ch} {op : Env → W → W} {s : State} {x : Chan} {ch : Nat} {n m : Notice}
    (h : ranCh c op s = { ch := x, fx := [.notice .loc ch n, .notice .main ch m] }) : runCh c op s =
      { s.setCh c x with
        nextLocal := (s.nextLocal + 1) % two16, nextMain := (s.nextMain + 1) % two16,
        sent := s.sent ++ noticePackets s .loc s.nextLocal ch n ++ noticePackets s .main s.nextMain ch m } := by
  have hrun : runCh c op s = (ranCh c op s).fx.foldl (applyEffect c) (s.setCh c (ranCh c op s).ch) := rfl
  have hlocal := notice_local_eq (s.setCh c x) ch n
  rw [noticePackets_congr (s := s) (t := s.setCh c x) rfl rfl] at hlocal
  rw [hrun, h]
  show ((s.setCh c x).notice .loc ch n).notice .main ch m = _
  rw [hlocal, notice_main_eq, noticePackets_congr (s := s) rfl rfl]
  rfl

/-! ## Digest scans that end -/

theorem transmit_eq (s : State) (addr : Option (Port × Nat)) (o : Outgoing) :
    s.transmit addr o = { s with sent := s.sent ++ leaves s addr o } := by
  unfold State.transmit leaves
  cases addr with
  | none => simp
  | some a => obtain ⟨p, tag⟩ := a; dsimp only; split <;> simp

/-- The first thing that an operation hands on is a reply: it leaves first. -/
theorem runCh_reply_first {c : Ch} {op : Env → W → W} {s : State} {addr : Option (Port × Nat)} {f : CtlFlow} {code tag ch : Nat}
    {st : Status} {body : ReplyBody} {l : List Effect} (h : (ranCh c op s).fx = .reply addr f code tag ch st body :: l) :
    ∃ v, (runCh c op s).sent = s.sent ++ leaves s addr (.reply f code tag ch st body) ++ v := by
  have hrun : runCh c op s = (ranCh c op s).fx.foldl (applyEffect c) (s.setCh c (ranCh c op s).ch) := rfl
  obtain ⟨u, hu⟩ : ∃ u, u = (s.setCh c (ranCh c op s).ch).transmit addr (.reply f code tag ch st body) := ⟨_, rfl⟩
  obtain ⟨-, v, hv⟩ := foldl_calm (applyEffect c) (applyEffect_calm c) l u
  refine ⟨v, ?_⟩
  rw [hrun, h, List.foldl_cons]
  show (l.foldl (applyEffect c) ((s.setCh c (ranCh c op s).ch).transmit addr (.reply f code tag ch st body))).sent = _
  rw [← hu, ← hv, hu, transmit_eq]
  rfl

/-- What the end of a scan leaves: the reply first, and a mismatch that makes a CURRENT or STALE mirror DIVERGED. -/
theorem digestScanEnd_ended {env : Env} {w : W} {x : Scan} (hscan : w.ch.store.scan = some x)
    (hleft : x.left w.ch.store.current = []) (hfx : w.fx = []) (ok : Bool) (hok : ok = true ↔ x.count = x.runCount ∧ x.sum = x.runSum) :
    ∃ l, (digestScanEnd env w).fx = .reply x.addr .main 3 x.tag x.channel (if ok then .ok else .mismatch)
        (.digest x.runCount x.runSum) :: l ∧
      (digestScanEnd env w).ch.store = { w.ch.store with scan := none } ∧
      (digestScanEnd env w).ch.mirror = { w.ch.mirror with state :=
        if ok = false ∧ (w.ch.mirror.state = .current ∨ w.ch.mirror.state = .stale) then .diverged else w.ch.mirror.state } := by
  obtain ⟨u, hu⟩ : ∃ u, u = (w.modStore fun t => { t with scan := none }).emit
      (.reply x.addr .main 3 x.tag x.channel (if ok then .ok else .mismatch) (.digest x.runCount x.runSum)) := ⟨_, rfl⟩
  have hufx : u.fx = [.reply x.addr .main 3 x.tag x.channel (if ok then .ok else .mismatch) (.digest x.runCount x.runSum)] := by
    rw [hu]; show w.fx ++ _ = _; rw [hfx]; rfl
  have hustore : u.ch.store = { w.ch.store with scan := none } := by rw [hu]; rfl
  have humirror : u.ch.mirror = w.ch.mirror := by rw [hu]; rfl
  have hsame : decide (x.count = x.runCount ∧ x.sum = x.runSum) = ok := by
    rw [Bool.eq_iff_iff, decide_eq_true_iff, hok]
  have hend : digestScanEnd env w = if ok then u else match u.ch.mirror.state with
      | .current => refreshNeeded env .digestMismatch (setMirror env .diverged .digestMismatch u)
      | .stale => refreshNeeded env .digestMismatch (setMirror env .diverged .digestMismatch u)
      | .syncing => u
      | _ => refreshNeeded env .digestMismatch u := by
    unfold digestScanEnd
    rw [hscan]
    dsimp only
    rw [hleft, hsame, hu]
    cases ok <;> rfl
  have hdiverged : w.ch.mirror.state = .current ∨ w.ch.mirror.state = .stale →
      refreshNeeded env .digestMismatch (setMirror env .diverged .digestMismatch u) =
        { ch := { u.ch with mirror := { u.ch.mirror with state := .diverged } }
          fx := u.fx ++ [.notice .loc env.ch.val (.mirror u.ch.mirror.state .diverged .digestMismatch u.ch.mirror.lastSeq
            u.ch.store.opening env.now)] ++ [.notice .main env.ch.val (.refreshNeeded .digestMismatch .diverged u.ch.mirror.lastSeq
            (env.at env.now))] } := by
    intro h
    rw [setMirror_changed (by rw [humirror]; rcases h with h | h <;> (rw [h]; decide))]
    rfl
  cases ok with
  | true =>
    rw [hend, if_pos rfl, hufx, hustore, humirror]
    exact ⟨[], rfl, rfl, by simp⟩
  | false =>
    rw [if_neg (by decide), humirror] at hend
    have hkept : ∀ v : W, v.ch = u.ch → w.ch.mirror.state ≠ .current → w.ch.mirror.state ≠ .stale →
        v.ch.store = { w.ch.store with scan := none } ∧ v.ch.mirror = { w.ch.mirror with state :=
          if false = false ∧ (w.ch.mirror.state = .current ∨ w.ch.mirror.state = .stale) then .diverged
          else w.ch.mirror.state } := by
      intro v hv hcurrent hstale
      rw [hv, hustore, humirror, if_neg (by simp [hcurrent, hstale])]
      exact ⟨rfl, rfl⟩
    cases hstate : w.ch.mirror.state with
    | current =>
      rw [hstate] at hend
      rw [hend, hdiverged (Or.inl hstate), hufx, hustore, humirror]
      exact ⟨_, rfl, rfl, by simp⟩
    | stale =>
      rw [hstate] at hend
      rw [hend, hdiverged (Or.inr hstate), hufx, hustore, humirror]
      exact ⟨_, rfl, rfl, by simp⟩
    | syncing =>
      rw [hstate] at hend
      rw [hend]
      have := hkept u rfl (by rw [hstate]; decide) (by rw [hstate]; decide)
      rw [hstate] at this
      exact ⟨[], hufx, this⟩
    | _ =>
      rw [hstate] at hend
      dsimp only at hend
      rw [hend]
      have := hkept (refreshNeeded env .digestMismatch u) rfl (by rw [hstate]; decide) (by rw [hstate]; decide)
      rw [hstate] at this
      exact ⟨_, by rw [refreshNeeded, W.notice, W.emit, hufx]; rfl, this⟩

theorem left_empty_iff (x : Scan) (l : List Event) : x.left l = [] ↔ ∀ e ∈ l, e.key < x.next := by
  simp [Scan.left, List.filter_eq_nil_iff]

/-- Settles O25: the timer of an open refresh, and a scan with nothing left. -/
theorem refreshesTimeOutAndScansEnd : Obligations.RefreshesTimeOutAndScansEnd := by
  unfold Obligations.RefreshesTimeOutAndScansEnd
  refine ⟨fun c r m s hpow hrefresh hm => ?_, fun c x ok s hpow hscan hok => ?_⟩
  · subst hm
    have hexec : exec (.refreshTimeout c) s = .next (runCh c refreshTimeout s) := congrArg Host.Outcome.next (live_on hpow)
    refine ⟨fun hstate hdue => ?_, fun hearly => ?_⟩
    · have hop : ranCh c refreshTimeout s =
          { ch := { s.chans[c] with store := { s.chans[c].store with refresh := none },
                                    mirror := { s.chans[c].mirror with state := .gap, timer := 0 } }
            fx := [.notice .loc c.val (.mirror .syncing .gap .timeout s.chans[c].mirror.lastSeq none s.time.hfn),
              .notice .main c.val (.refreshNeeded .timeout .gap s.chans[c].mirror.lastSeq s.now)] } := by
        have hnow : (begun s c).ch.store.refresh.isSome ∧ (envOf s c).part.mirrorTimeout ≤ (begun s c).ch.mirror.timer :=
          ⟨by rw [show (begun s c).ch.store.refresh = some r from hrefresh]; rfl, hdue⟩
        have hsyncing : (begun s c).ch.mirror.state = .syncing := hstate
        show refreshTimeout (envOf s c) (begun s c) = _
        unfold refreshTimeout
        rw [if_pos hnow, giveUp_syncing (by rw [hsyncing]; decide), hsyncing]
        rfl
      rw [hexec, runCh_notices hop]
    · exact hexec.trans (congrArg Host.Outcome.next (runCh_unmoved (if_neg fun h => absurd h.2 (Nat.not_le.2 hearly))))
  · have hexec : exec (.digestScanEnd c) s = .next (runCh c digestScanEnd s) := congrArg Host.Outcome.next (live_on hpow)
    refine ⟨fun hover => ?_, fun hmore => ?_⟩
    · obtain ⟨l, hfx, hstore, hmirror⟩ := digestScanEnd_ended (env := envOf s c) (w := begun s c) hscan
        ((left_empty_iff _ _).2 hover) rfl ok hok
      obtain ⟨v, hv⟩ := runCh_reply_first (c := c) (op := digestScanEnd) (s := s) hfx
      have hrest : (ranCh c digestScanEnd s).rest = (begun s c).rest := digestScanEnd_rest _ _
      refine ⟨_, v, hexec, within_runCh hrest, ?_, ?_, hv, ?_⟩ <;> rw [runCh_here, ranCh]
      · rw [hstore]
      · rw [hstore]; rfl
      · exact hmirror
    · have hleft : (x.left s.chans[c].store.current).isEmpty = false := by
        rw [← Bool.not_eq_true, List.isEmpty_iff, left_empty_iff]
        obtain ⟨e, he, hkey⟩ := hmore
        exact fun h => absurd (h e he) (Nat.not_lt.2 hkey)
      refine hexec.trans (congrArg Host.Outcome.next (runCh_unmoved ?_))
      unfold digestScanEnd
      rw [show (begun s c).ch.store.scan = some x from hscan]
      exact if_pos hleft

end Sys2Proof.Machine

/-! PROOFS. Requests as they are taken (R190 to R192): the command of a request, the checks before its own, and what a request on
one channel leaves; with WINDOW_SET and the checks of every request. -/

namespace Sys2Proof.Machine

open Sys2Proof

/-! ## The command of a request -/

/-- The command that takes a request. -/
def commandOf (f : CtlFlow) (h : Head) : ReqBody → Instr
  | .mirrorBatch n x => .mirrorBatch f h n x
  | .refreshOpen n => .refreshOpen f h n
  | .refreshClose n k m => .refreshClose f h n k m
  | .digestCheck k n m => .digestCheck f h k n m
  | .siteBeat d l => .siteBeat f h d l
  | .handover d l => .handover f h d l
  | .handbackAsk x => .handbackAsk f h x
  | .setParam p v => .setParam f h p v
  | .getParam p => .getParam f h p
  | .flowLoad t p r c => .flowLoad f h t p r c
  | .flowClear t => .flowClear f h t
  | .triggerLoad c a => .triggerLoad f h c a
  | .triggerClear c => .triggerClear f h c
  | .graphicBegin n x y => .graphicBegin f h n x y
  | .graphicSegment n k d => .graphicSegment f h n k d
  | .graphicEnd n => .graphicEnd f h n
  | .windowSet e n x y a b => .windowSet f h e n x y a b
  | .takeover x o => .takeover f h x o
  | .handback x o => .handback f h x o
  | .breakIn n k d m => .breakIn f h n k d m
  | .resume m => .resume f h m
  | .queryChannel => .queryChannel f h
  | .queryEvents k n => .queryEvents f h k n
  | .queryMonitor => .queryMonitor f h
  | .clearCounters => .clearCounters f h
  | .logRead n k => .logRead f h n k
  | .logFlush => .logFlush f h
  | .saveConfig => .saveConfig f h
  | .timeSet d l => .timeSet f h d l
  | .resetPart => .resetPart f h
  | .resetChannel n => .resetChannel f h n
  | .partStatus => .partStatus f h
  | .unknown n => .unknownRequestCode f h n

theorem request_command {i : Instr} {f : CtlFlow} {h : Head} {b : ReqBody}
    (hi : i.request = some (f, { head := h, body := b })) : i = commandOf f h b := by
  cases i <;> cases hi <;> rfl

theorem exec_command (f : CtlFlow) (h : Head) (b : ReqBody) (s : State) :
    ∃ act, exec (commandOf f h b) s = .next (takeRequest f h b act s) := by
  cases b <;> exact ⟨_, rfl⟩

/-! ## The checks before a request's own -/

section Checks

variable {f : CtlFlow} {h : Head} {b : ReqBody} {s : State} {act : Option (Port × Nat) → State → State}

/-- A request behind another of its flow. -/
theorem takeRequest_behind {x : Request} (hpow : s.powered = true) (hx : (s.inbound f).head? = some x)
    (hne : x ≠ { head := h, body := b }) : takeRequest f h b act s = s := by
  obtain ⟨rest, hq⟩ := List.head?_eq_some_iff.1 hx
  have hpop : s.popRequest f { head := h, body := b } = none := by simp [State.popRequest, hq, hne]
  simp [takeRequest, hpow, hpop]

/-- A request that one of the first two checks refuses. -/
theorem takeRequest_refused {st : Status} (hpow : s.powered = true)
    (hq : s.inbound f = [] ∨ (s.inbound f).head? = some { head := h, body := b }) (hst : headCheck f h b = some st) :
    takeRequest f h b act s = { afterTurn f s with sent := s.sent ++ replyPackets s f h b (st, .none) } := by
  have hpop : s.popRequest f { head := h, body := b } = some (afterTurn f s) := by
    unfold State.popRequest afterTurn
    rcases hq with hq | hq
    · rw [hq]; cases f <;> simp_all [State.setInbound, State.inbound] <;> cases s <;> simp_all
    · obtain ⟨rest, hq⟩ := List.head?_eq_some_iff.1 hq
      simp [hq]
  obtain ⟨-, hports, hsent⟩ := afterTurn_kept f s
  have haddr : (afterTurn f s).ctlAddr f = s.ctlAddr f := by simp [afterTurn, State.ctlAddr]
  simp only [takeRequest, hpow, hpop, hst, haddr, Bool.true_eq_false, if_false]
  rw [reply_eq (s := s) _ (by simp [hports]), hsent]

theorem headCheck_malformed (hb : h.present < h.bodyLen ∨ ReqBody.known b = false) : headCheck f h b = some .malformed := by
  simp [headCheck, hb]

theorem headCheck_notPermitted (hlen : h.bodyLen ≤ h.present) (hknown : ReqBody.known b = true) (hf : reqFlow b ≠ f) :
    headCheck f h b = some .notPermitted := by
  simp [headCheck, hknown, hf, Nat.not_lt.2 hlen]

end Checks

theorem known_iff (b : ReqBody) : ReqBody.known b = true ↔ ∀ code, b ≠ .unknown code := by
  cases b <;> simp [ReqBody.known]

/-! ## The channel a header names -/

theorem chanOf_val (c : Ch) : chanOf c.val = some c := by simp [chanOf]

theorem chanOf_names {h : Head} {c : Ch} (hn : Names h c) : chanOf h.channel = some c := by
  rw [show h.channel = c.val from hn, chanOf_val]

theorem chanOf_none {n : Nat} (hn : 7 < n) : chanOf n = none := by
  unfold chanOf; exact dif_neg (by omega)

theorem onChannel_named {h : Head} {c : Ch} (hn : Names h c) (op : Env → W → W × Answer) (s : State) :
    onChannel h op s = askCh c op s := by
  unfold onChannel; rw [chanOf_names hn]

theorem onChannel_unnamed {h : Head} (hn : 7 < h.channel) (op : Env → W → W × Answer) (s : State) :
    onChannel h op s = deny .badChannel s := by
  unfold onChannel; rw [chanOf_none hn]; rfl

/-! ## What a request leaves -/

theorem envOf_afterTurn (f : CtlFlow) (s : State) (c : Ch) : envOf (afterTurn f s) c = envOf s c := by cases f <;> rfl

theorem begun_afterTurn (f : CtlFlow) (s : State) (c : Ch) : begun (afterTurn f s) c = begun s c := by cases f <;> rfl

theorem ranCh_afterTurn (f : CtlFlow) (s : State) (c : Ch) (op : Env → W → W) : ranCh c op (afterTurn f s) = ranCh c op s := by
  unfold ranCh; rw [envOf_afterTurn, begun_afterTurn]

theorem askCh_of {c : Ch} {op : Env → W → W × Answer} {s : State} {v : W} {a : Answer}
    (hop : op (envOf s c) (begun s c) = (v, a)) : askCh c op s = (v.fx.foldl (applyEffect c) (s.setCh c v.ch), a) := by
  show ((op (envOf s c) (begun s c)).1.fx.foldl (applyEffect c) (s.setCh c (op (envOf s c) (begun s c)).1.ch),
    (op (envOf s c) (begun s c)).2) = _
  rw [hop]

section Turns

variable {f : CtlFlow} {h : Head} {b : ReqBody} {s : State}

theorem answered_turn_of {op : State → State × Answer} {u : State} {a : Answer} (ht : Turn f h b s)
    (hop : op (afterTurn f s) = (u, a)) (hports : u.ports = s.ports) :
    takeRequest f h b (answered f h b op) s = { u with sent := u.sent ++ replyPackets s f h b a } := by
  rw [answered_turn ht (by simp [hop, hports]), hop]

variable {c : Ch} {op : Env → W → W × Answer}

/-- A request of one channel that its header does not name. -/
theorem asked_turn_unnamed (ht : Turn f h b s) (hn : 7 < h.channel) (op : Env → W → W × Answer) :
    takeRequest f h b (answered f h b (onChannel h op)) s =
      { afterTurn f s with sent := s.sent ++ replyPackets s f h b (.badChannel, .none) } :=
  answered_turn_denied ht (onChannel_unnamed hn op _)

/-- A request of one channel that makes nothing but its reply. -/
theorem asked_turn_quiet {x : Chan} {a : Answer} (ht : Turn f h b s) (hn : Names h c)
    (hop : op (envOf s c) (begun s c) = ({ ch := x, fx := [] }, a)) :
    takeRequest f h b (answered f h b (onChannel h op)) s =
      { (afterTurn f s).setCh c x with sent := s.sent ++ replyPackets s f h b a } := by
  obtain ⟨-, hports, hsent⟩ := afterTurn_kept f s
  have hask : onChannel h op (afterTurn f s) = ((afterTurn f s).setCh c x, a) := by
    rw [onChannel_named hn]
    exact askCh_of (v := { ch := x, fx := [] }) (by rw [envOf_afterTurn, begun_afterTurn, hop])
  rw [answered_turn_of ht hask (by simp [hports])]
  simp [hsent]

/-- A request of one channel that its operation refuses. -/
theorem asked_turn_refused {st : Status} (ht : Turn f h b s) (hn : Names h c)
    (hop : op (envOf s c) (begun s c) = refuse st (begun s c)) :
    takeRequest f h b (answered f h b (onChannel h op)) s =
      { afterTurn f s with sent := s.sent ++ replyPackets s f h b (st, .none) } := by
  rw [asked_turn_quiet ht hn hop]
  have hself : (afterTurn f s).setCh c s.chans[c] = afterTurn f s := by
    rw [← (afterTurn_kept f s).1]; exact setCh_self _ _
  rw [hself]

/-- A request of one channel that leaves its intake and what its output holds. -/
theorem asked_turn_within {v : W} {a : Answer} (ht : Turn f h b s) (hn : Names h c)
    (hop : op (envOf s c) (begun s c) = (v, a)) (hrest : v.rest = (begun s c).rest) :
    ∃ t, takeRequest f h b (answered f h b (onChannel h op)) s = t ∧ Within c (afterTurn f s) t ∧ t.chans[c] = v.ch ∧
      Replies s t f h b a := by
  have hran : ranCh c (fun env w => (op env w).1) (afterTurn f s) = v := by
    rw [ranCh_afterTurn]; exact congrArg Prod.fst hop
  obtain ⟨u, hu⟩ : ∃ u, u = runCh c (fun env w => (op env w).1) (afterTurn f s) := ⟨_, rfl⟩
  have hwithin : Within c (afterTurn f s) u := by
    rw [hu]; exact within_runCh (by rw [hran, begun_afterTurn]; exact hrest)
  have hask : onChannel h op (afterTurn f s) = (u, a) := by
    rw [onChannel_named hn, hu]
    exact Prod.ext rfl (by rw [askCh_snd, envOf_afterTurn]; exact congrArg Prod.snd (begun_afterTurn f s c ▸ hop))
  obtain ⟨-, hports, hsent⟩ := afterTurn_kept f s
  have hup : u.ports = s.ports := by
    obtain ⟨-, -, h, -⟩ := hwithin.1
    exact h.trans hports
  obtain ⟨l, hl⟩ : (afterTurn f s).sent <+: u.sent := by rw [hu]; exact (runCh_calm c _ _).2
  refine ⟨_, answered_turn_of ht hask hup, hwithin, ?_, l, ?_⟩
  · show u.chans[c] = v.ch
    rw [hu, runCh_here, hran]
  · show u.sent ++ _ = _
    rw [← hl, hsent]

end Turns

/-! ## WINDOW_SET (R171) -/

theorem windowOk_iff (slot x y : Nat) : windowOk slot x y = true ↔ slot ≤ 15 ∧ x % 2 = 0 ∧ x ≤ 1918 ∧ y ≤ 1079 := by
  simp only [windowOk, Bool.and_eq_true, decide_eq_true_eq, and_assoc]

/-- Settles O50: a window within its ranges is written whole; any other value is refused. -/
theorem windowsAreSet : Obligations.WindowsAreSet := by
  unfold Obligations.WindowsAreSet
  intro f h enabled slot x y alpha blink b s hb ht
  subst hb
  refine ⟨fun c hn => ⟨fun hslot hx hx' hy => ?_, fun hbad => ?_⟩, fun hn => ?_⟩
  · have hok : windowOk slot x y = true := (windowOk_iff ..).2 ⟨hslot, hx, hx', hy⟩
    refine congrArg Host.Outcome.next (asked_turn_quiet ht hn ?_)
    unfold Machine.windowSetOn
    rw [if_neg (by simp [hok])]
    rfl
  · have hnot : windowOk slot x y = false := by
      rw [← Bool.not_eq_true, windowOk_iff]; omega
    exact congrArg Host.Outcome.next (asked_turn_refused ht hn (if_pos hnot))
  · exact congrArg Host.Outcome.next (asked_turn_unnamed ht hn _)

end Sys2Proof.Machine

/-! PROOFS. The checks of the requests of one channel, and of SET_PARAM and GET_PARAM (R4, R45, R148, R153, R190 to R194). -/

namespace Sys2Proof.Machine

open Sys2Proof

variable {env : Env} {w : W}

theorem mirrorBatchOn_malformed {n : Nat} {x : List Byte}
    (hx : ∀ ops, readOps x = some ops → ops.length = 0 ∨ 32 < ops.length) : mirrorBatchOn n x env w = refuse .malformed w := by
  unfold mirrorBatchOn
  cases hops : readOps x with
  | none => rfl
  | some ops => exact if_pos (hx ops hops)

theorem breakInOn_malformed {n k : Nat} {d : Option Nat} {m : Option BreakMode}
    (h : n = 0 ∨ d = some 0 ∨ 16777215 < k ∨ m = none) : breakInOn n k d m env w = refuse .malformed w := by
  unfold breakInOn
  by_cases hform : n = 0 ∨ d = some 0 ∨ 16777215 < k
  · rw [if_pos hform]
  · rw [if_neg hform]
    obtain rfl : m = none := by tauto
    rfl

/-- A label that fails R4 in a request of the Channel Controller. -/
theorem takeoverOn_malformed {d : Nat} {l : Label} {o : Bool} (hl : labelValid env.rate l = false) :
    takeoverOn (.at d l) o env w = refuse .malformed w := if_pos (by simp [targetBad, hl])

theorem handbackOn_malformed {why : SwitchCause} {d : Nat} {l : Label} {o : Bool} (hl : labelValid env.rate l = false) :
    handbackOn why (.at d l) o env w = refuse .malformed w := if_pos (by simp [targetBad, hl])

theorem handoverOn_malformed {d : Nat} {l : Label} (hl : labelValid env.rate l = false) :
    handoverOn d l env w = refuse .malformed w := if_pos hl

theorem digestCheck_unnamed {f : CtlFlow} {h : Head} {k n m : Nat} {s : State} (ht : Turn f h (.digestCheck k n m) s)
    (hn : 7 < h.channel) : takeRequest f h (.digestCheck k n m) (digestCheckAct f h k n m) s =
      { afterTurn f s with sent := s.sent ++ replyPackets s f h (.digestCheck k n m) (.badChannel, .none) } := by
  obtain ⟨-, hports, hsent⟩ := afterTurn_kept f s
  rw [takeRequest_turn _ ht]
  unfold digestCheckAct
  rw [chanOf_none hn, ← hsent]
  exact reply_eq _ (by simp [hports])

section Turns

variable {f : CtlFlow} {h : Head} {b : ReqBody} {s : State}

/-- A request of one channel with another channel value. -/
theorem exec_badChannel (ht : Turn f h b s) (hn : 7 < h.channel)
    (hb : (∃ n x, b = .mirrorBatch n x) ∨ (∃ n, b = .refreshOpen n) ∨ (∃ n k m, b = .refreshClose n k m) ∨
      (∃ k n m, b = .digestCheck k n m) ∨ (∃ d l, b = .handover d l) ∨ (∃ x, b = .handbackAsk x) ∨ (∃ x o, b = .takeover x o) ∨
      (∃ x o, b = .handback x o) ∨ (∃ n k d m, b = .breakIn n k d m) ∨ ∃ m, b = .resume m) :
    exec (commandOf f h b) s =
      .next { afterTurn f s with sent := s.sent ++ replyPackets s f h b (.badChannel, .none) } := by
  rcases hb with ⟨n, x, rfl⟩ | ⟨n, rfl⟩ | ⟨n, k, m, rfl⟩ | ⟨k, n, m, rfl⟩ | ⟨d, l, rfl⟩ | ⟨x, rfl⟩ | ⟨x, o, rfl⟩ | ⟨x, o, rfl⟩ |
    ⟨n, k, d, m, rfl⟩ | ⟨m, rfl⟩
  case inr.inr.inr.inl => exact congrArg Host.Outcome.next (digestCheck_unnamed ht hn)
  all_goals exact congrArg Host.Outcome.next (asked_turn_unnamed ht hn _)

/-- A request of one channel whose fields are not what they have to be. -/
theorem exec_malformed {c : Ch} (ht : Turn f h b s) (hn : Names h c)
    (hb : (∃ n x, b = .mirrorBatch n x ∧ ∀ ops, readOps (statedPart h x) = some ops → ops.length = 0 ∨ 32 < ops.length) ∨
      (∃ d l, labelValid s.time.rate l = false ∧
        (b = .handover d l ∨ ∃ o, b = .takeover (.at d l) o ∨ b = .handback (.at d l) o)) ∨
      (∃ n k d m, b = .breakIn n k d m ∧ (n = 0 ∨ d = some 0 ∨ 16777215 < k ∨ m = none)) ∨ b = .resume none) :
    exec (commandOf f h b) s =
      .next { afterTurn f s with sent := s.sent ++ replyPackets s f h b (.malformed, .none) } := by
  rcases hb with ⟨n, x, rfl, hx⟩ | ⟨d, l, hl, rfl | ⟨o, rfl | rfl⟩⟩ | ⟨n, k, d, m, rfl, hm⟩ | rfl
  · exact congrArg Host.Outcome.next (asked_turn_refused ht hn (mirrorBatchOn_malformed hx))
  · exact congrArg Host.Outcome.next (asked_turn_refused ht hn (handoverOn_malformed hl))
  · exact congrArg Host.Outcome.next (asked_turn_refused ht hn (takeoverOn_malformed hl))
  · exact congrArg Host.Outcome.next (asked_turn_refused ht hn (handbackOn_malformed hl))
  · exact congrArg Host.Outcome.next (asked_turn_refused ht hn (breakInOn_malformed hm))
  · exact congrArg Host.Outcome.next (asked_turn_refused ht hn rfl)

/-- A parameter request whose identifier names no parameter of its kind. -/
theorem exec_unknownParam (ht : Turn f h b s)
    (hb : b = .getParam .unknown ∨ ∃ v, b = .setParam .unknown v ∨ ∃ k, b = .setParam (.trigger k) v) :
    exec (commandOf f h b) s =
      .next { afterTurn f s with sent := s.sent ++ replyPackets s f h b (.malformed, .none) } := by
  rcases hb with rfl | ⟨v, rfl | ⟨k, rfl⟩⟩ <;> exact congrArg Host.Outcome.next (answered_turn_denied ht rfl)

end Turns

/-- Settles O54: the place in the queue, then the checks of every request, then those of the request itself. -/
theorem requestsStandTheirChecks : Obligations.RequestsStandTheirChecks := by
  unfold Obligations.RequestsStandTheirChecks
  refine ⟨fun i f h b s hi hpow => ?_, fun h k l hp hb => statedPart_behind hp hb, fun i f h b st s hi ht hst => ?_⟩
  · obtain ⟨act, hexec⟩ := exec_command f h b s
    rw [request_command hi, hexec]
    refine ⟨fun x hx hne => congrArg Host.Outcome.next (takeRequest_behind hpow hx hne), fun hq => ⟨fun hbad => ?_,
      fun hlen hknown hflow => ?_⟩⟩
    · refine congrArg Host.Outcome.next (takeRequest_refused hpow hq (headCheck_malformed (hbad.imp_right ?_)))
      rintro ⟨code, rfl⟩
      rfl
    · refine congrArg Host.Outcome.next (takeRequest_refused hpow hq
        (headCheck_notPermitted hlen ((known_iff b).2 hknown) ?_))
      rcases hflow with ⟨rfl, hcode⟩ | ⟨rfl, hcode⟩
      · simp [reqFlow, hcode]
      · simp [reqFlow, Nat.not_le.2 hcode]
  · rw [request_command hi]
    rcases hst with ⟨rfl, hn, hb⟩ | ⟨rfl, ⟨c, hn⟩, hb⟩ | ⟨rfl, hb⟩
    · exact exec_badChannel ht hn hb
    · exact exec_malformed ht hn hb
    · exact exec_unknownParam ht hb

end Sys2Proof.Machine

/-! PROOFS. The graphic slots (R174 to R176): the bytes that a segment stores, the samples that an end clamps, and the three
requests. -/

namespace Sys2Proof.Machine

open Sys2Proof

/-! ## The bytes of a slot -/

/-- Stored bytes are read back at their positions, and every other position is left. -/
theorem cellAt_storeBytes (offset k : Nat) (l : List Byte) (m : List Host.Cell) :
    cellAt k (storeBytes offset l m) = if offset ≤ k ∧ k < offset + l.length then l[k - offset]? else cellAt k m := by
  induction l generalizing offset m with
  | nil => rw [if_neg (by simp)]; rfl
  | cons b l ih =>
    rw [storeBytes, ih, cellAt_cellSet, List.length_cons]
    by_cases hk : k = offset
    · subst hk
      rw [if_neg (by omega), if_pos rfl, if_pos (by omega), Nat.sub_self]
      rfl
    · rw [if_neg hk]
      by_cases hin : offset + 1 ≤ k ∧ k < offset + 1 + l.length
      · rw [if_pos hin, if_pos (by omega), show k - offset = k - (offset + 1) + 1 by omega]
        rfl
      · rw [if_neg hin, if_neg (by omega)]

/-- Rising addresses below a bound are no more than the places there. -/
theorem rising_length_le {α : Type} {lo hi : Nat} {m : List (Nat × α)} (hr : risingBelow lo m = true) (hm : ∀ x ∈ m, x.1 < hi)
    (hlo : lo ≤ hi) : lo + m.length ≤ hi := by
  induction m generalizing lo with
  | nil => exact hlo
  | cons x m ih =>
    obtain ⟨hx, hr'⟩ := risingBelow_cons.1 hr
    have hbelow : x.1 < hi := hm x List.mem_cons_self
    have := ih hr' (fun y hy => hm y (List.mem_cons_of_mem _ hy)) hbelow
    rw [List.length_cons]
    omega

/-- As many rising addresses as there are places name every place. -/
theorem rising_full {α : Type} {lo : Nat} {m : List (Nat × α)} (hr : risingBelow lo m = true)
    (hm : ∀ x ∈ m, x.1 < lo + m.length) : m.map (·.1) = List.range' lo m.length := by
  induction m generalizing lo with
  | nil => rfl
  | cons x m ih =>
    obtain ⟨hx, hr'⟩ := risingBelow_cons.1 hr
    have hbelow : ∀ y ∈ m, y.1 < lo + (m.length + 1) := fun y hy => hm y (List.mem_cons_of_mem _ hy)
    have hfirst : x.1 < lo + (m.length + 1) := hm x List.mem_cons_self
    have hlen := rising_length_le hr' hbelow hfirst
    obtain rfl : x.1 = lo := by omega
    rw [List.map_cons, List.length_cons, List.range'_succ, ih hr' fun y hy => by have := hbelow y hy; omega]

/-! ## The samples of a slot -/

/-- Sample number `i` of a list of bytes. -/
def sampleAt (m : List Host.Cell) (i : Nat) : Nat :=
  ((cellAt (2 * i) m).getD 0).toNat * 256 + ((cellAt (2 * i + 1) m).getD 0).toNat

theorem graphicSample_eq (g : Graphic) (i : Nat) : graphicSample g i = sampleAt g.bytes i := rfl

theorem sampleAt_pair (a : Nat) (h l : Byte) (m : List Host.Cell) :
    sampleAt ((2 * a, h) :: (2 * a + 1, l) :: m) a = h.toNat * 256 + l.toNat := by
  simp [sampleAt, cellAt]

theorem sampleAt_behind {a i : Nat} (hi : i ≠ a) (h l : Byte) (m : List Host.Cell) :
    sampleAt ((2 * a, h) :: (2 * a + 1, l) :: m) i = sampleAt m i := by
  have h1 : 2 * a ≠ 2 * i := by omega
  have h2 : 2 * a + 1 ≠ 2 * i := by omega
  have h3 : 2 * a ≠ 2 * i + 1 := by omega
  simp [sampleAt, cellAt, h1, h2, h3]

/-- With every position listed, clamping acts on each sample by itself. -/
theorem sampleAt_clampSamples {a n : Nat} {m : List Host.Cell} (hm : m.map (·.1) = List.range' (2 * a) (2 * n)) {i : Nat}
    (hlo : a ≤ i) (hhi : i < a + n) : sampleAt (clampSamples m) i = min 1023 (sampleAt m i) := by
  induction n generalizing a m with
  | zero => omega
  | succ n ih =>
    obtain ⟨h, l, rest, rfl, hrest⟩ : ∃ (h l : Byte) (rest : List Host.Cell), m = (2 * a, h) :: (2 * a + 1, l) :: rest ∧
        rest.map (·.1) = List.range' (2 * (a + 1)) (2 * n) := by
      rw [show 2 * (n + 1) = 2 * n + 1 + 1 by omega, List.range'_succ, List.range'_succ] at hm
      rcases m with _ | ⟨⟨j, h⟩, _ | ⟨⟨k, l⟩, rest⟩⟩
      · cases hm
      · cases hm
      · simp only [List.map_cons, List.cons.injEq] at hm
        obtain ⟨rfl, rfl, hrest⟩ := hm
        exact ⟨h, l, rest, rfl, by rw [hrest, show 2 * (a + 1) = 2 * a + 1 + 1 by omega]⟩
    obtain ⟨h', l', hcons, hval⟩ : ∃ h' l' : Byte, clampSamples ((2 * a, h) :: (2 * a + 1, l) :: rest) =
        (2 * a, h') :: (2 * a + 1, l') :: clampSamples rest ∧
          h'.toNat * 256 + l'.toNat = min 1023 (h.toNat * 256 + l.toNat) := by
      rw [clampSamples]
      by_cases hbig : 1023 < h.toNat * 256 + l.toNat
      · rw [if_pos hbig]
        refine ⟨3, 255, rfl, ?_⟩
        rw [Nat.min_eq_left (by omega)]
        rfl
      · rw [if_neg hbig]
        exact ⟨h, l, rfl, (Nat.min_eq_right (by omega)).symm⟩
    rw [hcons]
    by_cases hi : i = a
    · subst hi
      rw [sampleAt_pair, sampleAt_pair, hval]
    · rw [sampleAt_behind hi, sampleAt_behind hi]
      exact ih hrest (by omega) (by omega)

/-- A slot with every byte, clamped. -/
theorem graphicSample_clamped {g : Graphic} {n : Nat} (hok : GraphicOk g) (hall : g.bytes.length = g.expected)
    (hsize : g.expected = 2 * n) {i : Nat} (hi : i < n) :
    graphicSample { g with state := .ready, bytes := clampSamples g.bytes } i = min 1023 (graphicSample g i) := by
  obtain ⟨hrise, hbelow, -⟩ := hok
  have hkeys : g.bytes.map (·.1) = List.range' (2 * 0) (2 * n) := by
    rw [rising_full hrise (by rw [hall]; simpa using hbelow), hall, hsize]
  rw [graphicSample_eq, graphicSample_eq]
  exact sampleAt_clampSamples hkeys (Nat.zero_le i) (by omega)

/-! ## What each request finds -/

theorem gslot_val (k : Fin 16) : gslot k.val = some k := by simp [gslot]

theorem gslot_none {n : Nat} (hn : 15 < n) : gslot n = none := dif_neg (by omega)

theorem slotBusy_iff (s : State) (k : Fin 16) : slotBusy s k.val = true ↔
    ∃ c : Ch, (s.chans[c].out.window.enabled = true ∧ s.chans[c].out.window.slot = k.val) ∨ s.params.chans[c].fill = .slate k := by
  have hfill : ∀ x : FillSetting, (match x with | .slate j => decide (j.val = k.val) | .black => false) = true ↔ x = .slate k := by
    intro x
    cases x with
    | black => simp
    | slate j => simp [Fin.ext_iff]
  simp only [slotBusy, List.any_eq_true, List.mem_finRange, true_and, Bool.or_eq_true, Bool.and_eq_true, decide_eq_true_eq]
  exact exists_congr fun c => or_congr_right (hfill _)

theorem slotBusy_afterTurn (f : CtlFlow) (s : State) (n : Nat) : slotBusy (afterTurn f s) n = slotBusy s n := by cases f <;> rfl

theorem sizeOk_iff (x y : Nat) : sizeOk x y = true ↔ x % 2 = 0 ∧ 2 ≤ x ∧ x ≤ 1920 ∧ 1 ≤ y ∧ y ≤ 1080 := by
  simp only [sizeOk, within, Bool.and_eq_true, decide_eq_true_eq, and_assoc]

variable {f : CtlFlow} {h : Head} {s : State}

theorem graphicBeginOn_bad {n x y : Nat} (hbad : 15 < n ∨ x % 2 = 1 ∨ x < 2 ∨ 1920 < x ∨ y < 1 ∨ 1080 < y) :
    graphicBeginOn n x y s = deny .badValue s := by
  by_cases hn : 15 < n
  · unfold graphicBeginOn; rw [gslot_none hn]
  · have hsize : sizeOk x y = false := by rw [← Bool.not_eq_true, sizeOk_iff]; omega
    obtain ⟨k, rfl⟩ : ∃ k : Fin 16, n = k.val := ⟨⟨n, by omega⟩, rfl⟩
    unfold graphicBeginOn
    rw [gslot_val]
    exact if_pos hsize

theorem graphicBeginOn_sized {k : Fin 16} {x y : Nat} (hsize : sizeOk x y = true) :
    graphicBeginOn k.val x y s = if slotBusy s k.val then deny .slotBusy s else
      ({ s with graphics := s.graphics.set k { state := .loading, width := x, height := y, expected := x * y * 4, bytes := [] } },
        .ok, .none) := by
  unfold graphicBeginOn
  rw [gslot_val]
  exact if_neg (by simp [hsize])

theorem graphicSegmentOn_empty {n offset : Nat} {d : List Byte} (hn : n ≤ 15) (hd : d.length = 0 ∨ 8192 < d.length) :
    graphicSegmentOn n offset d s = deny .malformed s := by
  obtain ⟨k, rfl⟩ : ∃ k : Fin 16, n = k.val := ⟨⟨n, by omega⟩, rfl⟩
  unfold graphicSegmentOn
  rw [gslot_val]
  exact if_pos hd

theorem graphicSegmentOn_sized {k : Fin 16} {offset : Nat} {d : List Byte} (hlo : 1 ≤ d.length) (hhi : d.length ≤ 8192) :
    graphicSegmentOn k.val offset d s = if s.graphics[k].state ≠ .loading then deny .wrongMode s
      else if s.graphics[k].expected < offset + d.length then deny .badValue s
      else ({ s with graphics := s.graphics.set k { s.graphics[k] with bytes := storeBytes offset d s.graphics[k].bytes } }, .ok,
        .received (storeBytes offset d s.graphics[k].bytes).length) := by
  unfold graphicSegmentOn
  rw [gslot_val]
  exact if_neg (by omega)

theorem graphicEndOn_eq {k : Fin 16} {g' : Graphic}
    (hg : g' = if s.graphics[k].bytes.length = s.graphics[k].expected then
      { s.graphics[k] with state := .ready, bytes := clampSamples s.graphics[k].bytes }
      else { s.graphics[k] with state := .incomplete }) :
    graphicEndOn k.val s = if s.graphics[k].state ≠ .loading then deny .wrongMode s
      else ({ s with graphics := s.graphics.set k g' }, .ok, .graphicEnd g'.state g'.expected g'.bytes.length) := by
  unfold graphicEndOn
  rw [gslot_val, hg]

theorem afterTurn_graphics (f : CtlFlow) (s : State) : (afterTurn f s).graphics = s.graphics := State.setInbound_graphics ..

/-- A request that writes one slot changes nothing else. -/
theorem answered_turn_slot {b : ReqBody} {op : State → State × Answer} {k : Fin 16} {g : Graphic} {a : Answer} (ht : Turn f h b s)
    (hop : op (afterTurn f s) = ({ afterTurn f s with graphics := (afterTurn f s).graphics.set k g }, a)) :
    takeRequest f h b (answered f h b op) s =
      { afterTurn f s with graphics := s.graphics.set k g, sent := s.sent ++ replyPackets s f h b a } := by
  obtain ⟨-, hports, hsent⟩ := afterTurn_kept f s
  rw [answered_turn_of ht hop hports]
  simp only [hsent, afterTurn_graphics]

/-! ## The statement -/

theorem exec_graphic_refused {b : ReqBody} {st : Status} (ht : Turn f h b s)
    (hst : (st = .badValue ∧ ((∃ n x y, b = .graphicBegin n x y ∧
          (15 < n ∨ x % 2 = 1 ∨ x < 2 ∨ 1920 < x ∨ y < 1 ∨ 1080 < y)) ∨
        (∃ n k d, b = .graphicSegment n k d ∧ 15 < n) ∨ ∃ n, b = .graphicEnd n ∧ 15 < n)) ∨
      (st = .malformed ∧ ∃ n k d, b = .graphicSegment n k d ∧ n ≤ 15 ∧
        ((statedPart h d).length = 0 ∨ 8192 < (statedPart h d).length))) :
    exec (commandOf f h b) s = .next { afterTurn f s with sent := s.sent ++ replyPackets s f h b (st, .none) } := by
  rcases hst with ⟨rfl, ⟨n, x, y, rfl, hbad⟩ | ⟨n, k, d, rfl, hn⟩ | ⟨n, rfl, hn⟩⟩ | ⟨rfl, n, k, d, rfl, hn, hd⟩
  · exact congrArg Host.Outcome.next (answered_turn_denied ht (graphicBeginOn_bad hbad))
  · refine congrArg Host.Outcome.next (answered_turn_denied ht ?_)
    unfold Machine.graphicSegmentOn
    rw [gslot_none hn]
  · refine congrArg Host.Outcome.next (answered_turn_denied ht ?_)
    unfold Machine.graphicEndOn
    rw [gslot_none hn]
  · exact congrArg Host.Outcome.next (answered_turn_denied ht (graphicSegmentOn_empty hn hd))

/-- Settles O49: a slot opened, its bytes at their places, and its samples clamped as it becomes READY. -/
theorem graphicsAreLoaded : Obligations.GraphicsAreLoaded := by
  unfold Obligations.GraphicsAreLoaded
  refine ⟨fun i f h b st s hi ht hst => ?_, fun f h k x y b s hb ht heven hx hx' hy hy' => ?_,
    fun f h k offset sent data b g s hb hdata ht hg hlo hhi => ?_, fun f h k b g s hb ht hg => ?_⟩
  · rw [request_command hi]
    exact exec_graphic_refused ht hst
  · subst hb
    have hop := graphicBeginOn_sized (k := k) (s := afterTurn f s) ((sizeOk_iff x y).2 ⟨heven, hx, hx', hy, hy'⟩)
    rw [slotBusy_afterTurn] at hop
    refine ⟨fun hfree => ?_, fun hbusy => ?_⟩
    · have hnot : ¬ slotBusy s k.val = true := fun hb => by
        obtain ⟨c, ⟨hen, hslot⟩ | hfill⟩ := (slotBusy_iff s k).1 hb
        · exact (hfree c).1 hen hslot
        · exact (hfree c).2 hfill
      exact congrArg Host.Outcome.next (answered_turn_slot ht (hop.trans (if_neg hnot)))
    · exact congrArg Host.Outcome.next (answered_turn_denied ht (hop.trans (if_pos ((slotBusy_iff s k).2 hbusy))))
  · subst hb hdata hg
    have hop := graphicSegmentOn_sized (k := k) (offset := offset) (s := afterTurn f s) hlo hhi
    rw [afterTurn_graphics] at hop
    refine ⟨fun hloading hfits hok => ?_, fun hloading hover => ?_, fun hnot => ?_⟩
    · obtain ⟨hrise, hbelow, -⟩ := hok
      obtain ⟨hrise', hbelow'⟩ := storeBytes_facts offset _ (statedPart h sent) _ hfits hrise hbelow
      refine ⟨storeBytes offset (statedPart h sent) s.graphics[k].bytes, congrArg Host.Outcome.next (answered_turn_slot ht ?_),
        ⟨hrise', hbelow', fun hready => absurd (hloading.symm.trans hready) (by decide)⟩, fun i hi => ?_, fun i hi => ?_⟩
      · rw [afterTurn_graphics, hop, if_neg (not_not.2 hloading), if_neg (Nat.not_lt.2 hfits)]
      · rw [cellAt_storeBytes, if_pos (by omega), Nat.add_sub_cancel_left]
      · rw [cellAt_storeBytes, if_neg (by omega)]
    · exact congrArg Host.Outcome.next
        (answered_turn_denied ht (by rw [hop, if_neg (not_not.2 hloading), if_pos hover]))
    · exact congrArg Host.Outcome.next (answered_turn_denied ht (hop.trans (if_pos hnot)))
  · subst hb hg
    obtain ⟨g', hg'⟩ : ∃ g' : Graphic, g' = if s.graphics[k].bytes.length = s.graphics[k].expected then
      { s.graphics[k] with state := .ready, bytes := clampSamples s.graphics[k].bytes }
      else { s.graphics[k] with state := .incomplete } := ⟨_, rfl⟩
    have hop := graphicEndOn_eq (k := k) (g' := g') (s := afterTurn f s) (by rw [afterTurn_graphics]; exact hg')
    rw [afterTurn_graphics] at hop
    have hwrite : s.graphics[k].state = .loading → exec (.graphicEnd f h k.val) s = .next { afterTurn f s with
        graphics := s.graphics.set k g',
        sent := s.sent ++ replyPackets s f h (.graphicEnd k.val) (.ok, .graphicEnd g'.state g'.expected g'.bytes.length) } :=
      fun hloading => congrArg Host.Outcome.next (answered_turn_slot ht (by
        rw [afterTurn_graphics, hop, if_neg (not_not.2 hloading)]))
    refine ⟨fun hloading hshort => ?_, fun hloading hall hok hsize => ⟨clampSamples s.graphics[k].bytes, ?_, fun i hi => ?_⟩,
      fun hnot => congrArg Host.Outcome.next (answered_turn_denied ht (hop.trans (if_pos hnot)))⟩
    · rw [hwrite hloading, hg', if_neg hshort]
    · rw [hwrite hloading, hg', if_pos hall]
      have hlen : (clampSamples s.graphics[k].bytes).length = s.graphics[k].expected := by
        rw [← List.length_map (f := (·.1)), clampSamples_keys, List.length_map, hall]
      simp only [hlen]
    · exact graphicSample_clamped hok hall (n := 2 * s.graphics[k].width * s.graphics[k].height)
        (by rw [hsize, Nat.mul_assoc 2, Nat.mul_comm _ 4]; omega) hi

end Sys2Proof.Machine

/-! PROOFS. The queries (R41, R98, R186, R192, R199): each answers from the state that it is taken in, and leaves it. -/

namespace Sys2Proof.Machine

open Sys2Proof

variable {f : CtlFlow} {h : Head} {b : ReqBody} {s : State}

/-- A query changes nothing, and its answer is all that is sent. -/
theorem answered_turn_query {op : State → State × Answer} {a : Answer} (ht : Turn f h b s)
    (hop : op (afterTurn f s) = (afterTurn f s, a)) :
    takeRequest f h b (answered f h b op) s = { afterTurn f s with sent := s.sent ++ replyPackets s f h b a } := by
  obtain ⟨-, hports, hsent⟩ := afterTurn_kept f s
  rw [answered_turn_of ht hop hports, hsent]

/-! ## What each query answers -/

theorem queryChannelOn_named {c : Ch} (hn : Names h c) : queryChannelOn h (afterTurn f s) =
    (afterTurn f s, .ok, .channel (channelReport s.graphics (envOf s c) s.chans[c])) := by
  unfold queryChannelOn
  rw [chanOf_names hn]
  cases f <;> rfl

theorem queryEventsOn_named {c : Ch} (hn : Names h c) (key count : Nat) : queryEventsOn h key count (afterTurn f s) =
    (afterTurn f s, if 1 ≤ count ∧ count ≤ 16 then (.ok, .events (eventsReport key count s.free s.time.rate s.chans[c].store))
      else (.badValue, .none)) := by
  unfold queryEventsOn
  rw [chanOf_names hn]
  by_cases hc : 1 ≤ count ∧ count ≤ 16
  · have hin : within 1 16 count = true := within_iff.2 hc
    rw [if_pos hc]
    refine (if_neg (by simp [hin])).trans ?_
    cases f <;> rfl
  · have hout : within 1 16 count = false := by rw [← Bool.not_eq_true, within_iff]; exact hc
    rw [if_neg hc]
    exact if_pos hout

theorem queryMonitorOn_named {c : Ch} (hn : Names h c) :
    queryMonitorOn h (afterTurn f s) = (afterTurn f s, .ok, .monitor (monitorReport s c)) := by
  have hne : h.channel ≠ 15 := by rw [show h.channel = c.val from hn]; omega
  unfold queryMonitorOn
  rw [if_neg hne, chanOf_names hn]
  cases f <;> rfl

theorem queryMonitorOn_all (hn : h.channel = 15) : queryMonitorOn h (afterTurn f s) = (afterTurn f s, .ok, .monitors
    (s.chans.toList.map fun c => (c.mon.state, c.mon.attrs.toList.map (·.flag))) s.beat s.expired) := by
  unfold queryMonitorOn
  rw [if_pos hn]
  cases f <;> rfl

section LogRead

variable {n count : Nat} {u : State}

theorem logReadOn_badValue (hc : ¬ (1 ≤ count ∧ count ≤ 16)) : logReadOn n count u = (u, .badValue, .none) :=
  if_pos (by rw [← Bool.not_eq_true, within_iff]; exact hc)

theorem logReadOn_counted (hc : 1 ≤ count ∧ count ≤ 16) : logReadOn n count u =
    match u.log.ring.dropWhile fun r => decide (r.number ≠ n), u.log.ring.head?, u.log.ring.getLast? with
    | r :: rs, some o, some y =>
      (u, .ok, .log ((r :: rs).take count) o.number y.number u.log.cursor u.log.unreported u.log.overrun)
    | _, _, _ => deny .notFound u := by
  have hin : within 1 16 count = true := within_iff.2 hc
  exact if_neg (by simp [hin])

theorem logReadOn_notFound (hc : 1 ≤ count ∧ count ≤ 16) (hn : ∀ x ∈ u.log.ring, x.number ≠ n) :
    logReadOn n count u = (u, .notFound, .none) := by
  have hnone : (u.log.ring.dropWhile fun r => decide (r.number ≠ n)) = [] :=
    List.dropWhile_eq_nil_iff.2 fun x hx => decide_eq_true (hn x hx)
  rw [logReadOn_counted hc, hnone] <;> rfl

theorem logReadOn_found {l m : List AsRunRec} {x o y : AsRunRec} (hc : 1 ≤ count ∧ count ≤ 16) (hring : u.log.ring = l ++ x :: m)
    (hx : x.number = n) (hl : ∀ z ∈ l, z.number ≠ n) (ho : u.log.ring.head? = some o) (hy : u.log.ring.getLast? = some y) :
    logReadOn n count u =
      (u, .ok, .log ((x :: m).take count) o.number y.number u.log.cursor u.log.unreported u.log.overrun) := by
  have hdrop : (u.log.ring.dropWhile fun r => decide (r.number ≠ n)) = x :: m := by
    rw [hring, List.dropWhile_append_of_pos fun z hz => decide_eq_true (hl z hz), List.dropWhile_cons, if_neg (by simp [hx])]
  rw [logReadOn_counted hc, hdrop, ho, hy] <;> rfl

end LogRead

/-! ## The statement -/

theorem exec_query_named {c : Ch} {a : Answer} (ht : Turn f h b s) (hn : Names h c)
    (hb : (b = .queryChannel ∧ a = (.ok, .channel (channelReport s.graphics (envOf s c) s.chans[c]))) ∨
      (∃ key count, b = .queryEvents key count ∧
        a = (if 1 ≤ count ∧ count ≤ 16 then (.ok, .events (eventsReport key count s.free s.time.rate s.chans[c].store))
             else (.badValue, .none))) ∨
      (b = .queryMonitor ∧ a = (.ok, .monitor (monitorReport s c)))) :
    exec (commandOf f h b) s = .next { afterTurn f s with sent := s.sent ++ replyPackets s f h b a } := by
  rcases hb with ⟨rfl, rfl⟩ | ⟨key, count, rfl, rfl⟩ | ⟨rfl, rfl⟩
  · exact congrArg Host.Outcome.next (answered_turn_query ht (queryChannelOn_named hn))
  · exact congrArg Host.Outcome.next (answered_turn_query ht (queryEventsOn_named hn key count))
  · exact congrArg Host.Outcome.next (answered_turn_query ht (queryMonitorOn_named hn))

theorem exec_query_unnamed (ht : Turn f h b s) (hn : 7 < h.channel)
    (hb : b = .queryChannel ∨ (∃ key count, b = .queryEvents key count) ∨ (b = .queryMonitor ∧ h.channel ≠ 15)) :
    exec (commandOf f h b) s = .next { afterTurn f s with sent := s.sent ++ replyPackets s f h b (.badChannel, .none) } := by
  rcases hb with rfl | ⟨key, count, rfl⟩ | ⟨rfl, hne⟩
  · refine congrArg Host.Outcome.next (answered_turn_denied ht ?_)
    unfold Machine.queryChannelOn
    rw [chanOf_none hn]
  · refine congrArg Host.Outcome.next (answered_turn_denied ht ?_)
    unfold Machine.queryEventsOn
    rw [chanOf_none hn]
  · refine congrArg Host.Outcome.next (answered_turn_denied ht ?_)
    unfold Machine.queryMonitorOn
    rw [if_neg hne, chanOf_none hn]

theorem exec_logRead {n count : Nat} {a : Answer} (ht : Turn f h (.logRead n count) s)
    (ha : (¬ (1 ≤ count ∧ count ≤ 16) ∧ a = (.badValue, .none)) ∨
      (1 ≤ count ∧ count ≤ 16 ∧ (∀ x ∈ s.log.ring, x.number ≠ n) ∧ a = (.notFound, .none)) ∨
      (1 ≤ count ∧ count ≤ 16 ∧ ∃ l m x o y, s.log.ring = l ++ x :: m ∧ x.number = n ∧ (∀ z ∈ l, z.number ≠ n) ∧
        s.log.ring.head? = some o ∧ s.log.ring.getLast? = some y ∧
        a = (.ok, .log ((x :: m).take count) o.number y.number s.log.cursor s.log.unreported s.log.overrun))) :
    exec (.logRead f h n count) s =
      .next { afterTurn f s with sent := s.sent ++ replyPackets s f h (.logRead n count) a } := by
  have hlog : (afterTurn f s).log = s.log := State.setInbound_log ..
  refine congrArg Host.Outcome.next (answered_turn_query ht ?_)
  rcases ha with ⟨hc, rfl⟩ | ⟨hlo, hhi, hn, rfl⟩ | ⟨hlo, hhi, l, m, x, o, y, hring, hx, hl, ho, hy, rfl⟩
  · exact logReadOn_badValue hc
  · exact logReadOn_notFound ⟨hlo, hhi⟩ (by rw [hlog]; exact hn)
  · rw [← hlog] at hring ho hy ⊢
    exact logReadOn_found ⟨hlo, hhi⟩ hring hx hl ho hy

/-- Settles O51: each query's answer, with its refusals. -/
theorem queriesReportAndChangeNothing : Obligations.QueriesReportAndChangeNothing := by
  unfold Obligations.QueriesReportAndChangeNothing
  intro f h i b a s hi ht hb
  rw [request_command hi]
  rcases hb with ⟨c, hn, hb⟩ | ⟨hn, rfl, hb⟩ | ⟨hn, rfl, rfl⟩ | ⟨rfl, rfl⟩ | ⟨n, count, rfl, ha⟩
  · exact exec_query_named ht hn hb
  · exact exec_query_unnamed ht hn hb
  · exact congrArg Host.Outcome.next (answered_turn_query ht (queryMonitorOn_all hn))
  · exact congrArg Host.Outcome.next (answered_turn_query ht rfl)
  · exact exec_logRead ht ha

end Sys2Proof.Machine

/-! PROOFS. The bytes of a batch's operations read back as those operations (R44, R200). -/

namespace Sys2Proof.Machine

open Sys2Proof

/-! ## Numbers -/

theorem beBytes_length (n v : Nat) : (beBytes n v).length = n := by
  induction n with
  | zero => rfl
  | succ n ih => rw [beBytes, List.length_cons, ih]

/-- The digits to base 256, most significant first, behind those read before. -/
theorem foldl_beBytes (n v a : Nat) :
    (beBytes n v).foldl (fun (k : Nat) (b : Byte) => k * 256 + b.toNat) a = a * 256 ^ n + v % 256 ^ n := by
  induction n generalizing a with
  | zero => simp [beBytes, Nat.mod_one]
  | succ n ih =>
    have hmod : v % 256 ^ (n + 1) = v % 256 ^ n + 256 ^ n * (v / 256 ^ n % 256) := by rw [Nat.pow_succ, Nat.mod_mul]
    rw [beBytes, List.foldl_cons, ih, BitVec.toNat_ofNat, hmod]
    ring

theorem readBe_beBytes {n v : Nat} (hv : v < 256 ^ n) (l : List Byte) : readBe n (beBytes n v ++ l) = some (v, l) := by
  have hlen := beBytes_length n v
  have hval : beNat (beBytes n v) = v := by
    rw [beNat, foldl_beBytes, Nat.zero_mul, Nat.zero_add, Nat.mod_eq_of_lt hv]
  rw [readBe, if_neg (by rw [List.length_append]; omega), List.take_left' hlen, List.drop_left' hlen, hval]

/-- A field read first, and what is done with it. -/
theorem bind_readBe {α : Type} {n v : Nat} (hv : v < 256 ^ n) (l : List Byte) (k : Nat × List Byte → Option α) :
    (readBe n (beBytes n v ++ l) >>= k) = k (v, l) := by
  rw [readBe_beBytes hv]; rfl

theorem bind_readLabel {α : Type} (x : Label) (l : List Byte) (k : Label × List Byte → Option α) :
    (readLabel (labelBytes x ++ l) >>= k) = k (x, l) := rfl

/-! ## Operations -/

theorem readTriggers_bytes {ts : List (Nat × Nat)} (hts : ∀ t ∈ ts, t.1 < 256 ∧ t.2 < two32) (l : List Byte) :
    readTriggers ts.length ((ts.flatMap fun t => beBytes 1 t.1 ++ beBytes 4 t.2) ++ l) = some (ts, l) := by
  induction ts with
  | nil => rfl
  | cons t ts ih =>
    obtain ⟨hcode, hoffset⟩ := hts t List.mem_cons_self
    have htail := ih fun u hu => hts u (List.mem_cons_of_mem _ hu)
    rw [List.flatMap_cons, List.length_cons, List.append_assoc, List.append_assoc]
    refine (bind_readBe hcode _ _).trans ?_
    refine (bind_readBe hoffset _ _).trans ?_
    dsimp only
    rw [htail]
    rfl

theorem readPut_putBytes {p : Put} (hp : BatchOp.fits (.put p) = true) (l : List Byte) :
    readPut (putBytes p ++ l) = some (p, l) := by
  simp only [BatchOp.fits, Bool.and_eq_true, decide_eq_true_eq, List.all_eq_true, and_assoc] at hp
  obtain ⟨hid, hkey, htiming, haction, hpasses, htriggers, hday, hduration, hclip, hin, hsubst, hts⟩ := hp
  rw [putBytes]
  simp only [List.append_assoc]
  refine (bind_readBe hid _ _).trans ?_
  refine (bind_readBe hkey _ _).trans ?_
  refine (bind_readBe htiming _ _).trans ?_
  refine (bind_readBe haction _ _).trans ?_
  refine (bind_readBe hpasses _ _).trans ?_
  refine (bind_readBe htriggers _ _).trans ?_
  refine (bind_readBe hday _ _).trans ?_
  refine (bind_readLabel _ _ _).trans ?_
  refine (bind_readBe hduration _ _).trans ?_
  refine (bind_readBe hclip _ _).trans ?_
  refine (bind_readBe hin _ _).trans ?_
  refine (bind_readBe hsubst _ _).trans ?_
  dsimp only
  rw [readTriggers_bytes hts]
  rfl

theorem readOp_opBytes {o : BatchOp} (ho : BatchOp.fits o = true) (l : List Byte) : readOp (opBytes o ++ l) = some (o, l) := by
  cases o with
  | put p =>
    rw [opBytes, List.append_assoc]
    refine (bind_readBe (by decide) _ _).trans ?_
    dsimp only
    rw [if_pos rfl, readPut_putBytes ho]
    rfl
  | remove id =>
    have hid : id < 256 ^ 4 := of_decide_eq_true ho
    rw [opBytes, List.append_assoc]
    refine (bind_readBe (by decide) _ _).trans ?_
    dsimp only
    rw [if_neg (by decide), if_pos rfl]
    exact bind_readBe hid _ _

theorem opBytes_length_pos (o : BatchOp) : 0 < (opBytes o).length := by
  cases o <;> simp [opBytes, beBytes_length]

theorem opBytes_total (ops : List BatchOp) : ops.length ≤ (ops.flatMap opBytes).length := by
  induction ops with
  | nil => exact Nat.zero_le _
  | cons o ops ih =>
    have := opBytes_length_pos o
    rw [List.flatMap_cons, List.length_append, List.length_cons]
    omega

/-- Enough fuel reads a list of operations to its end. -/
theorem readOpsAux_bytes {fuel : Nat} {ops : List BatchOp} (hops : ∀ o ∈ ops, BatchOp.fits o = true) (hfuel : ops.length ≤ fuel) :
    readOpsAux fuel (ops.flatMap opBytes) = some ops := by
  induction ops generalizing fuel with
  | nil => cases fuel <;> rfl
  | cons o ops ih =>
    obtain ⟨n, rfl⟩ : ∃ n, fuel = n + 1 := ⟨fuel - 1, by rw [List.length_cons] at hfuel; omega⟩
    have htail := ih (fun u hu => hops u (List.mem_cons_of_mem _ hu)) (Nat.le_of_succ_le_succ hfuel)
    have hread := readOp_opBytes (hops o List.mem_cons_self) (ops.flatMap opBytes)
    obtain ⟨b, rest, hbytes⟩ : ∃ b rest, opBytes o ++ ops.flatMap opBytes = b :: rest := by
      have := opBytes_length_pos o
      exact List.exists_cons_of_length_pos (by rw [List.length_append]; omega)
    rw [hbytes] at hread
    rw [List.flatMap_cons, hbytes]
    show (readOp (b :: rest) >>= _) = _
    rw [hread, Option.bind_eq_bind, Option.bind_some]
    dsimp only
    rw [htail]
    rfl

/-- Settles O56: each field reads back in its bytes, each operation in its own, and the list to its end. -/
theorem batchBytesReadBack : Obligations.BatchBytesReadBack := fun ops hops => readOpsAux_bytes hops (opBytes_total ops)

end Sys2Proof.Machine

/-! PROOFS. The As-Run Log (R179 to R183): the test of R183, the ring, and the records that wait for the end of a period. -/

namespace Sys2Proof.Machine

open Sys2Proof

/-! ## The test of R183 -/

theorem asRunDue_bounds {s : State} {n : Nat} (h : asRunDue s = some n) : 0 < n ∧ n ≤ s.log.unreported := by
  unfold asRunDue at h
  dsimp only at h
  split at h
  · cases h
  case isFalse hnot =>
    simp only [not_or] at hnot
    obtain ⟨hsize, -, hun⟩ := hnot
    split at h
    · cases h; omega
    · split at h
      · split at h
        · cases h; omega
        · cases h
      · cases h

theorem waiting_length {l : Log} (h : LogOk l) : l.waiting.length = l.unreported := by
  obtain ⟨-, hle, -⟩ := h
  rw [Log.waiting, List.length_drop]
  omega

/-- The notice of the `n` oldest unreported records. -/
theorem emitAsRun_eq {s : State} {n : Nat} (h : LogOk s.log) (hn : n ≤ s.log.unreported) : emitAsRun n s =
    { s with log := { s.log with unreported := s.log.unreported - n, overrun := 0 }, nextLocal := (s.nextLocal + 1) % two16,
             sent := s.sent ++ noticePackets s .loc s.nextLocal 15
               (.asRun s.log.cursor n (s.log.waiting.take n) s.log.overrun (s.log.unreported - n) s.now) } := by
  have hlen : (s.log.waiting.take n).length = n := by rw [List.length_take, waiting_length h]; omega
  unfold emitAsRun
  dsimp only
  rw [notice_local_eq, hlen]
  rfl

theorem logOk_reported {l : Log} {n : Nat} (h : LogOk l) (hn : n ≤ l.unreported) : LogOk { l with unreported := n, overrun := 0 } :=
  logOk_of_eq (l := l) rfl rfl hn h

/-- What the test of R183 leaves of the log, and that it ends with nothing due. -/
theorem asRunTest_spec {fuel : Nat} {s : State} (h : LogOk s.log) (hfuel : s.log.unreported ≤ fuel) :
    (asRunTest fuel s).log.ring = s.log.ring ∧ (asRunTest fuel s).log.counter = s.log.counter ∧ LogOk (asRunTest fuel s).log ∧
      (asRunTest fuel s).log.unreported ≤ s.log.unreported ∧ asRunDue (asRunTest fuel s) = none := by
  induction fuel generalizing s with
  | zero =>
    refine ⟨rfl, rfl, h, Nat.le_refl _, ?_⟩
    cases hdue : asRunDue s with
    | none => exact hdue
    | some n => have := asRunDue_bounds hdue; omega
  | succ fuel ih =>
    unfold asRunTest
    split
    case h_2 hdue => exact ⟨rfl, rfl, h, Nat.le_refl _, hdue⟩
    case h_1 n hdue =>
      obtain ⟨hpos, hle⟩ := asRunDue_bounds hdue
      have hlog : (emitAsRun n s).log = { s.log with unreported := s.log.unreported - n, overrun := 0 } := by
        rw [emitAsRun_eq h hle]
      obtain ⟨hring, hcounter, hok, hun, hend⟩ := ih (s := emitAsRun n s)
        (by rw [hlog]; exact logOk_reported h (Nat.sub_le _ _)) (by rw [hlog]; show s.log.unreported - n ≤ fuel; omega)
      rw [hlog] at hring hcounter hun
      exact ⟨hring, hcounter, hok, hun.trans (Nat.sub_le _ _), hend⟩

/-- The first notice of the test, when one is due. -/
theorem testAsRun_due {s : State} {n : Nat} (h : LogOk s.log) (hdue : asRunDue s = some n) :
    s.testAsRun.log.unreported < s.log.unreported ∧
      s.sent ++ noticePackets s .loc s.nextLocal 15 (.asRun s.log.cursor n (s.log.waiting.take n) s.log.overrun
        (s.log.unreported - n) s.now) <+: s.testAsRun.sent := by
  obtain ⟨hpos, hle⟩ := asRunDue_bounds hdue
  obtain ⟨k, hk⟩ : ∃ k, s.log.unreported = k + 1 := ⟨s.log.unreported - 1, by omega⟩
  have htest : s.testAsRun = asRunTest k (emitAsRun n s) := by
    unfold State.testAsRun
    rw [hk, asRunTest, hdue]
  have hemit := emitAsRun_eq h hle
  have hlog : (emitAsRun n s).log = { s.log with unreported := s.log.unreported - n, overrun := 0 } := by rw [hemit]
  obtain ⟨-, -, -, hun, -⟩ := asRunTest_spec (fuel := k) (s := emitAsRun n s)
    (by rw [hlog]; exact logOk_reported h (Nat.sub_le _ _)) (by rw [hlog]; show s.log.unreported - n ≤ k; omega)
  rw [hlog] at hun
  have hun' : (asRunTest k (emitAsRun n s)).log.unreported ≤ s.log.unreported - n := hun
  have hcalm := (asRunTest_calm k (emitAsRun n s)).2
  rw [htest]
  refine ⟨by omega, ?_⟩
  rwa [hemit] at hcalm ⊢

theorem testAsRun_none {s : State} (hdue : asRunDue s = none) : s.testAsRun = s := by
  unfold State.testAsRun
  cases hn : s.log.unreported with
  | zero => rfl
  | succ k => rw [asRunTest, hdue]

/-! ## The ring (R179, R181) -/

theorem append_last (l : Log) (r : RecProto) :
    (l.append r).ring.getLast? = some { number := l.counter, body := r, tick := l.tick } := by
  simp [Log.append]

theorem append_room {l : Log} (h : l.ring.length < 1024) (r : RecProto) : (l.append r).ring.dropLast = l.ring ∧
    (l.append r).unreported = l.unreported + 1 ∧ (l.append r).overrun = l.overrun := by
  have hroom : ¬ Config.ringSize ≤ l.ring.length := Nat.not_le.2 h
  simp [Log.append, hroom]

theorem append_full {l : Log} (h : l.ring.length = 1024) (r : RecProto) : (l.append r).ring.dropLast = l.ring.drop 1 ∧
    (l.unreported < 1024 → (l.append r).unreported = l.unreported + 1 ∧ (l.append r).overrun = l.overrun) ∧
    (l.unreported = 1024 → (l.append r).unreported = 1024 ∧ (l.append r).overrun = sat32 l.overrun) := by
  have hfull : Config.ringSize ≤ 1024 := by decide
  refine ⟨by simp [Log.append, h, hfull], fun hun => ?_, fun hun => ?_⟩
  · simp [Log.append, h, hfull, Nat.not_le.2 hun]
  · simp [Log.append, h, hfull, hun]

/-! ## The records that wait for the end of a period (R160) -/

/-- The part with other TRIGGER records waiting. -/
def State.waitingTriggers (l : List RecProto) (s : State) : State := { s with log := { s.log with triggers := l } }

theorem emitAsRun_waitingTriggers (n : Nat) (l : List RecProto) (s : State) :
    emitAsRun n (s.waitingTriggers l) = (emitAsRun n s).waitingTriggers l := by
  unfold emitAsRun
  dsimp only
  rw [notice_local_eq, notice_local_eq]
  rfl

theorem asRunTest_waitingTriggers (n : Nat) (l : List RecProto) (s : State) :
    asRunTest n (s.waitingTriggers l) = (asRunTest n s).waitingTriggers l := by
  induction n generalizing s with
  | zero => rfl
  | succ n ih =>
    have hdue : asRunDue (s.waitingTriggers l) = asRunDue s := rfl
    unfold asRunTest
    rw [hdue]
    cases asRunDue s with
    | none => rfl
    | some k => exact (congrArg (asRunTest n) (emitAsRun_waitingTriggers k l s)).trans (ih _)

theorem testAsRun_waitingTriggers (l : List RecProto) (s : State) :
    (s.waitingTriggers l).testAsRun = s.testAsRun.waitingTriggers l := asRunTest_waitingTriggers _ l s

theorem closePeriod_eq (s : State) : s.closePeriod = s.log.triggers.foldl State.append (s.waitingTriggers []) := by
  unfold State.closePeriod State.appendTriggers State.waitingTriggers
  simp

/-- The first of the waiting records joins, then the others. -/
theorem closePeriod_cons {s : State} {r : RecProto} {l : List RecProto} (h : s.log.triggers = r :: l) :
    s.closePeriod = State.closePeriod (State.testAsRun { s with log := { s.log.append r with triggers := l } }) := by
  obtain ⟨v, hv⟩ : ∃ v : State, v = { s with log := s.log.append r } := ⟨_, rfl⟩
  have hjoined : State.testAsRun { s with log := { s.log.append r with triggers := l } } = v.testAsRun.waitingTriggers l := by
    rw [← testAsRun_waitingTriggers, hv]; rfl
  have hfirst : State.append (s.waitingTriggers []) r = v.testAsRun.waitingTriggers [] := by
    rw [← testAsRun_waitingTriggers, hv]; rfl
  rw [hjoined, closePeriod_eq, closePeriod_eq, h, List.foldl_cons, hfirst]
  rfl

/-! ## The statement -/

/-- Settles O35: AS_RUN, the ring as a record joins it, and the TRIGGER records at the end of a period. -/
theorem recordsJoinTheRingAndAreReported : Obligations.RecordsJoinTheRingAndAreReported := by
  unfold Obligations.RecordsJoinTheRingAndAreReported
  refine ⟨fun s hpow hok => ?_, fun l r hok => ⟨logOk_append r hok, append_last l r, rfl, fun h => append_room h r,
    fun h => append_full h r⟩, fun s r => ⟨fun h => if_neg h, fun h => if_pos h⟩, fun s => ⟨fun n => boundaryAt_log n s,
    closePeriod_tick s, closePeriod_nil, fun r l h => closePeriod_cons h⟩⟩
  obtain ⟨hring, hcounter, hok', -, hend⟩ := asRunTest_spec hok (Nat.le_refl _)
  exact ⟨s.testAsRun, congrArg Host.Outcome.next (live_on hpow), hring, hcounter, asRunTest_tick _ s, (testAsRun_heard s).2, hok',
    hend, fun n hn => testAsRun_due hok hn, testAsRun_none⟩

end Sys2Proof.Machine

/-! PROOFS. SET_PARAM and GET_PARAM (R193, R194): a value put is read back and no other parameter moves; what the part and the
channels named make of it. -/

namespace Sys2Proof.Machine

open Sys2Proof

/-! ## A value put is read back -/

theorem PartParams.get_put_self {p : PartParam} {v : Nat} (hv : PartParam.admits p v = true) (x : PartParams) :
    (x.put v p).get p = v := by
  cases p
  case rateCode =>
    have hle : v ≤ 3 := (within_iff.1 hv).2
    show rateNum (pick rateCodes .f25 v) = v
    interval_cases v <;> rfl
  all_goals rfl

theorem classNum_pick {v : Nat} (hv : v ≤ 2) : classNum (pick [.off, .advisory, .decisive] .off v) = v := by
  interval_cases v <;> rfl

theorem ChanParams.get_put_self {p : ChanParam} {v : Nat} (hv : ChanParam.admits p v = true) (hattr : ChanParam.badAttr p = false)
    (x : ChanParams) : (x.put v p).get p = v := by
  cases p
  case policy =>
    have hle : v ≤ 1 := (within_iff.1 hv).2
    interval_cases v <;> rfl
  case standby =>
    have hle : v ≤ 1 := (within_iff.1 hv).2
    interval_cases v <;> rfl
  case resumeMode =>
    have hle : v ≤ 1 := (within_iff.1 hv).2
    interval_cases v <;> rfl
  case permission =>
    have hle : v ≤ 1 := (within_iff.1 hv).2
    interval_cases v <;> rfl
  case fill =>
    have hle : v ≤ 16 := (within_iff.1 hv).2
    show fillNum (fillOf v) = v
    interval_cases v <;> rfl
  case attrClass n =>
    have hn : n < 8 := Nat.not_lt.1 (of_decide_eq_false hattr) |> Nat.lt_succ_of_le
    simp only [ChanParams.put, ChanParams.get, attrAt_attrPut, hn, and_self, if_true]
    exact classNum_pick (within_iff.1 hv).2
  case attrThreshold n =>
    have hn : n < 8 := Nat.not_lt.1 (of_decide_eq_false hattr) |> Nat.lt_succ_of_le
    simp only [ChanParams.put, ChanParams.get, attrAt_attrPut, hn, and_self, if_true]
  all_goals rfl

/-! ## Parameters of the part -/

section Part

variable {f : CtlFlow} {h : Head} {s : State}

theorem setParamOn_part {p : PartParam} {v : Nat} (hch : h.channel = 15) (hv : PartParam.admits p v = true) :
    setParamOn h (.part p) v s = (putPart p v s, .ok, .values [(putPart p v s).params.part.get p]) := by
  show (if h.channel ≠ 15 then _ else if PartParam.admits p v = false then _ else _) = _
  rw [if_neg (not_not.2 hch), if_neg (by simp [hv])]

theorem putPart_quiet {p : PartParam} (hb : p ≠ .batchSize) (hf : p ≠ .flushInterval) (v : Nat) (s : State) :
    putPart p v s = { s with params := { s.params with part := s.params.part.put v p } } :=
  if_neg (by simp [hb, hf])

theorem putPart_tested {p : PartParam} (hp : p = .batchSize ∨ p = .flushInterval) (v : Nat) (s : State) :
    putPart p v s = State.testAsRun { s with params := { s.params with part := s.params.part.put v p } } := if_pos hp

theorem putPart_heard (p : PartParam) (v : Nat) (s : State) :
    Heard { s with params := { s.params with part := s.params.part.put v p } } (putPart p v s) := by
  unfold putPart
  dsimp only
  split
  · exact testAsRun_heard _
  · exact Heard.refl _

theorem putPart_get {p : PartParam} {v : Nat} (hv : PartParam.admits p v = true) (s : State) :
    (putPart p v s).params.part.get p = v := by
  obtain ⟨⟨-, -, -, -, hparams, -⟩, -⟩ := putPart_heard p v s
  rw [hparams]
  exact PartParams.get_put_self hv _

theorem afterTurn_put (f : CtlFlow) (p : PartParam) (v : Nat) (s : State) :
    { afterTurn f s with params := { (afterTurn f s).params with part := (afterTurn f s).params.part.put v p } } =
      { afterTurn f s with params := { s.params with part := s.params.part.put v p } } := by cases f <;> rfl

/-- A part-wide parameter set. -/
theorem exec_setPart {p : PartParam} {v : Nat} (ht : Turn f h (.setParam (.part p) v) s) (hch : h.channel = 15)
    (hv : PartParam.admits p v = true) : exec (.setParam f h (.part p) v) s = .next { putPart p v (afterTurn f s) with
      sent := (putPart p v (afterTurn f s)).sent ++ replyPackets s f h (.setParam (.part p) v) (.ok, .values [v]) } := by
  obtain ⟨⟨-, -, hports, -⟩, -⟩ := putPart_heard p v (afterTurn f s)
  refine congrArg Host.Outcome.next (answered_turn_of ht ?_ (hports.trans (afterTurn_kept f s).2.1))
  rw [setParamOn_part hch hv, putPart_get hv]

end Part

/-- Settles O45: a value of its range is put and read back, with the test of R183 where the log's notices depend on it. -/
theorem partParametersAreSetAndRead : Obligations.PartParametersAreSetAndRead := by
  unfold Obligations.PartParametersAreSetAndRead
  refine ⟨fun f h p v b s u hb ht hu => ?_, fun x p q v hv => ?_, fun f h s => ⟨fun p ht => ?_, fun code ht => ?_⟩⟩
  · subst hb
    obtain ⟨-, -, hsent⟩ := afterTurn_kept f s
    refine ⟨fun hch hv hb hf => ?_, fun hch hv hp => ?_, fun hch hv => ?_, fun hch => ?_⟩
    · rw [exec_setPart ht hch hv, putPart_quiet hb hf, afterTurn_put, hu, ← hsent]
    · have hpow : u.powered = true := by
        obtain ⟨hpow, -⟩ := ht
        rw [hu]
        exact (State.setInbound_powered ..).trans hpow
      refine ⟨u.testAsRun, congrArg Host.Outcome.next (live_on hpow), ?_⟩
      rw [exec_setPart ht hch hv, putPart_tested hp, afterTurn_put, hu]
    · have hop : setParamOn h (.part p) v (afterTurn f s) = (({ afterTurn f s with params := { s.params with part :=
          if p = .batchSize then { s.params.part with batchSize := 0 } else s.params.part } } : State), .badValue, .none) := by
        show (if h.channel ≠ 15 then _ else if PartParam.admits p v = false then _ else _) = _
        rw [if_neg (not_not.2 hch), if_pos hv]
        by_cases hp : p = .batchSize
        · rw [if_pos hp, if_pos hp]; cases f <;> rfl
        · rw [if_neg hp, if_neg hp]; cases f <;> rfl
      refine congrArg Host.Outcome.next ((answered_turn_of ht hop (afterTurn_kept f s).2.1).trans ?_)
      dsimp only
      rw [hsent]
    · exact congrArg Host.Outcome.next (answered_turn_denied ht (if_pos hch))
  · rw [PartParams.get_put]
    split
    · exact PartParams.get_put_self hv x
    · rfl
  · refine congrArg Host.Outcome.next (answered_turn_query ht ?_)
    show (if h.channel ≠ 15 then _ else _) = _
    by_cases hch : h.channel = 15
    · rw [if_neg (not_not.2 hch), if_pos hch]; cases f <;> rfl
    · rw [if_pos hch, if_neg hch]; rfl
  · refine congrArg Host.Outcome.next (answered_turn_query ht ?_)
    show (if 255 < code then _ else _) = _
    by_cases hcode : code ≤ 255
    · rw [if_neg (Nat.not_lt.2 hcode), if_pos hcode, afterTurn_table]
    · rw [if_pos (Nat.not_le.1 hcode), if_neg hcode]; rfl

end Sys2Proof.Machine

/-! PROOFS. The parameters of the channels (R193, R194): SET_PARAM on the channels that a header names, one after another. -/

namespace Sys2Proof.Machine

open Sys2Proof

/-! ## One channel -/

theorem modParams_here (s : State) (c : Ch) (f : ChanParams → ChanParams) :
    (s.modParams c f).params.chans[c] = f s.params.chans[c] := by simp [State.modParams]

theorem modParams_other (s : State) {c d : Ch} (hd : d ≠ c) (f : ChanParams → ChanParams) :
    (s.modParams c f).params.chans[d] = s.params.chans[d] := by
  have : c.val ≠ d.val := fun e => hd (Fin.ext e.symm)
  simp [State.modParams, this]

section One

variable (p : ChanParam) (v : Nat) (s : State) (c : Ch)

theorem putChan_params : (putChan p v s c).params = (s.modParams c fun x => x.put v p).params := by
  obtain ⟨-, -, -, -, h, -⟩ := runCh_kept c (paramChanged p s.params.chans[c]) (s.modParams c fun x => x.put v p)
  exact h

theorem putChan_kept : PartKept { s with params := (putChan p v s c).params } (putChan p v s c) := by
  rw [putChan_params]
  exact runCh_kept c (paramChanged p s.params.chans[c]) (s.modParams c fun x => x.put v p)

theorem putChan_here : (putChan p v s c).chans[c] =
    (ranCh c (paramChanged p s.params.chans[c]) (s.modParams c fun x => x.put v p)).ch := runCh_here ..

theorem putChan_others {d : Ch} (hd : d ≠ c) : (putChan p v s c).chans[d] = s.chans[d] :=
  runCh_others c (paramChanged p s.params.chans[c]) (s.modParams c fun x => x.put v p) d hd

end One

/-! ## The channels one after another -/

section Fold

variable {p : ChanParam} {v : Nat}

theorem putChans_kept (cs : List Ch) (s : State) :
    PartKept { s with params := (cs.foldl (putChan p v) s).params } (cs.foldl (putChan p v) s) ∧
      (cs.foldl (putChan p v) s).params.part = s.params.part := by
  induction cs generalizing s with
  | nil => exact ⟨PartKept.refl s, rfl⟩
  | cons c cs ih =>
    obtain ⟨hkept, hpart⟩ := ih (putChan p v s c)
    rw [List.foldl_cons]
    generalize hu : cs.foldl (putChan p v) (putChan p v s c) = u at hkept hpart ⊢
    have hone := putChan_kept p v s c
    rw [putChan_params] at hpart
    refine ⟨?_, hpart⟩
    simp only [PartKept] at hkept hone ⊢
    simp_all

theorem putChans_unnamed {cs : List Ch} {c : Ch} (hc : c ∉ cs) (s : State) :
    (cs.foldl (putChan p v) s).params.chans[c] = s.params.chans[c] ∧ (cs.foldl (putChan p v) s).chans[c] = s.chans[c] := by
  induction cs generalizing s with
  | nil => exact ⟨rfl, rfl⟩
  | cons d cs ih =>
    rw [List.mem_cons, not_or] at hc
    obtain ⟨hcd, hcs⟩ := hc
    obtain ⟨hparams, hchan⟩ := ih hcs (putChan p v s d)
    rw [List.foldl_cons, hparams, hchan, putChan_params, putChan_others _ _ _ _ hcd, modParams_other s hcd]
    exact ⟨rfl, rfl⟩

/-- A named channel takes its turn as the part's channels and parameters stood, and is left alone after it. -/
theorem putChans_named {cs : List Ch} {c : Ch} (hnodup : cs.Nodup) (hc : c ∈ cs) (s : State) :
    ∃ u : State, u.chans[c] = s.chans[c] ∧ u.params.chans[c] = s.params.chans[c] ∧
      (cs.foldl (putChan p v) s).params.chans[c] = s.params.chans[c].put v p ∧
      (cs.foldl (putChan p v) s).chans[c] =
        (ranCh c (paramChanged p s.params.chans[c]) (u.modParams c fun x => x.put v p)).ch := by
  induction cs generalizing s with
  | nil => cases hc
  | cons d cs ih =>
    obtain ⟨hd, hnodup⟩ := List.nodup_cons.1 hnodup
    rcases List.mem_cons.1 hc with rfl | hc
    · obtain ⟨hparams, hchan⟩ := putChans_unnamed (p := p) (v := v) hd (putChan p v s c)
      refine ⟨s, rfl, rfl, ?_, ?_⟩
      · rw [List.foldl_cons, hparams, putChan_params, modParams_here]
      · rw [List.foldl_cons, hchan, putChan_here]
    · have hcd : c ≠ d := fun h => hd (h ▸ hc)
      obtain ⟨u, hchan, hparams, hput, hran⟩ := ih hnodup hc (putChan p v s d)
      rw [putChan_others _ _ _ _ hcd] at hchan
      rw [putChan_params, modParams_other s hcd] at hparams hput hran
      exact ⟨u, hchan, hparams, hput, hran⟩

theorem putChans_calm (cs : List Ch) (s : State) : s.sent <+: (cs.foldl (putChan p v) s).sent := by
  induction cs generalizing s with
  | nil => exact List.prefix_refl _
  | cons c cs ih => exact (putChan_calm p v s c).2.trans (ih _)

/-- A parameter that no block acts on at once. -/
theorem putChan_quiet (hquiet : ∀ x env w, paramChanged p x env w = w) (s : State) (c : Ch) :
    putChan p v s c = s.modParams c fun x => x.put v p := runCh_unmoved (hquiet _ _ _)

theorem putChans_quiet (hquiet : ∀ x env w, paramChanged p x env w = w) (cs : List Ch) (s : State) :
    ∃ m, cs.foldl (putChan p v) s = { s with params := m } := by
  induction cs generalizing s with
  | nil => exact ⟨_, rfl⟩
  | cons c cs ih =>
    obtain ⟨m, hm⟩ := ih (putChan p v s c)
    rw [putChan_quiet hquiet] at hm
    exact ⟨m, by rw [List.foldl_cons, putChan_quiet hquiet, hm]; rfl⟩

end Fold

/-- The parameters that reach no block at once. -/
theorem paramChanged_quiet {p : ChanParam} (hlead : p ≠ .prerollLead) (hmargin : p ≠ .cueMargin) (hstandby : p ≠ .standby)
    (hsweep : p ≠ .sweepDepth) (hclass : ∀ n, p ≠ .attrClass n) (x : ChanParams) (env : Env) (w : W) :
    paramChanged p x env w = w := by
  cases p
  case prerollLead => exact absurd rfl hlead
  case cueMargin => exact absurd rfl hmargin
  case standby => exact absurd rfl hstandby
  case sweepDepth => exact absurd rfl hsweep
  case attrClass n => exact absurd rfl (hclass n)
  all_goals rfl

/-! ## A class taken from ADVISORY (R89) -/

theorem pick_advisory {v : Nat} (hv : v ≤ 2) : pick [AttrClass.off, .advisory, .decisive] .off v = .advisory ↔ v = 1 := by
  interval_cases v <;> decide

theorem classChanged_flag {n : Fin 8} {before : AttrClass} {env : Env} {w : W} :
    ((classChanged n.val before env w).ch.mon.attrs[n]).flag =
      (if before = .advisory ∧ (env.cp.attrs[n]).cls ≠ .advisory then false else (w.ch.mon.attrs[n]).flag) := by
  have hset := setFlag_attrs n false w n
  rw [if_pos rfl] at hset
  unfold classChanged
  rw [dif_pos n.isLt]
  by_cases hcleared : before = .advisory ∧ (env.cp.attrs[n]).cls ≠ .advisory
  · rw [if_pos hcleared]
    by_cases hflag : (w.ch.mon.attrs[n]).flag = true
    · refine (congrArg (fun u : W => (u.ch.mon.attrs[n]).flag) (if_pos ⟨hcleared.1, hcleared.2, hflag⟩)).trans ?_
      show ((setFlag n false w).ch.mon.attrs[n]).flag = false
      rw [hset]
    · refine (congrArg (fun u : W => (u.ch.mon.attrs[n]).flag) (if_neg fun h => hflag h.2.2)).trans ?_
      simpa using hflag
  · rw [if_neg hcleared]
    exact congrArg (fun u : W => (u.ch.mon.attrs[n]).flag) (if_neg fun h => hcleared ⟨h.1, h.2.1⟩)

theorem putClass_flag {n : Fin 8} {v : Nat} (hv : v ≤ 2) {s u : State} {c : Ch} (hchan : u.chans[c] = s.chans[c])
    (hparams : u.params.chans[c] = s.params.chans[c]) :
    ((ranCh c (paramChanged (.attrClass n.val) s.params.chans[c])
        (u.modParams c fun x => x.put v (.attrClass n.val))).ch.mon.attrs[n]).flag =
      (if (s.params.chans[c].attrs[n]).cls = .advisory ∧ v ≠ 1 then false else (s.chans[c].mon.attrs[n]).flag) := by
  obtain ⟨env, henv⟩ : ∃ env, env = envOf (u.modParams c fun x => x.put v (.attrClass n.val)) c := ⟨_, rfl⟩
  have hcp : env.cp = s.params.chans[c].put v (.attrClass n.val) := by
    rw [henv]
    exact (modParams_here u c _).trans (by rw [hparams])
  have hcls : (env.cp.attrs[n]).cls = pick [.off, .advisory, .decisive] .off v := by
    rw [hcp]
    simp [ChanParams.put, attrPut]
  have hbefore : attrAt s.params.chans[c].attrs n.val = s.params.chans[c].attrs[n] := by simp [attrAt]
  have hmon : (begun u c).ch.mon = s.chans[c].mon := congrArg Chan.mon hchan
  have hne : (env.cp.attrs[n]).cls ≠ .advisory ↔ v ≠ 1 := by rw [hcls]; exact not_congr (pick_advisory hv)
  have hflag := classChanged_flag (n := n) (before := (s.params.chans[c].attrs[n]).cls) (env := env) (w := begun u c)
  refine Eq.trans ?_ (hflag.trans (if_congr (and_congr_right fun _ => hne) rfl (by rw [hmon])))
  rw [← hbefore, henv]
  rfl

/-! ## The request -/

section Request

variable {f : CtlFlow} {h : Head} {s : State} {p : ChanParam} {v : Nat} {cs : List Ch}

theorem chanTargets_of (hcs : h.channel = 15 ∧ cs = List.finRange 8 ∨ ∃ c : Ch, Names h c ∧ cs = [c]) :
    chanTargets h.channel = some cs ∧ cs.Nodup := by
  rcases hcs with ⟨hch, rfl⟩ | ⟨c, hn, rfl⟩
  · exact ⟨if_pos hch, List.nodup_finRange 8⟩
  · refine ⟨?_, List.nodup_singleton c⟩
    have hne : h.channel ≠ 15 := by rw [show h.channel = c.val from hn]; omega
    unfold chanTargets
    rw [if_neg hne, chanOf_names hn]
    rfl

theorem chanTargets_none (hlo : 7 < h.channel) (hne : h.channel ≠ 15) : chanTargets h.channel = none := by
  unfold chanTargets
  rw [if_neg hne, chanOf_none hlo]
  rfl

theorem limitFits_iff (v : Nat) (t : Store) : limitFits v t = true ↔
    t.current.length ≤ v ∧ ∀ r, t.refresh = some r → r.events.length ≤ v := by
  unfold limitFits
  rw [Bool.and_eq_true, decide_eq_true_iff]
  cases t.refresh <;> simp

theorem ownCheck_iff : ownCheck p v s cs = true ↔ (p = .eventLimit → ∀ c ∈ cs, s.chans[c].store.current.length ≤ v ∧
    ∀ r, s.chans[c].store.refresh = some r → r.events.length ≤ v) := by
  by_cases hp : p = .eventLimit
  · subst hp
    simp only [ownCheck, List.all_eq_true, limitFits_iff, forall_const]
  · cases p <;> simp_all [ownCheck]

theorem ownCheck_afterTurn : ownCheck p v (afterTurn f s) cs = ownCheck p v s cs := by cases f <;> rfl

theorem setParamOn_chan (hattr : ChanParam.badAttr p = false) (htargets : chanTargets h.channel = some cs) :
    setParamOn h (.chan p) v s = if ChanParam.admits p v = false ∨ ownCheck p v s cs = false then deny .badValue s
      else (cs.foldl (putChan p v) s, .ok, .values (chanValues p (cs.foldl (putChan p v) s) cs)) := by
  show (if ChanParam.badAttr p = true then _ else _) = _
  rw [if_neg (by simp [hattr]), htargets]

theorem putChans_values (hattr : ChanParam.badAttr p = false) (hv : ChanParam.admits p v = true) (hnodup : cs.Nodup) :
    chanValues p (cs.foldl (putChan p v) s) cs = cs.map fun _ => v := by
  refine List.map_congr_left fun c hc => ?_
  obtain ⟨-, -, -, hput, -⟩ := putChans_named (p := p) (v := v) hnodup hc s
  rw [hput]
  exact ChanParams.get_put_self hv hattr _

/-- A channel parameter set on the channels that a header names. -/
theorem exec_setChan (ht : Turn f h (.setParam (.chan p) v) s) (hattr : ChanParam.badAttr p = false)
    (htargets : chanTargets h.channel = some cs) (hnodup : cs.Nodup) (hv : ChanParam.admits p v = true)
    (hown : ownCheck p v s cs = true) : exec (.setParam f h (.chan p) v) s = .next { cs.foldl (putChan p v) (afterTurn f s) with
      sent := (cs.foldl (putChan p v) (afterTurn f s)).sent ++
        replyPackets s f h (.setParam (.chan p) v) (.ok, .values (cs.map fun _ => v)) } := by
  obtain ⟨⟨-, -, hports, -⟩, -⟩ := putChans_kept (p := p) (v := v) cs (afterTurn f s)
  refine congrArg Host.Outcome.next (answered_turn_of ht ?_ (hports.trans (afterTurn_kept f s).2.1))
  rw [setParamOn_chan hattr htargets, if_neg (by simp [hv, ownCheck_afterTurn, hown]), putChans_values hattr hv hnodup]

theorem exec_setChan_refused (ht : Turn f h (.setParam (.chan p) v) s) (hattr : ChanParam.badAttr p = false)
    (htargets : chanTargets h.channel = some cs) (hbad : ChanParam.admits p v = false ∨ ownCheck p v s cs = false) :
    exec (.setParam f h (.chan p) v) s = .next { afterTurn f s with
      sent := s.sent ++ replyPackets s f h (.setParam (.chan p) v) (.badValue, .none) } := by
  refine congrArg Host.Outcome.next (answered_turn_denied ht ?_)
  rw [setParamOn_chan hattr htargets, if_pos (by rw [ownCheck_afterTurn]; exact hbad)]

theorem afterTurn_params (f : CtlFlow) (s : State) : (afterTurn f s).params = s.params := State.setInbound_params ..

theorem chanParam_malformed (hattr : ChanParam.badAttr p = true) :
    setParamOn h (.chan p) v s = deny .malformed s ∧ getParamOn h (.chan p) s = deny .malformed s :=
  ⟨if_pos hattr, if_pos hattr⟩

theorem chanParam_badChannel (hattr : ¬ ChanParam.badAttr p = true) (htargets : chanTargets h.channel = none) :
    setParamOn h (.chan p) v s = deny .badChannel s ∧ getParamOn h (.chan p) s = deny .badChannel s := by
  constructor
  · show (if ChanParam.badAttr p = true then _ else _) = _
    rw [if_neg hattr, htargets]
  · show (if ChanParam.badAttr p = true then _ else _) = _
    rw [if_neg hattr, htargets]

end Request

/-- Settles O46: a value put on the channels named and read back there, what each parameter does at once, and the refusals. -/
theorem channelParametersAreSetAndRead : Obligations.ChannelParametersAreSetAndRead := by
  unfold Obligations.ChannelParametersAreSetAndRead
  refine ⟨fun f h p v cs b s hb ht hattr hcs => ?_, fun f h p cs s ht hattr hcs => ?_, fun f h p v s hbad => ?_⟩
  · subst hb
    obtain ⟨htargets, hnodup⟩ := chanTargets_of hcs
    refine ⟨fun hv hown => ?_, fun hbad => exec_setChan_refused ht hattr htargets (hbad.imp_right ?_)⟩
    · obtain ⟨hchans, -, hsent⟩ := afterTurn_kept f s
      refine ⟨_, exec_setChan ht hattr htargets hnodup hv (ownCheck_iff.2 hown), ?_, ?_, ?_, fun c hc => ?_, fun c hc => ?_,
        fun n c hp hc => ?_, fun hlead hmargin hstandby hsweep hclass => ?_⟩
      · obtain ⟨l, hl⟩ := putChans_calm (p := p) (v := v) cs (afterTurn f s)
        exact ⟨l, by rw [← hsent, ← hl]⟩
      · exact (putChans_kept cs (afterTurn f s)).1
      · exact (putChans_kept cs (afterTurn f s)).2.trans (by rw [afterTurn_params])
      · obtain ⟨-, -, -, hput, -⟩ := putChans_named (p := p) (v := v) hnodup hc (afterTurn f s)
        rw [afterTurn_params] at hput
        refine ⟨(congrArg (fun x => x.get p) hput).trans (ChanParams.get_put_self hv hattr _), fun q hq _ => ?_⟩
        exact (congrArg (fun x => x.get q) hput).trans (by rw [ChanParams.get_put, if_neg hq])
      · have h := putChans_unnamed (p := p) (v := v) hc (afterTurn f s)
        rwa [afterTurn_params, hchans] at h
      · subst hp
        obtain ⟨u, hchan, hparams, -, hran⟩ := putChans_named (p := .attrClass n.val) (v := v) hnodup hc (afterTurn f s)
        rw [afterTurn_params] at hparams hran
        rw [hchans] at hchan
        exact (congrArg (fun x : Chan => (x.mon.attrs[n]).flag) hran).trans
          (putClass_flag (within_iff.1 hv).2 hchan hparams)
      · obtain ⟨m, hm⟩ := putChans_quiet (v := v) (paramChanged_quiet hlead hmargin hstandby hsweep hclass) cs (afterTurn f s)
        rw [hm]
        cases f <;> exact ⟨rfl, rfl, rfl, rfl⟩
    · rintro ⟨rfl, c, hc, hover⟩
      rw [← Bool.not_eq_true, ownCheck_iff]
      intro h
      obtain ⟨hcurrent, hrefresh⟩ := h rfl c hc
      rcases hover with hover | ⟨r, hr, hover⟩
      · omega
      · have := hrefresh r hr
        omega
  · obtain ⟨htargets, -⟩ := chanTargets_of hcs
    refine congrArg Host.Outcome.next (answered_turn_query ht ?_)
    show (if ChanParam.badAttr p = true then _ else _) = _
    rw [if_neg (by simp [hattr]), htargets]
    cases f <;> rfl
  · by_cases hattr : ChanParam.badAttr p = true
    · rw [if_pos hattr]
      exact ⟨fun ht => congrArg Host.Outcome.next (answered_turn_denied ht (chanParam_malformed hattr).1),
        fun ht => congrArg Host.Outcome.next (answered_turn_denied ht (chanParam_malformed (v := v) hattr).2)⟩
    · obtain ⟨hlo, hne⟩ := hbad.resolve_right hattr
      have htargets := chanTargets_none hlo hne
      rw [if_neg hattr]
      exact ⟨fun ht => congrArg Host.Outcome.next (answered_turn_denied ht (chanParam_badChannel hattr htargets).1),
        fun ht => congrArg Host.Outcome.next (answered_turn_denied ht (chanParam_badChannel (v := v) hattr htargets).2)⟩

end Sys2Proof.Machine

/-! PROOFS. The requests that move a channel (R134 to R136, R140, R141, R148, R153): the frame of a target, what each operation
answers, and the channel it leaves. -/

namespace Sys2Proof.Machine

open Sys2Proof

variable {env : Env} {w : W}

/-! ## Targets (R134, R140) -/

theorem targetFrame_at {least n : Frame} {day : Nat} {l : Label} (hn : n = hfnOf env.rate day l) :
    targetFrame env least (.at day l) =
      (max n least, if n < least ∨ labelExists env.rate l = false then .adjusted else .ok) := by
  have hunfold : targetFrame env least (.at day l) =
      if n < least then (least, .adjusted) else (n, if labelExists env.rate l then .ok else .adjusted) := by rw [hn]; rfl
  rw [hunfold]
  by_cases hlow : n < least
  · rw [if_pos hlow, if_pos (Or.inl hlow), max_eq_right hlow.le]
  · rw [if_neg hlow, max_eq_left (not_lt.1 hlow)]
    cases labelExists env.rate l <;> simp [hlow]

theorem targetBad_at {day : Nat} {l : Label} (hl : labelValid env.rate l = true) : targetBad env (.at day l) = false := by
  simp [targetBad, hl]

/-! ## A switch recorded in MIRROR (R136, R137) -/

/-- A switch no nearer than the lead and the margin: JOINING starts at once when it is just that near. -/
theorem recordSwitch_kept {s : Switch} (hmode : w.mode = .mirror) (hleast : env.now + env.cp.lead + env.cp.margin ≤ s.target) :
    (recordSwitch env s w).ch.ctl.switch = some s ∧ (recordSwitch env s w).mode =
      (if s.target = env.now + env.cp.lead + env.cp.margin then .joining else .mirror) := by
  obtain ⟨u, hu⟩ : ∃ u, u = w.modCtl fun c => { c with switch := some s } := ⟨_, rfl⟩
  have hrec : recordSwitch env s w = joiningStart env u := by rw [hu]; rfl
  have hswitch : u.ch.ctl.switch = some s := by rw [hu]; rfl
  have humode : u.ch.ctl.mode = .mirror := by rw [hu]; exact hmode
  have hdue : joiningDue env u.ch = if s.target - (env.cp.lead + env.cp.margin) ≤ env.now then some s else none := by
    unfold joiningDue; rw [humode, hswitch]
  rw [hrec]
  by_cases hnear : s.target = env.now + env.cp.lead + env.cp.margin
  · rw [if_pos (by rw [hnear]; linarith)] at hdue
    obtain ⟨hm, hs, -⟩ := rule_ctl (joiningStart_due env u s hdue)
    have hmax : max s.target (env.now + env.cp.lead) = s.target :=
      max_eq_left (by rw [hnear]; exact Int.le_add_of_nonneg_right (Int.natCast_nonneg _))
    rw [if_pos hnear]
    refine ⟨hs.trans ?_, hm⟩
    show some { s with target := max s.target (env.now + env.cp.lead) } = some s
    rw [hmax]
  · rw [if_neg fun hle => hnear (le_antisymm (by linarith) hleast)] at hdue
    rw [joiningStart_idle env u hdue, if_neg hnear]
    exact ⟨hswitch, humode⟩

/-! ## What each operation answers -/

theorem handoverOn_recorded {day : Nat} {l : Label} {n : Frame} (hl : labelValid env.rate l = true) (hn : n = hfnOf env.rate day l)
    (hmode : w.mode = .mirror) (hset : env.timeSet = true) :
    handoverOn day l env w = if n < env.now + env.cp.lead + env.cp.margin then refuse .tooSoon w
      else (recordSwitch env { kind := .takeover, cause := .planned, target := n, force := false } w,
        if labelExists env.rate l then .ok else .adjusted, .none) := by
  subst hn
  unfold handoverOn
  rw [if_neg (by simp [hl]), if_neg (not_not.2 hmode), if_neg (by simp [hset])]

theorem handoverOn_refused {day : Nat} {l : Label} (hl : labelValid env.rate l = true) :
    (w.mode ≠ .mirror → handoverOn day l env w = refuse .wrongMode w) ∧
      (w.mode = .mirror → env.timeSet = false → handoverOn day l env w = refuse .timeUnset w) := by
  unfold handoverOn
  refine ⟨fun hmode => ?_, fun hmode hset => ?_⟩
  · rw [if_neg (by simp [hl]), if_pos hmode]
  · rw [if_neg (by simp [hl]), if_neg (not_not.2 hmode), if_pos hset]

theorem takeoverOn_asked {target : Target} {force : Bool} {n : Frame} {st : Status} (hbad : targetBad env target = false)
    (hmode : w.mode = .mirror) (htarget : targetFrame env (env.now + env.cp.lead + env.cp.margin) target = (n, st)) :
    takeoverOn target force env w = if targetUnset env target then refuse .timeUnset w else
      (recordSwitch env { kind := .takeover, cause := .manual, target := n, force := force } w, st,
        .takeover (env.at n)
          (recordSwitch env { kind := .takeover, cause := .manual, target := n, force := force } w).mode force) := by
  unfold takeoverOn
  rw [if_neg (by simp [hbad]), hmode, htarget]

theorem takeoverOn_returning {target : Target} {force : Bool} (hbad : targetBad env target = false) (hmode : w.mode = .returning)
    (hset : targetUnset env target = false) :
    takeoverOn target force env w = (cancelHandback env .byTakeover w, .ok, .cancelled .takeover) := by
  unfold takeoverOn
  rw [if_neg (by simp [hbad]), hmode]
  exact if_neg (by simp [hset])

theorem takeoverOn_wrongMode {target : Target} {force : Bool} (hbad : targetBad env target = false)
    (hmode : w.mode = .joining ∨ w.mode = .takeover ∨ w.mode = .breakIn) :
    takeoverOn target force env w = refuse .wrongMode w := by
  unfold takeoverOn
  rw [if_neg (by simp [hbad])]
  rcases hmode with hmode | hmode | hmode <;> rw [hmode]

theorem handbackOn_accepted {why : SwitchCause} {target : Target} {force : Bool} (hbad : targetBad env target = false)
    (hmode : w.mode = .takeover) (hhealthy : w.ch.ctl.monitor = .healthy ∨ force = true) :
    handbackOn why target force env w = if targetUnset env target then refuse .timeUnset w else
      (startReturning env { kind := .handback, cause := why, target := (targetFrame env (env.now + 2) target).1, force := force } w,
        (targetFrame env (env.now + 2) target).2,
        .handback (env.at (targetFrame env (env.now + 2) target).1) force w.ch.ctl.monitor) := by
  have hnot : ¬ (w.ch.ctl.monitor ≠ .healthy ∧ force = false) := by
    rintro ⟨hne, hforce⟩
    rcases hhealthy with h | h
    · exact hne h
    · rw [h] at hforce; cases hforce
  unfold handbackOn
  rw [if_neg (by simp [hbad]), if_neg (not_not.2 hmode), if_neg hnot]

theorem handbackOn_refused {why : SwitchCause} {target : Target} {force : Bool} (hbad : targetBad env target = false) :
    (w.mode ≠ .takeover → handbackOn why target force env w = refuse .wrongMode w) ∧
      (w.mode = .takeover → w.ch.ctl.monitor ≠ .healthy → force = false →
        handbackOn why target force env w = refuse .notHealthy w) := by
  unfold handbackOn
  refine ⟨fun hmode => ?_, fun hmode hmon hforce => ?_⟩
  · rw [if_neg (by simp [hbad]), if_pos hmode]
  · rw [if_neg (by simp [hbad]), if_neg (not_not.2 hmode), if_pos ⟨hmon, hforce⟩]

theorem handbackAskOn_permitted {target : Target} (hperm : env.cp.permission = true) :
    handbackAskOn target env w = handbackOn .planned target false env w := if_neg (by simp [hperm])

theorem startReturning_ctl (env : Env) (s : Switch) (w : W) : (startReturning env s w).ch.ctl.mode = .returning ∧
    (startReturning env s w).ch.ctl.switch = some s ∧ (startReturning env s w).ch.ctl.pendingBreak = none := by
  obtain ⟨hmode, hswitch, -, -, hbreak, -, -⟩ := rule_ctl (startReturning_rule env s w)
  exact ⟨hmode, hswitch, hbreak⟩

theorem cancelHandback_ctl {x : Switch} (why : Detail) (h : w.ch.ctl.switch = some x) :
    (cancelHandback env why w).ch.ctl.mode = .takeover ∧ (cancelHandback env why w).ch.ctl.switch = none := by
  obtain ⟨hmode, hswitch, -⟩ := rule_ctl (cancelHandback_rule env why w x h)
  exact ⟨hmode, hswitch⟩

/-- The resume mode that a BREAK_IN asks for. -/
def breakMode (cp : ChanParams) : BreakMode → ResumeMode
  | .whereLeft => .whereLeft
  | .onTime => .onTime
  | .default => cp.resumeMode

theorem breakInOn_formed {handle inPoint : Nat} {d : Option Nat} {m : BreakMode} (hh : handle ≠ 0) (hd : d ≠ some 0)
    (hin : inPoint ≤ 16777215) :
    (w.mode = .mirror → breakInOn handle inPoint d (some m) env w = refuse .wrongMode w) ∧
      (w.mode = .takeover → breakInOn handle inPoint d (some m) env w = if w.ch.ctl.pendingBreak.isSome then refuse .busy w
        else acceptBreak handle inPoint d (breakMode env.cp m) env w) ∧
      (w.mode ≠ .mirror → w.mode ≠ .takeover → breakInOn handle inPoint d (some m) env w = refuse .busy w) := by
  have hform : ¬ (handle = 0 ∨ d = some 0 ∨ 16777215 < inPoint) := by
    rintro (h | h | h)
    · exact hh h
    · exact hd h
    · omega
  unfold breakInOn
  rw [if_neg hform]
  refine ⟨fun hmode => ?_, fun hmode => ?_, fun hm ht => ?_⟩
  · rw [hmode]
  · rw [hmode]; cases m <;> rfl
  · cases hmode : w.mode
    case mirror => exact absurd hmode hm
    case takeover => exact absurd hmode ht
    all_goals rfl

theorem acceptBreak_ctl (handle inPoint : Nat) (d : Option Nat) (m : ResumeMode) :
    (acceptBreak handle inPoint d m env w).1.ch.ctl.mode = w.mode ∧
      (acceptBreak handle inPoint d m env w).1.ch.ctl.pendingBreak = some
        { handle := handle, inPoint := inPoint, duration := d, mode := m, b := env.now + env.cp.lead, player := w.ch.breakPlayer } := by
  obtain ⟨hmode, -, -, -, hbreak, -, -⟩ := rule_ctl (acceptBreak_rule handle inPoint d m env w)
  exact ⟨hmode, hbreak⟩

theorem acceptBreak_answer (handle inPoint : Nat) (d : Option Nat) (m : ResumeMode) : acceptBreak handle inPoint d m env w =
    ((acceptBreak handle inPoint d m env w).1, .ok, .breakIn (env.at (env.now + env.cp.lead)) w.ch.breakPlayer m) := rfl

/-- The resume mode that a RESUME asks for. -/
def resumeAs (x : Saved) : ResumeReq → ResumeMode
  | .whereLeft => .whereLeft
  | .onTime => .onTime
  | .preset => x.mode

theorem resumeOn_begun {m : ResumeReq} {x : Saved} (hmode : w.mode = .breakIn) (hctx : w.ch.ctl.ctx = some x)
    (hnone : w.ch.ctl.resume = none) : resumeOn (some m) env w =
      (beginResume env .resume (resumeAs x m) (env.now + env.cp.lead) w, .ok, .resume (env.at (env.now + env.cp.lead)) (resumeAs x m)
        (beginResume env .resume (resumeAs x m) (env.now + env.cp.lead) w).ch.ctl.handed) := by
  unfold resumeOn
  dsimp only
  rw [hmode, hctx, hnone]
  cases m <;> rfl

theorem resumeOn_wrongMode {m : ResumeReq} (h : w.mode ≠ .breakIn ∨ w.ch.ctl.resume.isSome = true) :
    resumeOn (some m) env w = refuse .wrongMode w := by
  unfold resumeOn
  dsimp only
  split
  case h_1 hmode hctx hnone =>
    rw [hnone] at h
    exact absurd hmode (h.resolve_right Bool.false_ne_true)
  case h_2 => rfl

theorem beginResume_ctl {x : Saved} (why : ResumeCause) (m : ResumeMode) (r : Frame) (h : w.ch.ctl.ctx = some x) :
    (beginResume env why m r w).ch.ctl.mode = w.mode ∧ (beginResume env why m r w).ch.ctl.ctx = some x ∧
      (beginResume env why m r w).ch.ctl.resume = some { cause := why, mode := m, r := r } := by
  obtain ⟨hmode, -, hctx, -, -, hresume, -⟩ := rule_ctl (beginResume_rule env why m r w x h)
  exact ⟨hmode, hctx.trans h, hresume⟩

theorem timeSet_iff (s : State) (c : Ch) : ((envOf s c).timeSet = true ↔ s.time.timeState = .set) := decide_eq_true_iff

theorem timeSet_of_unset {s : State} (c : Ch) (h : s.time.timeState = .unset) : (envOf s c).timeSet = false := by
  rw [← Bool.not_eq_true, timeSet_iff, h]; decide

/-! ## The statements -/

/-- Settles O41: a switch at the frame named, no nearer than the lead and the margin. -/
theorem handoversAreRecorded : Obligations.HandoversAreRecorded := by
  unfold Obligations.HandoversAreRecorded
  intro f h c day l n s ht hn hl hframe
  refine ⟨fun st hst => ?_, fun hmode hset hfar => ?_, fun hmode hset hnear => ?_⟩
  · refine congrArg Host.Outcome.next (asked_turn_refused ht hn ?_)
    rcases hst with ⟨hmode, rfl⟩ | ⟨hmode, hunset, rfl⟩
    · exact (handoverOn_refused (env := envOf s c) hl).1 hmode
    · exact (handoverOn_refused (env := envOf s c) hl).2 hmode (timeSet_of_unset c hunset)
  · have hop := handoverOn_recorded (env := envOf s c) (w := begun s c) hl hframe hmode ((timeSet_iff s c).2 hset)
    replace hop := hop.trans (if_neg (not_lt.2 hfar))
    obtain ⟨t, hexec, hwithin, hchan, hreply⟩ := asked_turn_within ht hn hop (recordSwitch_rest ..)
    obtain ⟨hswitch, hm⟩ := recordSwitch_kept (env := envOf s c) (w := begun s c)
      (s := { kind := .takeover, cause := .planned, target := n, force := false }) hmode hfar
    exact ⟨t, congrArg Host.Outcome.next hexec, hwithin, by rw [hchan]; exact hswitch, by rw [hchan]; exact hm, hreply⟩
  · have hop := handoverOn_recorded (env := envOf s c) (w := begun s c) hl hframe hmode ((timeSet_iff s c).2 hset)
    exact congrArg Host.Outcome.next (asked_turn_refused ht hn (hop.trans (if_pos hnear)))

section Accepted

variable {f : CtlFlow} {h : Head} {c : Ch} {s : State}

/-- A TAKEOVER taken in MIRROR. -/
theorem takeover_recorded {target : Target} {force : Bool} {n : Frame} {st : Status} (ht : Turn f h (.takeover target force) s)
    (hn : Names h c) (hmode : s.chans[c].ctl.mode = .mirror) (hbad : targetBad (envOf s c) target = false)
    (hset : targetUnset (envOf s c) target = false)
    (htarget : targetFrame (envOf s c) (s.time.hfn + s.params.chans[c].lead + s.params.chans[c].margin) target = (n, st))
    (hleast : s.time.hfn + s.params.chans[c].lead + s.params.chans[c].margin ≤ n) :
    ∃ t, exec (.takeover f h target force) s = .next t ∧ Within c (afterTurn f s) t ∧
      t.chans[c].ctl.switch = some { kind := .takeover, cause := .manual, force := force, target := n } ∧
      t.chans[c].ctl.mode =
        (if n = s.time.hfn + s.params.chans[c].lead + s.params.chans[c].margin then .joining else .mirror) ∧
      Replies s t f h (.takeover target force) (st, .takeover (whenOf s.time.rate n) t.chans[c].ctl.mode force) := by
  have hop := takeoverOn_asked (env := envOf s c) (w := begun s c) (force := force) hbad hmode htarget
  rw [if_neg (by simp [hset])] at hop
  obtain ⟨t, hexec, hwithin, hchan, hreply⟩ := asked_turn_within ht hn hop (recordSwitch_rest ..)
  obtain ⟨hswitch, hm⟩ := recordSwitch_kept (env := envOf s c) (w := begun s c)
    (s := { kind := .takeover, cause := .manual, force := force, target := n }) hmode hleast
  refine ⟨t, congrArg Host.Outcome.next hexec, hwithin, by rw [hchan]; exact hswitch, by rw [hchan]; exact hm, ?_⟩
  rw [hchan]
  exact hreply

/-- A TAKEOVER taken in RETURNING. -/
theorem takeover_cancels {target : Target} {force : Bool} {x : Switch} (ht : Turn f h (.takeover target force) s) (hn : Names h c)
    (hmode : s.chans[c].ctl.mode = .returning) (hswitch : s.chans[c].ctl.switch = some x)
    (hbad : targetBad (envOf s c) target = false) (hset : targetUnset (envOf s c) target = false) :
    ∃ t, exec (.takeover f h target force) s = .next t ∧ Within c (afterTurn f s) t ∧ t.chans[c].ctl.mode = .takeover ∧
      t.chans[c].ctl.switch = none ∧ Replies s t f h (.takeover target force) (.ok, .cancelled .takeover) := by
  have hop := takeoverOn_returning (env := envOf s c) (w := begun s c) (force := force) hbad hmode hset
  obtain ⟨t, hexec, hwithin, hchan, hreply⟩ := asked_turn_within ht hn hop (cancelHandback_rest ..)
  obtain ⟨hm, hs⟩ := cancelHandback_ctl (env := envOf s c) (w := begun s c) .byTakeover hswitch
  exact ⟨t, congrArg Host.Outcome.next hexec, hwithin, by rw [hchan]; exact hm, by rw [hchan]; exact hs, hreply⟩

/-- A HANDBACK or HANDBACK_ASK taken in TAKEOVER. -/
theorem handback_accepted {b : ReqBody} {op : Env → W → W × Answer} {why : SwitchCause} {target : Target} {force : Bool} {n : Frame}
    {st : Status} (ht : Turn f h b s) (hn : Names h c)
    (hop : op (envOf s c) (begun s c) = handbackOn why target force (envOf s c) (begun s c))
    (hmode : s.chans[c].ctl.mode = .takeover) (hhealthy : s.chans[c].ctl.monitor = .healthy ∨ force = true)
    (hbad : targetBad (envOf s c) target = false) (hset : targetUnset (envOf s c) target = false)
    (htarget : targetFrame (envOf s c) ((s.time.hfn : Frame) + 2) target = (n, st)) :
    ∃ t, takeRequest f h b (answered f h b (onChannel h op)) s = t ∧ Within c (afterTurn f s) t ∧
      t.chans[c].ctl.mode = .returning ∧
      t.chans[c].ctl.switch = some { kind := .handback, cause := why, target := n, force := force } ∧
      t.chans[c].ctl.pendingBreak = none ∧
      Replies s t f h b (st, .handback (whenOf s.time.rate n) force s.chans[c].ctl.monitor) := by
  have htarget' : targetFrame (envOf s c) ((envOf s c).now + 2) target = (n, st) := htarget
  have haccept := handbackOn_accepted (env := envOf s c) (w := begun s c) (why := why) hbad hmode hhealthy
  rw [if_neg (by simp [hset]), htarget'] at haccept
  obtain ⟨t, hexec, hwithin, hchan, hreply⟩ := asked_turn_within ht hn (hop.trans haccept) (startReturning_rest ..)
  obtain ⟨hm, hs, hb⟩ := startReturning_ctl (envOf s c)
    { kind := .handback, cause := why, target := n, force := force } (begun s c)
  exact ⟨t, hexec, hwithin, by rw [hchan]; exact hm, by rw [hchan]; exact hs, by rw [hchan]; exact hb, hreply⟩

/-- A target named by day and label, while the time is SET. -/
theorem labelled_target {day : Nat} {l : Label} (hl : labelValid s.time.rate l = true) (hset : s.time.timeState = .set) :
    targetBad (envOf s c) (.at day l) = false ∧ targetUnset (envOf s c) (.at day l) = false :=
  ⟨targetBad_at hl, by simp [targetUnset, (timeSet_iff s c).2 hset]⟩

theorem labelled_unset {day : Nat} {l : Label} (hunset : s.time.timeState = .unset) :
    targetUnset (envOf s c) (.at day l) = true := by
  simp [targetUnset, timeSet_of_unset c hunset]

end Accepted

/-- Settles O42: the switch of a TAKEOVER, the handback it cancels, and the target that a day and a label name. -/
theorem takeoversAreAskedForAndTargetsClamped : Obligations.TakeoversAreAskedForAndTargetsClamped := by
  unfold Obligations.TakeoversAreAskedForAndTargetsClamped
  refine ⟨fun f h c force s ht hn => ⟨fun hmode => ?_, fun x hmode hswitch => takeover_cancels ht hn hmode hswitch rfl rfl,
    fun hmode => congrArg Host.Outcome.next (asked_turn_refused ht hn (takeoverOn_wrongMode rfl hmode))⟩,
    fun f h c day l n s hn hl hframe => ⟨fun force ht hmode => ⟨fun hset => ?_, fun hunset => ?_⟩,
      fun force x ht hmode hswitch hset => ?_, fun ht hperm hmode hmon hset => ?_,
      fun force ht hmode hhealthy => ⟨fun hset => ?_, fun hunset => ?_⟩⟩⟩
  · obtain ⟨t, hexec, hwithin, hswitch, hm, hreply⟩ := takeover_recorded ht hn hmode rfl rfl rfl le_rfl
    rw [if_pos rfl] at hm
    rw [hm] at hreply
    exact ⟨t, hexec, hwithin, hm, hswitch, hreply⟩
  · obtain ⟨hbad, hunset⟩ := labelled_target (c := c) (day := day) hl hset
    obtain ⟨t, hexec, -, hswitch, -, hreply⟩ :=
      takeover_recorded ht hn hmode hbad hunset (targetFrame_at (env := envOf s c) hframe) (le_max_right _ _)
    exact ⟨t, _, hexec, hswitch, hreply⟩
  · refine congrArg Host.Outcome.next (asked_turn_refused ht hn ?_)
    exact (takeoverOn_asked (env := envOf s c) (w := begun s c) (targetBad_at hl) hmode rfl).trans
      (if_pos (labelled_unset hunset))
  · obtain ⟨hbad, hunset⟩ := labelled_target (c := c) (day := day) hl hset
    obtain ⟨t, hexec, -, hm, hs, hreply⟩ := takeover_cancels ht hn hmode hswitch hbad hunset
    exact ⟨t, hexec, hm, hs, hreply⟩
  · obtain ⟨hbad, hunset⟩ := labelled_target (c := c) (day := day) hl hset
    obtain ⟨t, hexec, -, -, hswitch, -, hreply⟩ := handback_accepted ht hn (handbackAskOn_permitted (env := envOf s c) hperm) hmode
      (Or.inl hmon) hbad hunset (targetFrame_at (env := envOf s c) hframe)
    exact ⟨t, _, congrArg Host.Outcome.next hexec, hswitch, hreply⟩
  · obtain ⟨hbad, hunset⟩ := labelled_target (c := c) (day := day) hl hset
    obtain ⟨t, hexec, -, -, hswitch, -, hreply⟩ := handback_accepted ht hn (op := handbackOn .manual (.at day l) force) rfl hmode
      hhealthy hbad hunset (targetFrame_at (env := envOf s c) hframe)
    exact ⟨t, _, congrArg Host.Outcome.next hexec, hswitch, hreply⟩
  · refine congrArg Host.Outcome.next (asked_turn_refused ht hn ?_)
    exact (handbackOn_accepted (env := envOf s c) (w := begun s c) (targetBad_at hl) hmode hhealthy).trans
      (if_pos (labelled_unset hunset))

/-- Settles O43: RETURNING for now + 2, and the refusals of both requests. -/
theorem handbacksAreAskedFor : Obligations.HandbacksAreAskedFor := by
  unfold Obligations.HandbacksAreAskedFor
  refine ⟨fun f h c force s ht hn => ⟨fun hmode hhealthy => ?_, fun hmode hmon hforce => ?_, fun hmode => ?_⟩,
    fun f h c s ht hn => ⟨fun hperm hmode hmon => ?_, fun st hst => ?_⟩⟩
  · obtain ⟨t, hexec, hwithin, hm, hs, hb, hreply⟩ :=
      handback_accepted ht hn (op := handbackOn .manual .asap force) rfl hmode hhealthy rfl rfl rfl
    exact ⟨t, congrArg Host.Outcome.next hexec, hwithin, hm, hs, hb, hreply⟩
  · exact congrArg Host.Outcome.next (asked_turn_refused ht hn ((handbackOn_refused rfl).2 hmode hmon hforce))
  · exact congrArg Host.Outcome.next (asked_turn_refused ht hn ((handbackOn_refused rfl).1 hmode))
  · obtain ⟨t, hexec, hwithin, hm, hs, hb, hreply⟩ := handback_accepted ht hn
      (handbackAskOn_permitted (env := envOf s c) (target := .asap) hperm) hmode (Or.inl hmon) rfl rfl rfl
    rw [hmon] at hreply
    exact ⟨t, congrArg Host.Outcome.next hexec, hwithin, hm, hs, hb, hreply⟩
  · refine congrArg Host.Outcome.next (asked_turn_refused ht hn ?_)
    rcases hst with ⟨hperm, rfl⟩ | ⟨hperm, hmode, rfl⟩ | ⟨hperm, hmode, hmon, rfl⟩
    · exact if_pos hperm
    · exact (handbackAskOn_permitted (env := envOf s c) hperm).trans ((handbackOn_refused rfl).1 hmode)
    · exact (handbackAskOn_permitted (env := envOf s c) hperm).trans ((handbackOn_refused rfl).2 hmode hmon rfl)

/-- Settles O44: the pending break-in for now plus the lead, and the resume begun for it. -/
theorem breakInsAndResumesAreAskedFor : Obligations.BreakInsAndResumesAreAskedFor := by
  unfold Obligations.BreakInsAndResumesAreAskedFor
  refine ⟨fun f h c handle inPoint d m q s hq ht hn hh hd hin => ?_, fun f h c m s ht hn => ⟨fun x hmode hctx hnone => ?_,
    fun hnot => congrArg Host.Outcome.next (asked_turn_refused ht hn (resumeOn_wrongMode hnot))⟩⟩
  · subst hq
    obtain ⟨hmirror, htakeover, hother⟩ := breakInOn_formed (env := envOf s c) (w := begun s c) (m := m) hh hd hin
    refine ⟨fun hmode hnone => ?_, fun hnot hbusy => ?_, fun hmode => ?_⟩
    · have hop := htakeover hmode
      rw [if_neg (by rw [show (begun s c).ch.ctl.pendingBreak = none from hnone]; decide)] at hop
      obtain ⟨hm, hb⟩ := acceptBreak_ctl (env := envOf s c) (w := begun s c) handle inPoint d (breakMode (envOf s c).cp m)
      obtain ⟨t, hexec, hwithin, hchan, hreply⟩ := asked_turn_within ht hn (hop.trans (acceptBreak_answer ..)) (acceptBreak_rest ..)
      rw [← hchan] at hm hb
      refine ⟨t, _, congrArg Host.Outcome.next hexec, hwithin, hm.trans hmode, hb, rfl, rfl, rfl, rfl, rfl, ?_, hreply⟩
      cases m <;> rfl
    · refine congrArg Host.Outcome.next (asked_turn_refused ht hn ?_)
      by_cases hmode : s.chans[c].ctl.mode = .takeover
      · exact (htakeover hmode).trans (if_pos (hbusy.resolve_left (not_not.2 hmode)))
      · exact hother hnot hmode
    · exact congrArg Host.Outcome.next (asked_turn_refused ht hn (hmirror hmode))
  · have hop := resumeOn_begun (env := envOf s c) (w := begun s c) (m := m) hmode hctx hnone
    obtain ⟨hm, hc, hr⟩ := beginResume_ctl (env := envOf s c) (w := begun s c) .resume (resumeAs x m)
      ((envOf s c).now + (envOf s c).cp.lead) hctx
    obtain ⟨t, hexec, hwithin, hchan, hreply⟩ := asked_turn_within ht hn hop (beginResume_rest ..)
    rw [← hchan] at hm hc hr hreply
    refine ⟨t, _, congrArg Host.Outcome.next hexec, hwithin, hm.trans hmode, hc, hr, rfl, rfl, ?_, hreply⟩
    cases m <;> rfl

end Sys2Proof.Machine

/-! PROOFS. The flow table (R70, R71): entries loaded, moved and cleared, and the sources that lose what they hold. -/

namespace Sys2Proof.Machine

open Sys2Proof

/-! ## The sources that an entry feeds (R71) -/

theorem clearFeed_clearFeed (x : Source) : x.clearFeed.clearFeed = x.clearFeed := by
  cases hasm : x.asm <;> simp [Source.clearFeed, Source.discard, hasm]

theorem modSources_chans (f : Source → Source) (l : List (Ch × SrcId)) (s : State) :
    ∃ m, s.modSources l f = { s with chans := m } := by
  induction l generalizing s with
  | nil => exact ⟨_, rfl⟩
  | cons x l ih =>
    obtain ⟨m, hm⟩ := ih (s.modSource x.1 x.2 f)
    exact ⟨m, hm⟩

theorem clearFeeds_eq (l : List (Ch × SrcId)) (s : State) : l.foldl clearFeedOf s = s.modSources l Source.clearFeed := rfl

theorem roleSource_injective {r r' : Role} {k : SrcId} (h : roleSource r = some k) (h' : roleSource r' = some k) : r = r' := by
  cases k <;> cases r <;> cases h <;> cases r' <;> first | rfl | cases h'

theorem feeds_iff (e : FlowEntry) (c : Ch) (k : SrcId) :
    e.feeds = some (c, k) ↔ e.channel = some c ∧ roleSource e.role = some k := by
  unfold FlowEntry.feeds
  cases e.channel with
  | none => simp
  | some d => cases roleSource e.role <;> simp

/-- Two entries of one tag and port that feed one source are the same. -/
theorem entry_eq_of_feeds {x y : FlowEntry} {a : Ch × SrcId} (hx : x.feeds = some a) (hy : y.feeds = some a) (hport : x.port = y.port)
    (htag : x.tag = y.tag) : x = y := by
  obtain ⟨c, k⟩ := a
  obtain ⟨hxc, hxk⟩ := (feeds_iff x c k).1 hx
  obtain ⟨hyc, hyk⟩ := (feeds_iff y c k).1 hy
  have hrole := roleSource_injective hxk hyk
  cases x; cases y
  simp_all

theorem mem_lostFeeds {old new : FlowEntry} (htag : old.tag = new.tag) (a : Ch × SrcId) :
    a ∈ lostFeeds old new ↔ new ≠ old ∧ (old.feeds = some a ∨ new.feeds = some a) := by
  unfold lostFeeds
  by_cases hfeeds : old.feeds = new.feeds
  · by_cases hport : old.port = new.port
    · rw [if_pos ⟨hfeeds, hport, htag⟩]
      refine iff_of_false List.not_mem_nil fun ⟨hne, hfed⟩ => ?_
      rw [← hfeeds, or_self] at hfed
      exact hne (entry_eq_of_feeds (hfeeds ▸ hfed) hfed hport.symm htag.symm)
    · rw [if_neg fun h => hport h.2.1, if_pos hfeeds, Option.mem_toList, ← hfeeds, or_self]
      exact (and_iff_right fun h => hport (by rw [h])).symm
  · rw [if_neg fun h => hfeeds h.1, if_neg hfeeds, List.mem_append, Option.mem_toList, Option.mem_toList]
    exact (and_iff_right fun h => hfeeds (by rw [h])).symm

/-! ## What a loaded entry releases -/

theorem releaseReset_kept (s : State) : (releaseReset s).chans = s.chans ∧ (releaseReset s).flows = s.flows ∧
    (releaseReset s).ports = s.ports := by
  unfold releaseReset
  split
  · obtain ⟨-, -, hports, hflows, -⟩ := runAll_kept resetNotice { s with resetNotices := false }
    exact ⟨(runAll_resetNotice_heard _).1, hflows, hports⟩
  · exact ⟨rfl, rfl, rfl⟩

theorem flowLoaded_other {r : Role} (hmain : r ≠ .mainCtl) (hlocal : r ≠ .localCtl) (s : State) : flowLoaded r s = s := by
  cases r
  case mainCtl => exact absurd rfl hmain
  case localCtl => exact absurd rfl hlocal
  all_goals rfl

theorem flowLoaded_kept {r : Role} (hlocal : r ≠ .localCtl) (s : State) : (flowLoaded r s).chans = s.chans ∧
    (flowLoaded r s).flows = s.flows ∧ (flowLoaded r s).ports = s.ports := by
  by_cases hmain : r = .mainCtl
  · subst hmain; exact releaseReset_kept s
  · rw [flowLoaded_other hmain hlocal]; exact ⟨rfl, rfl, rfl⟩

/-! ## What each request finds -/

variable {s : State}

theorem roleTaken_iff {fl : List FlowEntry} {tag : Option Nat} {r : Role} {c : Option Ch} :
    roleTaken fl tag r c = true ↔ ∃ x ∈ fl, some x.tag ≠ tag ∧ x.role = r ∧ x.channel = c := by
  simp only [roleTaken, List.any_eq_true, Bool.and_eq_true, decide_eq_true_eq, and_assoc]

theorem portOf_val (p : Port) : portOf p.val = some p := by simp [portOf]

/-- A formed entry reaches the checks on the table as it is. -/
theorem flowLoadOn_formed {e : FlowEntry} {ch : Nat} (hformed : flowFormed e = true) (hlocal : e.role ≠ .localCtl)
    (hch : ∀ c : Ch, e.channel = some c → ch = c.val) : flowLoadOn e.tag e.port.val (some e.role) ch s = loadEntry e s := by
  obtain ⟨⟨hpos, hlt⟩, hhas⟩ := (flowFormed_iff e).1 hformed
  have htag : ¬ (e.tag = 0 ∨ two16 ≤ e.tag) := by omega
  unfold flowLoadOn
  rw [portOf_val]
  dsimp only
  rw [if_neg htag]
  cases hchan : e.channel with
  | none =>
    rw [if_neg (by rw [hhas, hchan]; decide), if_neg hlocal, ← hchan]
  | some c =>
    rw [if_pos (by rw [hhas, hchan]; rfl), hch c hchan, chanOf_val]
    show loadEntry { tag := e.tag, port := e.port, role := e.role, channel := some c } s = _
    rw [← hchan]

theorem loadEntry_new {e : FlowEntry} (hnew : entryByTag s.flows e.tag = none)
    (hfree : ∀ x ∈ s.flows, ¬ (x.role = e.role ∧ x.channel = e.channel)) :
    loadEntry e s = if 64 ≤ s.flows.length then deny .limitReached s
      else (flowLoaded e.role { s with flows := s.flows ++ [e] }, .ok, .none) := by
  have hnot : ¬ roleTaken s.flows none e.role e.channel = true := fun h => by
    obtain ⟨x, hx, -, hrole⟩ := roleTaken_iff.1 h
    exact hfree x hx hrole
  unfold loadEntry
  rw [hnew]
  exact if_neg hnot

theorem loadEntry_rewritten {e old : FlowEntry} (hold : entryByTag s.flows e.tag = some old) (hlocal : old.role ≠ .localCtl)
    (hfree : ∀ x ∈ s.flows, x.tag ≠ e.tag → ¬ (x.role = e.role ∧ x.channel = e.channel)) : loadEntry e s =
      (flowLoaded e.role ((lostFeeds old e).foldl clearFeedOf { s with flows := rewrite e.tag e s.flows }), .ok, .none) := by
  have hnot : ¬ roleTaken s.flows (some e.tag) e.role e.channel = true := fun h => by
    obtain ⟨x, hx, htag, hrole⟩ := roleTaken_iff.1 h
    exact hfree x hx (fun ht => htag (congrArg some ht)) hrole
  unfold loadEntry
  rw [hold]
  exact (if_neg hlocal).trans (if_neg hnot)

theorem loadEntry_conflict {e : FlowEntry} (htaken : ∃ x ∈ s.flows, x.tag ≠ e.tag ∧ x.role = e.role ∧ x.channel = e.channel)
    (hlocal : ∀ old, entryByTag s.flows e.tag = some old → old.role ≠ .localCtl) : loadEntry e s = deny .conflict s := by
  obtain ⟨x, hx, htag, hrole⟩ := htaken
  unfold loadEntry
  cases hold : entryByTag s.flows e.tag with
  | none => exact if_pos (roleTaken_iff.2 ⟨x, hx, by simp, hrole⟩)
  | some old =>
    exact (if_neg (hlocal old hold)).trans (if_pos (roleTaken_iff.2 ⟨x, hx, fun h => htag (Option.some.inj h), hrole⟩))

theorem loadEntry_notPermitted {e old : FlowEntry} (hold : entryByTag s.flows e.tag = some old) (hlocal : old.role = .localCtl) :
    loadEntry e s = deny .notPermitted s := by
  unfold loadEntry
  rw [hold]
  exact if_pos hlocal

theorem flowLoadOn_bootstrap {tag : Nat} {p : Port} (ch : Nat) (hpos : 0 < tag) (hlt : tag < two16) :
    flowLoadOn tag p.val (some .localCtl) ch s = loadBootstrap tag p s := by
  have htag : ¬ (tag = 0 ∨ two16 ≤ tag) := by omega
  unfold flowLoadOn
  rw [portOf_val]
  exact if_neg htag

theorem bootstrapTaken_iff {tag : Nat} : (s.flows.any fun e => decide (e.tag = tag) && decide (e.role ≠ .localCtl)) = true ↔
    ∃ x ∈ s.flows, x.tag = tag ∧ x.role ≠ .localCtl := by
  simp only [List.any_eq_true, Bool.and_eq_true, decide_eq_true_eq]

theorem flowLoadOn_malformed {tag port ch : Nat} {role : Option Role}
    (h : tag = 0 ∨ 65536 ≤ tag ∨ 4 ≤ port ∨ role = none) : flowLoadOn tag port role ch s = deny .malformed s := by
  unfold flowLoadOn
  cases hport : portOf port with
  | none => rfl
  | some p =>
    cases role with
    | none => rfl
    | some r =>
      have hlow : ¬ 4 ≤ port := fun h4 => by
        rw [portOf, dif_neg (by omega)] at hport
        cases hport
      refine if_pos (h.imp_right fun h => ?_)
      rcases h with h | h | h
      · exact h
      · exact absurd h hlow
      · cases h

theorem flowLoadOn_badChannel {tag port ch : Nat} {r : Role} (hpos : 0 < tag) (hlt : tag < 65536) (hport : port < 4)
    (hmain : r ≠ .mainCtl) (hlocal : r ≠ .localCtl) (hch : 8 ≤ ch) : flowLoadOn tag port (some r) ch s = deny .badChannel s := by
  have htag : ¬ (tag = 0 ∨ two16 ≤ tag) := by
    rw [show two16 = 65536 from rfl]; omega
  have hhas : roleHasChannel r = true := by
    cases r
    case mainCtl => exact absurd rfl hmain
    case localCtl => exact absurd rfl hlocal
    all_goals rfl
  unfold flowLoadOn
  rw [portOf, dif_pos hport]
  refine (if_neg htag).trans ((if_pos hhas).trans ?_)
  rw [chanOf_none hch]

theorem afterTurn_flows (f : CtlFlow) (s : State) : (afterTurn f s).flows = s.flows := State.setInbound_flows ..

theorem afterTurn_powered (f : CtlFlow) (s : State) : (afterTurn f s).powered = s.powered := State.setInbound_powered ..

/-- An entry rewritten: the table, and the sources. -/
theorem rewritten_spec {e old : FlowEntry} (hrole : e.role ≠ .localCtl) (htag : old.tag = e.tag) {u : State}
    (hu : u = flowLoaded e.role ((lostFeeds old e).foldl clearFeedOf { s with flows := rewrite e.tag e s.flows })) :
    u.flows = rewrite e.tag e s.flows ∧ u.ports = s.ports ∧ s.sent <+: u.sent ∧ ∀ (c : Ch) (k : SrcId),
      u.chans[c].intake.source k =
        (if e ≠ old ∧ (old.feeds = some (c, k) ∨ e.feeds = some (c, k)) then (s.chans[c].intake.source k).clearFeed
         else s.chans[c].intake.source k) := by
  rw [clearFeeds_eq] at hu
  obtain ⟨hchans, hflows, hports⟩ := flowLoaded_kept hrole
    (({ s with flows := rewrite e.tag e s.flows } : State).modSources (lostFeeds old e) Source.clearFeed)
  have hcalm := (flowLoaded_calm e.role
    (({ s with flows := rewrite e.tag e s.flows } : State).modSources (lostFeeds old e) Source.clearFeed)).2
  have hsource := fun (c : Ch) (k : SrcId) => modSources_source clearFeed_clearFeed (lostFeeds old e)
    ({ s with flows := rewrite e.tag e s.flows } : State) c k
  obtain ⟨m, hm⟩ := modSources_chans Source.clearFeed (lostFeeds old e) ({ s with flows := rewrite e.tag e s.flows } : State)
  rw [← hu, hm] at hchans hflows hports hcalm
  refine ⟨hflows, hports, hcalm, fun c k => ?_⟩
  have h := hsource c k
  rw [hm] at h
  rw [hchans]
  exact h.trans (if_congr (mem_lostFeeds htag (c, k)) rfl rfl)

theorem flowClearOn_cleared {tag : Nat} {old : FlowEntry} (hold : entryByTag s.flows tag = some old) (hlocal : old.role ≠ .localCtl) :
    flowClearOn tag s = (({ s with flows := s.flows.filter fun x => decide (x.tag ≠ tag) } : State).modSources old.feeds.toList
      Source.clearFeed, .ok, .none) := by
  unfold flowClearOn
  rw [hold]
  exact if_neg hlocal

/-! ## The statement -/

section Load

variable {f : CtlFlow} {h : Head}

theorem exec_flowLoad_new {e : FlowEntry} {ch : Nat} {u : State} (ht : Turn f h (.flowLoad e.tag e.port.val (some e.role) ch) s)
    (hformed : flowFormed e = true) (hlocal : e.role ≠ .localCtl) (hch : ∀ c : Ch, e.channel = some c → ch = c.val)
    (hnew : entryByTag s.flows e.tag = none) (hfree : ∀ x ∈ s.flows, ¬ (x.role = e.role ∧ x.channel = e.channel))
    (hroom : s.flows.length < 64) (hu : u = { afterTurn f s with flows := s.flows ++ [e] }) :
    exec (.flowLoad f h e.tag e.port.val (some e.role) ch) s = .next { flowLoaded e.role u with
      sent := (flowLoaded e.role u).sent ++ replyPackets s f h (.flowLoad e.tag e.port.val (some e.role) ch) (.ok, .none) } := by
  have hports : (flowLoaded e.role u).ports = s.ports := by
    obtain ⟨-, -, hp⟩ := flowLoaded_kept hlocal u
    rw [hp, hu]; exact (afterTurn_kept f s).2.1
  refine congrArg Host.Outcome.next (answered_turn_of ht ?_ hports)
  rw [flowLoadOn_formed hformed hlocal hch, loadEntry_new (by rw [afterTurn_flows]; exact hnew) (by rw [afterTurn_flows]; exact hfree),
    if_neg (by rw [afterTurn_flows]; omega), afterTurn_flows, ← hu]

end Load

/-- Settles O47: the entry written, rewritten, moved or cleared, the feeds that are lost, and the refusals in their order. -/
theorem flowEntriesAreLoadedAndCleared : Obligations.FlowEntriesAreLoadedAndCleared := by
  unfold Obligations.FlowEntriesAreLoadedAndCleared
  refine ⟨fun f h e ch b s u hb ht hformed hlocal hch => ?_, fun f h tag ch p b s u hb ht hpos hlt hu => ?_,
    fun f h tag port ch role s ht => ⟨fun hbad => congrArg Host.Outcome.next (answered_turn_denied ht (flowLoadOn_malformed hbad)),
      fun r hpos hlt hport hrole hmain hlocal hchan => ?_⟩, fun f h tag s ht => ⟨fun hnone => ?_, fun old hold => ⟨fun hlocal => ?_,
      fun hlocal => ?_⟩⟩⟩
  · subst hb
    obtain ⟨-, hports, hsent⟩ := afterTurn_kept f s
    have hpow : s.powered = true := ht.1
    refine ⟨fun hnew hfree => ⟨fun hroom hu => ?_, fun hfull => ?_⟩, fun old hold hold' hfree => ?_, fun htaken hold => ?_,
      fun old hold hold' => ?_⟩
    · have hexec := exec_flowLoad_new ht hformed hlocal hch hnew hfree hroom hu
      refine ⟨fun hmain => ?_, fun hmain => ⟨releaseReset u, ?_, ?_⟩⟩
      · rw [hexec, flowLoaded_other hmain hlocal, hu, ← hsent]
      · exact congrArg Host.Outcome.next (live_on (by rw [hu]; exact (afterTurn_powered f s).trans hpow))
      · rw [hexec, hmain]; rfl
    · refine congrArg Host.Outcome.next (answered_turn_denied ht ?_)
      rw [flowLoadOn_formed hformed hlocal hch, loadEntry_new (by rw [afterTurn_flows]; exact hnew)
        (by rw [afterTurn_flows]; exact hfree), if_pos (by rw [afterTurn_flows]; exact hfull)]
    · obtain ⟨v, hv⟩ : ∃ v, v = flowLoaded e.role ((lostFeeds old e).foldl clearFeedOf
        { afterTurn f s with flows := rewrite e.tag e (afterTurn f s).flows }) := ⟨_, rfl⟩
      have hop : flowLoadOn e.tag e.port.val (some e.role) ch (afterTurn f s) = (v, .ok, .none) := by
        rw [flowLoadOn_formed hformed hlocal hch, loadEntry_rewritten (by rw [afterTurn_flows]; exact hold) hold'
          (by rw [afterTurn_flows]; exact hfree), hv]
      obtain ⟨hflows, hvports, ⟨l, hl⟩, hsources⟩ := rewritten_spec hlocal (entryByTag_some hold).2 hv
      rw [(afterTurn_kept f s).1] at hsources
      rw [afterTurn_flows] at hflows
      exact ⟨_, congrArg Host.Outcome.next (answered_turn_of ht hop (hvports.trans hports)), hflows,
        ⟨l, by rw [← hsent, ← hl]⟩, hsources⟩
    · refine congrArg Host.Outcome.next (answered_turn_denied ht ?_)
      rw [flowLoadOn_formed hformed hlocal hch, loadEntry_conflict (by rw [afterTurn_flows]; exact htaken)
        (by rw [afterTurn_flows]; exact hold)]
    · refine congrArg Host.Outcome.next (answered_turn_denied ht ?_)
      rw [flowLoadOn_formed hformed hlocal hch, loadEntry_notPermitted (by rw [afterTurn_flows]; exact hold) hold']
  · subst hb
    obtain ⟨-, hports, hsent⟩ := afterTurn_kept f s
    refine ⟨fun hfree => ⟨u.testAsRun, ?_, ?_⟩, fun htaken => ?_⟩
    · exact congrArg Host.Outcome.next (live_on (by rw [hu]; exact (afterTurn_powered f s).trans ht.1))
    · have hnot : ¬ ∃ x ∈ s.flows, x.tag = tag ∧ x.role ≠ .localCtl := fun ⟨x, hx, htag, hrole⟩ => hrole (hfree x hx htag)
      have hop : flowLoadOn tag p.val (some .localCtl) ch (afterTurn f s) = (u.testAsRun, .ok, .none) := by
        rw [flowLoadOn_bootstrap ch hpos hlt, hu, ← afterTurn_flows f s]
        exact if_neg (by rw [bootstrapTaken_iff, afterTurn_flows]; exact hnot)
      refine congrArg Host.Outcome.next (answered_turn_of ht hop ?_)
      obtain ⟨⟨-, -, hp, -⟩, -⟩ := testAsRun_heard u
      rw [hp, hu]; exact hports
    · refine congrArg Host.Outcome.next (answered_turn_denied ht ?_)
      rw [flowLoadOn_bootstrap ch hpos hlt]
      exact if_pos (by rw [bootstrapTaken_iff, afterTurn_flows]; exact htaken)
  · subst hrole
    exact congrArg Host.Outcome.next (answered_turn_denied ht (flowLoadOn_badChannel hpos hlt hport hmain hlocal hchan))
  · refine congrArg Host.Outcome.next (answered_turn_denied ht ?_)
    unfold Machine.flowClearOn
    rw [afterTurn_flows, hnone]
  · refine congrArg Host.Outcome.next (answered_turn_denied ht ?_)
    unfold Machine.flowClearOn
    rw [afterTurn_flows, hold]
    exact if_pos hlocal
  · obtain ⟨hchans, hports, hsent⟩ := afterTurn_kept f s
    have hop := flowClearOn_cleared (s := afterTurn f s) (by rw [afterTurn_flows]; exact hold) hlocal
    rw [afterTurn_flows] at hop
    have hsource := fun (c : Ch) (k : SrcId) => modSources_source clearFeed_clearFeed old.feeds.toList
      ({ afterTurn f s with flows := s.flows.filter fun x => decide (x.tag ≠ tag) } : State) c k
    obtain ⟨m, hm⟩ := modSources_chans Source.clearFeed old.feeds.toList
      ({ afterTurn f s with flows := s.flows.filter fun x => decide (x.tag ≠ tag) } : State)
    rw [hm] at hop hsource
    refine ⟨_, congrArg Host.Outcome.next (answered_turn_of ht hop hports), rfl, ?_, ?_, ?_, ?_, fun c k => ?_⟩
    · exact State.setInbound_log ..
    · exact State.setInbound_time ..
    · exact State.setInbound_params ..
    · exact congrArg (· ++ _) hsent
    · refine (hsource c k).trans ?_
      rw [hchans]
      exact if_congr Option.mem_toList rfl rfl

end Sys2Proof.Machine

/-! PROOFS. TIME_SET, CLEAR_COUNTERS and LOG_FLUSH (R2, R12, R16, R81, R99, R187). -/

namespace Sys2Proof.Machine

open Sys2Proof

/-! ## Every channel in its turn -/

/-- A channel takes its turn in a run over the channels as it stood, and is left alone after it. -/
theorem foldCh_turn (op : Env → W → W) {l : List Ch} (hnodup : l.Nodup) {c : Ch} (hc : c ∈ l) (s : State) :
    ∃ u, PartKept s u ∧ u.chans[c] = s.chans[c] ∧ (l.foldl (fun s c => runCh c op s) s).chans[c] = (ranCh c op u).ch := by
  induction l generalizing s with
  | nil => cases hc
  | cons d l ih =>
    obtain ⟨hd, hrest⟩ := List.nodup_cons.1 hnodup
    rw [List.foldl_cons]
    by_cases hcl : c ∈ l
    · have hcd : c ≠ d := fun h => hd (h ▸ hcl)
      obtain ⟨u, hkept, hchan, hran⟩ := ih hrest hcl (runCh d op s)
      exact ⟨u, (runCh_kept d op s).trans hkept, hchan.trans (runCh_others d op s c hcd), hran⟩
    · obtain rfl : c = d := (List.mem_cons.1 hc).resolve_right hcl
      have hleft := (foldCh_here (op := fun _ => op) (P := fun _ _ => True) (fun _ _ _ => trivial) l hrest (runCh c op s) c).2 hcl
      exact ⟨s, PartKept.refl s, rfl, hleft.trans (runCh_here c op s)⟩

theorem runAll_turn (op : Env → W → W) (s : State) (c : Ch) :
    ∃ u, PartKept s u ∧ u.chans[c] = s.chans[c] ∧ (runAll op s).chans[c] = (ranCh c op u).ch :=
  foldCh_turn op (List.nodup_finRange 8) (List.mem_finRange c) s

theorem allMirror_iff (s : State) : s.allMirror = true ↔ ∀ c : Ch, s.chans[c].ctl.mode = .mirror := by
  unfold State.allMirror
  simp only [List.all_eq_true, decide_eq_true_eq]
  refine ⟨fun h c => h _ (by simp), fun h x hx => ?_⟩
  obtain ⟨i, hi, rfl⟩ := List.mem_iff_getElem.1 hx
  rw [Vector.length_toList] at hi
  simpa using h ⟨i, hi⟩

theorem rest_intake {v w : W} (h : v.rest = w.rest) : v.ch.intake = w.ch.intake := by
  simp only [W.rest, Prod.mk.injEq] at h
  obtain ⟨hintake, -⟩ := h
  exact hintake

/-! ## A step of HFN (R2, R16) -/

section Step

variable {env : Env} {w : W}

theorem stepChan_kept (env : Env) (w : W) : (stepChan env w).ch.mirror = w.ch.mirror ∧ (stepChan env w).ch.mon = w.ch.mon ∧
    (stepChan env w).rest = w.rest := by
  unfold stepChan
  simp

/-- A waiting switch that is due by the new number. -/
theorem stepChan_due {x : Switch} (hmode : w.mode = .mirror) (hswitch : w.ch.ctl.switch = some x)
    (hdue : x.target - (env.cp.lead + env.cp.margin) ≤ env.now) : (stepChan env w).ch.ctl.mode = .joining := by
  obtain ⟨v, hv⟩ : ∃ v, v = settle env (shadowEnd env w) := ⟨_, rfl⟩
  obtain ⟨hvmode, hvswitch, -⟩ := rule_ctl (w := v) (v := w) (by rw [hv]; simp)
  have hjoin : joiningDue env v.ch = some x := by
    unfold joiningDue
    rw [hvmode, hvswitch, show w.ch.ctl.mode = .mirror from hmode, hswitch]
    exact if_pos hdue
  obtain ⟨hm, -⟩ := rule_ctl (w := stepChan env w) (v := joiningStart env v) (by rw [hv]; unfold stepChan; simp)
  obtain ⟨hj, -⟩ := rule_ctl (joiningStart_due env v x hjoin)
  exact hm.trans hj

/-- No waiting switch is due by the new number. -/
theorem stepChan_idle (hearly : ∀ x, w.ch.ctl.switch = some x → env.now < x.target - (env.cp.lead + env.cp.margin)) :
    (stepChan env w).ch.ctl.mode = w.ch.ctl.mode ∧ (stepChan env w).ch.ctl.switch = w.ch.ctl.switch := by
  obtain ⟨v, hv⟩ : ∃ v, v = settle env (shadowEnd env w) := ⟨_, rfl⟩
  have hrule : v.rule = w.rule := by rw [hv]; simp
  obtain ⟨-, hvswitch, -⟩ := rule_ctl hrule
  have hidle : joiningDue env v.ch = none := by
    unfold joiningDue
    rw [hvswitch]
    cases hswitch : w.ch.ctl.switch with
    | none => cases v.ch.ctl.mode <;> rfl
    | some x =>
      have hnot : ¬ x.target - (env.cp.lead + env.cp.margin) ≤ env.now := not_le.2 (hearly x hswitch)
      cases v.ch.ctl.mode <;> first | exact if_neg hnot | rfl
  have hstep : (stepChan env w).rule = (joiningStart env v).rule := by rw [hv]; unfold stepChan; simp
  rw [joiningStart_idle env v hidle, hrule] at hstep
  obtain ⟨hm, hs, -⟩ := rule_ctl hstep
  exact ⟨hm, hs⟩

end Step

/-- A step of HFN: the number, and each channel against it. -/
theorem stepHfn_spec (n : Nat) (s : State) (hmirror : ∀ c : Ch, s.chans[c].ctl.mode = .mirror) :
    (stepHfn n s).time = { s.time with hfn := n, timeState := .set } ∧
      PartKept { s with time := (stepHfn n s).time } (stepHfn n s) ∧
      ∀ c : Ch, (stepHfn n s).chans[c].intake = s.chans[c].intake ∧ (stepHfn n s).chans[c].mon = s.chans[c].mon ∧
        (stepHfn n s).chans[c].mirror = s.chans[c].mirror ∧
        (∀ x, s.chans[c].ctl.switch = some x → x.target - (s.params.chans[c].lead + s.params.chans[c].margin) ≤ n →
          (stepHfn n s).chans[c].ctl.mode = .joining) ∧
        ((∀ x, s.chans[c].ctl.switch = some x → (n : Frame) < x.target - (s.params.chans[c].lead + s.params.chans[c].margin)) →
          (stepHfn n s).chans[c].ctl.mode = .mirror ∧ (stepHfn n s).chans[c].ctl.switch = s.chans[c].ctl.switch) := by
  obtain ⟨v, hv⟩ : ∃ v : State, v = { s with time := { s.time with hfn := n, timeState := .set } } := ⟨_, rfl⟩
  have hrun : stepHfn n s = runAll stepChan v := by rw [hv]; rfl
  have hkept : PartKept v (stepHfn n s) := by rw [hrun]; exact runAll_kept _ _
  have htime : (stepHfn n s).time = { s.time with hfn := n, timeState := .set } := by
    obtain ⟨-, ht, -⟩ := hkept
    rw [ht, hv]
  refine ⟨htime, by rw [htime, ← hv]; exact hkept, fun c => ?_⟩
  obtain ⟨u, hpart, hchan, hran⟩ := runAll_turn stepChan v c
  have hhfn : (envOf u c).now = n := by
    obtain ⟨-, ht, -⟩ := hpart
    show ((u.time.hfn : Nat) : Int) = n
    rw [ht, hv]
  have hcp : (envOf u c).cp = s.params.chans[c] := by
    obtain ⟨-, -, -, -, hp, -⟩ := hpart
    show u.params.chans[c] = _
    rw [hp, hv]
  have hbegun : (begun u c).ch = s.chans[c] := by
    show u.chans[c] = _
    rw [hchan, hv]
  obtain ⟨hmirror', hmon, hrest⟩ := stepChan_kept (envOf u c) (begun u c)
  rw [hrun, hran]
  refine ⟨?_, ?_, ?_, fun x hx hdue => ?_, fun hearly => ?_⟩
  · rw [← hbegun]; exact rest_intake hrest
  · rw [← hbegun]; exact hmon
  · rw [← hbegun]; exact hmirror'
  · exact stepChan_due (x := x) (show (begun u c).ch.ctl.mode = .mirror by rw [hbegun]; exact hmirror c) (by rw [hbegun]; exact hx)
      (by rw [hcp, hhfn]; exact hdue)
  · obtain ⟨hm, hs⟩ := stepChan_idle (env := envOf u c) (w := begun u c) fun x hx => by
      rw [hbegun] at hx
      rw [hcp, hhfn]
      exact hearly x hx
    rw [hbegun] at hm hs
    exact ⟨hm.trans (hmirror c), hs⟩

/-! ## LOG_FLUSH (R187) -/

theorem flushed_self {l : Log} (h : l.unreported = 0) :
    ({ l with unreported := 0, overrun := if l.unreported = 0 then l.overrun else 0 } : Log) = l := by
  rw [if_pos h, ← h]

theorem flushAll_spec {n fuel : Nat} (hn : 0 < n) {s : State} (h : LogOk s.log) (hfuel : s.log.unreported ≤ fuel) :
    Heard s (flushAll n fuel s) ∧ (flushAll n fuel s).log =
      { s.log with unreported := 0, overrun := if s.log.unreported = 0 then s.log.overrun else 0 } := by
  induction fuel generalizing s with
  | zero =>
    exact ⟨Heard.refl s, (flushed_self (l := s.log) (by omega)).symm⟩
  | succ fuel ih =>
    unfold flushAll
    by_cases h0 : s.log.unreported = 0
    · rw [if_pos h0]
      exact ⟨Heard.refl s, (flushed_self h0).symm⟩
    · have hle : min n s.log.unreported ≤ s.log.unreported := min_le_right _ _
      have hlog : (emitAsRun (min n s.log.unreported) s).log =
          { s.log with unreported := s.log.unreported - min n s.log.unreported, overrun := 0 } := by
        rw [emitAsRun_eq h hle]
      obtain ⟨hheard, hend⟩ := ih (s := emitAsRun (min n s.log.unreported) s)
        (by rw [hlog]; exact logOk_reported h (Nat.sub_le _ _)) (by rw [hlog]; dsimp only; omega)
      rw [if_neg h0, if_neg h0]
      refine ⟨(emitAsRun_heard _ s).trans hheard, ?_⟩
      rw [hend, hlog]
      simp

/-! ## The statement -/

/-- Nothing leaves on LOCAL_CTL while its link is DOWN (R80). -/
theorem replyPackets_down {s : State} {h : Head} {b : ReqBody} {a : Answer} (hdown : s.localUp = false) :
    replyPackets s .loc h b a = [] := by
  unfold replyPackets leaves
  unfold State.localUp at hdown
  cases haddr : s.ctlAddr .loc with
  | none => rfl
  | some x =>
    rw [haddr] at hdown
    exact if_neg (by rw [show s.ports[x.1].up = false from hdown]; decide)

section Turns

variable {f : CtlFlow} {h : Head} {s : State}

theorem timeSetOn_invalid {day : Nat} {l : Label} (hl : labelValid s.time.rate l = false) : timeSetOn day l s = deny .malformed s :=
  if_pos hl

theorem timeSetOn_valid {day : Nat} {l : Label} (hl : labelValid s.time.rate l = true) : timeSetOn day l s =
    if s.allMirror = false then deny .wrongMode s
    else (stepHfn (hfnOf s.time.rate day l) s, if labelExists s.time.rate l then .ok else .adjusted, .none) :=
  if_neg (by simp [hl])

theorem afterTurn_time (f : CtlFlow) (s : State) : (afterTurn f s).time = s.time := State.setInbound_time ..

theorem afterTurn_allMirror (f : CtlFlow) (s : State) : (afterTurn f s).allMirror = s.allMirror := by cases f <;> rfl

theorem exec_timeSet {day : Nat} {l : Label} (ht : Turn f h (.timeSet day l) s) (hl : labelValid s.time.rate l = true)
    (hmirror : ∀ c : Ch, s.chans[c].ctl.mode = .mirror) : exec (.timeSet f h day l) s =
      .next { stepHfn (hfnOf s.time.rate day l) (afterTurn f s) with
        sent := (stepHfn (hfnOf s.time.rate day l) (afterTurn f s)).sent ++
          replyPackets s f h (.timeSet day l) (if labelExists s.time.rate l then .ok else .adjusted, .none) } := by
  obtain ⟨hchans, hports, -⟩ := afterTurn_kept f s
  obtain ⟨-, ⟨-, -, hp, -⟩, -⟩ := stepHfn_spec (hfnOf s.time.rate day l) (afterTurn f s) (by rw [hchans]; exact hmirror)
  refine congrArg Host.Outcome.next (answered_turn_of ht ?_ (hp.trans hports))
  rw [timeSetOn_valid (by rw [afterTurn_time]; exact hl), afterTurn_allMirror, if_neg (by simp [(allMirror_iff s).2 hmirror]),
    afterTurn_time]

theorem exec_clearCounters_all (ht : Turn f h .clearCounters s) (hch : h.channel = 15) : exec (.clearCounters f h) s =
    .next { afterTurn f s with
      chans := s.chans.map Chan.clearCounts,
      ports := s.ports.map fun p => { p with unknownTag := 0, badFrame := 0, oversize := 0, overflow := 0 },
      time := { s.time with slips := 0 },
      sent := s.sent ++ replyPackets s f h .clearCounters (.ok, .none) } := by
  obtain ⟨hchans, hports, hsent⟩ := afterTurn_kept f s
  have hop : clearCountersOn h (afterTurn f s) = ({ afterTurn f s with
      chans := s.chans.map Chan.clearCounts,
      ports := s.ports.map fun p => { p with unknownTag := 0, badFrame := 0, oversize := 0, overflow := 0 },
      time := { s.time with slips := 0 } }, .ok, .none) := by
    rw [← hchans, ← hports, ← afterTurn_time f s]
    exact if_pos hch
  refine congrArg Host.Outcome.next ((answered_turn ht fun p => ?_).trans ?_)
  · rw [hop]; simp
  · rw [hop]
    show ({ afterTurn f s with chans := _, ports := _, time := _, sent := (afterTurn f s).sent ++ _ } : State) = _
    rw [hsent]

theorem clearCountersOn_named {c : Ch} (hn : Names h c) :
    clearCountersOn h s = (s.setCh c s.chans[c].clearCounts, .ok, .none) := by
  have hne : h.channel ≠ 15 := by rw [show h.channel = c.val from hn]; omega
  unfold clearCountersOn
  rw [if_neg hne, chanOf_names hn]
  rfl

theorem clearCountersOn_unnamed (hlo : 7 < h.channel) (hne : h.channel ≠ 15) : clearCountersOn h s = deny .badChannel s := by
  unfold clearCountersOn
  rw [if_neg hne, chanOf_none hlo]

theorem logFlushOn_up {t : State} (hup : s.localUp = true) (hlog : LogOk s.log)
    (ht : t = flushAll (if s.params.part.batchSize = 0 then 16 else s.params.part.batchSize) s.log.unreported s) :
    logFlushOn s = (t, .ok, .flushed s.log.unreported 0) := by
  have hpos : 0 < (if s.params.part.batchSize = 0 then 16 else s.params.part.batchSize) := by split <;> omega
  obtain ⟨-, hend⟩ := flushAll_spec hpos hlog (Nat.le_refl _)
  rw [← ht] at hend
  refine (if_pos hup).trans ?_
  dsimp only
  rw [← ht, hend]
  rfl

end Turns

/-- Settles O52: the time set, the counts cleared, and the log reported to its end. -/
theorem timeCountersAndLogAreServed : Obligations.TimeCountersAndLogAreServed := by
  unfold Obligations.TimeCountersAndLogAreServed
  refine ⟨fun f h day l s ht => ⟨fun hl hmirror => ?_, fun hl hnot => ?_, fun hl => ?_⟩,
    fun f h s ht => ⟨fun c hn => ?_, fun hch => exec_clearCounters_all ht hch, fun hlo hne => ?_⟩, fun x k n => ?_,
    fun f h s ht hlog => ⟨fun hup => ?_, fun hdown => ?_⟩⟩
  · obtain ⟨hchans, -, hsent⟩ := afterTurn_kept f s
    obtain ⟨htime, hkept, hch⟩ := stepHfn_spec (hfnOf s.time.rate day l) (afterTurn f s) (by rw [hchans]; exact hmirror)
    rw [afterTurn_time] at htime
    rw [hchans, afterTurn_params] at hch
    obtain ⟨v, hv⟩ : (afterTurn f s).sent <+: (stepHfn (hfnOf s.time.rate day l) (afterTurn f s)).sent := (stepHfn_calm _ _).2
    have hexec := exec_timeSet ht hl hmirror
    generalize stepHfn (hfnOf s.time.rate day l) (afterTurn f s) = u at htime hkept hch hv hexec
    exact ⟨_, hexec, htime, hkept, hch, v, by rw [← hsent, ← hv]⟩
  · refine congrArg Host.Outcome.next (answered_turn_denied ht ?_)
    have hfalse : s.allMirror = false := by
      rw [← Bool.not_eq_true, allMirror_iff]
      obtain ⟨c, hc⟩ := hnot
      exact fun h => hc (h c)
    rw [timeSetOn_valid (by rw [afterTurn_time]; exact hl), if_pos (by rw [afterTurn_allMirror]; exact hfalse)]
  · exact congrArg Host.Outcome.next (answered_turn_denied ht (timeSetOn_invalid (by rw [afterTurn_time]; exact hl)))
  · obtain ⟨hchans, hports, hsent⟩ := afterTurn_kept f s
    have hop := clearCountersOn_named (s := afterTurn f s) hn
    rw [hchans] at hop
    refine congrArg Host.Outcome.next ((answered_turn_of ht hop (by simp [hports])).trans ?_)
    simp [hsent]
  · exact congrArg Host.Outcome.next (answered_turn_denied ht (clearCountersOn_unnamed hlo hne))
  · refine ⟨by cases k <;> rfl, ?_, rfl, rfl, rfl, rfl, rfl, rfl, rfl, rfl, rfl⟩
    simp [Chan.clearCounts]
  · obtain ⟨hchans, hports, hsent⟩ := afterTurn_kept f s
    have hlog' : (afterTurn f s).log = s.log := State.setInbound_log ..
    have hpos : 0 < (if s.params.part.batchSize = 0 then 16 else s.params.part.batchSize) := by split <;> omega
    obtain ⟨v, hv⟩ : ∃ v, v = flushAll (if s.params.part.batchSize = 0 then 16 else s.params.part.batchSize) s.log.unreported
      (afterTurn f s) := ⟨_, rfl⟩
    obtain ⟨⟨hkept, hvchans⟩, hend⟩ := flushAll_spec (n := if s.params.part.batchSize = 0 then 16 else s.params.part.batchSize)
      (fuel := s.log.unreported) (s := afterTurn f s) hpos (by rw [hlog']; exact hlog) (by rw [hlog'])
    rw [← hv] at hkept hvchans hend
    have hop := logFlushOn_up (s := afterTurn f s) (t := v) (by rw [show (afterTurn f s).localUp = s.localUp by cases f <;> rfl]; exact hup)
      (by rw [hlog']; exact hlog) (by rw [hlog', afterTurn_params]; exact hv)
    obtain ⟨-, -, hvports, -, hvparams, -⟩ := hkept
    obtain ⟨l, hl⟩ : (afterTurn f s).sent <+: v.sent := by
      have h := (logFlushOn_calm (afterTurn f s)).2
      rwa [hop] at h
    rw [hlog'] at hop hend
    exact ⟨_, _, congrArg Host.Outcome.next (answered_turn_of ht hop (hvports.trans hports)), hend, rfl, hvchans.trans hchans,
      hvparams.trans (afterTurn_params f s), l, by rw [← hsent, ← hl]⟩
  · obtain ⟨hchans, hports, hsent⟩ := afterTurn_kept f s
    have hop : logFlushOn (afterTurn f s) = (afterTurn f s, .ok, .flushed 0 s.log.unreported) := by
      have hdown' : ¬ (afterTurn f s).localUp = true := by
        rw [show (afterTurn f s).localUp = s.localUp by cases f <;> rfl, hdown]; decide
      refine (if_neg hdown').trans ?_
      rw [show (afterTurn f s).log = s.log from State.setInbound_log ..]
    have hflow : CtlFlow.loc = f := by
      obtain ⟨-, -, hf, -⟩ := ht
      exact hf
    refine congrArg Host.Outcome.next ((answered_turn_of ht hop hports).trans ?_)
    subst hflow
    rw [replyPackets_down hdown, List.append_nil]

end Sys2Proof.Machine

/-! PROOFS. DIGEST_CHECK and SITE_BEAT (R15, R38 to R40, R59, R96): the visits of a scan, the day nearest to the main site's, and the
mirrors that a beat makes CURRENT. -/

namespace Sys2Proof.Machine

open Sys2Proof

/-! ## The visits of a scan (R39) -/

section Visit

variable {x : Scan} {l : List Event}

/-- In ascending order the events seen are the first of those left, and none of them is left. -/
theorem visit_left (hl : l.Pairwise fun a b => a.key < b.key) : (x.visit l).left l = (x.left l).drop x.budget := by
  have hsorted : (x.left l).Pairwise fun a b => a.key < b.key := hl.sublist List.filter_sublist
  obtain ⟨seen, hseen⟩ : ∃ seen, seen = (x.left l).take x.budget := ⟨_, rfl⟩
  have hsplit : x.left l = seen ++ (x.left l).drop x.budget := by rw [hseen, List.take_append_drop]
  have hnext : (x.visit l).next = match seen.getLast? with | some e => e.key + 1 | none => x.next := by rw [hseen]; rfl
  cases hlast : seen.getLast? with
  | none =>
    have hnil : seen = [] := List.getLast?_eq_none_iff.1 hlast
    have hsame : (x.visit l).next = x.next := by rw [hnext, hlast]
    rw [hnil, List.nil_append] at hsplit
    rw [← hsplit]
    unfold Scan.left
    rw [hsame]
  | some e =>
    have hafter : (x.visit l).next = e.key + 1 := by rw [hnext, hlast]
    obtain ⟨front, hfront⟩ : ∃ front, seen = front ++ [e] := List.getLast?_eq_some_iff.1 hlast
    have hmem : e ∈ x.left l := by rw [hsplit, hfront]; simp
    have hlow : x.next ≤ e.key := by
      obtain ⟨-, hle⟩ := List.mem_filter.1 hmem
      exact of_decide_eq_true hle
    have htwice : (x.visit l).left l = (x.left l).filter fun a => decide (e.key + 1 ≤ a.key) := by
      unfold Scan.left
      rw [hafter, List.filter_filter]
      refine List.filter_congr fun a _ => ?_
      rw [Bool.eq_iff_iff, Bool.and_eq_true, decide_eq_true_iff, decide_eq_true_iff]
      omega
    rw [htwice]
    generalize (x.left l).drop x.budget = rest at hsplit ⊢
    rw [hsplit, List.filter_append]
    rw [hsplit] at hsorted
    obtain ⟨hs, -, hcross⟩ := List.pairwise_append.1 hsorted
    rw [hfront] at hs hcross ⊢
    obtain ⟨-, -, hbefore⟩ := List.pairwise_append.1 hs
    have hnone : (front ++ [e]).filter (fun a => decide (e.key + 1 ≤ a.key)) = [] := by
      refine List.filter_eq_nil_iff.2 fun a ha => ?_
      rw [decide_eq_true_iff, not_le]
      rcases List.mem_append.1 ha with ha | ha
      · have := hbefore a ha e (List.mem_singleton_self e); omega
      · rw [List.mem_singleton.1 ha]; omega
    have hall : rest.filter (fun a => decide (e.key + 1 ≤ a.key)) = rest := by
      refine List.filter_eq_self.2 fun a ha => ?_
      have := hcross e (by simp) a ha
      rw [decide_eq_true_iff]; omega
    rw [hnone, hall, List.nil_append]

end Visit

/-! ## The end of a scan -/

section Ends

variable {env : Env} {w : W}

theorem digestScanEnd_going {x : Scan} (hscan : w.ch.store.scan = some x) (hleft : x.left w.ch.store.current ≠ []) :
    digestScanEnd env w = w := by
  unfold digestScanEnd
  rw [hscan]
  exact if_pos (by simpa [List.isEmpty_iff] using hleft)

/-- A change of mirror state hands its notice on behind what stands, and leaves the store. -/
theorem setMirror_adds (env : Env) (after : MirrorState) (cause : MirrorCause) (w : W) :
    (∃ l, (setMirror env after cause w).fx = w.fx ++ l) ∧ (setMirror env after cause w).ch.store = w.ch.store := by
  unfold setMirror
  dsimp only
  split
  · exact ⟨⟨[], (List.append_nil _).symm⟩, rfl⟩
  · exact ⟨⟨_, rfl⟩, rfl⟩

/-- What the end of a scan hands on stands behind what was handed on before, and its check stays or is gone. -/
theorem digestScanEnd_adds (env : Env) (w : W) : (∃ l, (digestScanEnd env w).fx = w.fx ++ l) ∧
    ((digestScanEnd env w).ch.store.scan = none ∨ (digestScanEnd env w).ch.store.scan = w.ch.store.scan) := by
  have hdiverged : ∀ u : W, (∃ l, u.fx = w.fx ++ l) → u.ch.store.scan = none →
      (∃ l, (refreshNeeded env .digestMismatch (setMirror env .diverged .digestMismatch u)).fx = w.fx ++ l) ∧
        ((refreshNeeded env .digestMismatch (setMirror env .diverged .digestMismatch u)).ch.store.scan = none ∨
          (refreshNeeded env .digestMismatch (setMirror env .diverged .digestMismatch u)).ch.store.scan = w.ch.store.scan) := by
    intro u ⟨l, hl⟩ hscan
    obtain ⟨⟨m, hm⟩, hstore⟩ := setMirror_adds env .diverged .digestMismatch u
    obtain ⟨n, hn⟩ : ∃ n, (refreshNeeded env .digestMismatch (setMirror env .diverged .digestMismatch u)).fx =
        (setMirror env .diverged .digestMismatch u).fx ++ [n] := ⟨_, rfl⟩
    refine ⟨⟨l ++ m ++ [n], ?_⟩, Or.inl ?_⟩
    · rw [hn, hm, hl, List.append_assoc, List.append_assoc, List.append_assoc]
    · show (setMirror env .diverged .digestMismatch u).ch.store.scan = none
      rw [hstore, hscan]
  unfold digestScanEnd
  split
  case h_1 hscan => exact ⟨⟨[], (List.append_nil _).symm⟩, Or.inl hscan⟩
  case h_2 x hscan =>
    split
    · exact ⟨⟨[], (List.append_nil _).symm⟩, Or.inr rfl⟩
    · dsimp only
      split
      · exact ⟨⟨_, rfl⟩, Or.inl rfl⟩
      · split
        · exact hdiverged _ ⟨_, rfl⟩ rfl
        · exact hdiverged _ ⟨_, rfl⟩ rfl
        · exact ⟨⟨_, rfl⟩, Or.inl rfl⟩
        · exact ⟨⟨_ ++ _, by rw [← List.append_assoc]; rfl⟩, Or.inl rfl⟩

/-! ## DIGEST_CHECK (R39, R40) -/

/-- The scan that a DIGEST_CHECK starts, before its first visits. -/
def newScan (addr : Option (Port × Nat)) (tag channel key count sum budget : Nat) : Scan :=
  { tag := tag, channel := channel, addr := addr, key := key, count := count, sum := sum, next := key, runCount := 0, runSum := 0,
    budget := budget }

variable {addr : Option (Port × Nat)} {tag channel key count sum : Nat}

theorem newScan_left (budget : Nat) (l : List Event) :
    (newScan addr tag channel key count sum budget).left l = l.filter fun e => decide (key ≤ e.key) := rfl

theorem digestCheckOn_first (hscan : w.ch.store.scan = none) : digestCheckOn addr tag channel key count sum env w =
    digestScanEnd env (w.modStore fun t =>
      { t with scan := some ((newScan addr tag channel key count sum 64).visit w.ch.store.current) }) := by
  unfold digestCheckOn
  rw [hscan]
  rfl

theorem digestCheckOn_again {y : Scan} (hscan : w.ch.store.scan = some y) : digestCheckOn addr tag channel key count sum env w =
    digestScanEnd env ((w.emit (.reply y.addr .main 3 y.tag y.channel .superseded .none)).modStore fun t =>
      { t with scan := some ((newScan addr tag channel key count sum y.budget).visit w.ch.store.current) }) := by
  unfold digestCheckOn
  rw [hscan]
  rfl

/-- What the first visits count. -/
theorem newScan_visit (budget : Nat) (l : List Event) : ((newScan addr tag channel key count sum budget).visit l).runCount =
      ((l.filter fun e => decide (key ≤ e.key)).take budget).length ∧
    ((newScan addr tag channel key count sum budget).visit l).runSum =
      (((l.filter fun e => decide (key ≤ e.key)).take budget).map digestTerm).sum % two32 := by
  constructor
  · show 0 + _ = _
    rw [Nat.zero_add]
    rfl
  · show (0 + _) % two32 = _
    rw [Nat.zero_add]
    rfl

end Ends

section Turns

variable {f : CtlFlow} {h : Head} {c : Ch} {key count sum : Nat} {s : State}

theorem exec_digestCheck (ht : Turn f h (.digestCheck key count sum) s) (hn : Names h c) : exec (.digestCheck f h key count sum) s =
    .next (runCh c (digestCheckOn (s.ctlAddr f) h.tag h.channel key count sum) (afterTurn f s)) := by
  refine congrArg Host.Outcome.next ((takeRequest_turn _ ht).trans ?_)
  unfold digestCheckAct
  rw [chanOf_names hn]

theorem digestCheck_within (addr : Option (Port × Nat)) : Within c (afterTurn f s)
    (runCh c (digestCheckOn addr h.tag h.channel key count sum) (afterTurn f s)) := within_runCh (digestCheckOn_rest ..)

theorem runCh_silent {op : Env → W → W} (hfx : (ranCh c op s).fx = []) : (runCh c op s).sent = s.sent := by
  have hrun : runCh c op s = (ranCh c op s).fx.foldl (applyEffect c) (s.setCh c (ranCh c op s).ch) := rfl
  rw [hrun, hfx]
  rfl

/-- At most 64 events from the key on: the answer is made within the request. -/
theorem digestCheck_answered {l : List Event} (ht : Turn f h (.digestCheck key count sum) s) (hn : Names h c)
    (hscan : s.chans[c].store.scan = none) (hsorted : s.chans[c].store.current.Pairwise fun x y => x.key < y.key)
    (hl : l = s.chans[c].store.current.filter fun e => decide (key ≤ e.key)) (hshort : l.length ≤ 64) :
    ∃ t v, exec (.digestCheck f h key count sum) s = .next t ∧ Within c (afterTurn f s) t ∧
      t.chans[c].store.scan = none ∧ t.chans[c].store.current = s.chans[c].store.current ∧
      t.sent = s.sent ++ replyPackets s f h (.digestCheck key count sum)
        (if count = l.length ∧ sum = (l.map digestTerm).sum % 4294967296 then .ok else .mismatch,
         .digest l.length ((l.map digestTerm).sum % 4294967296)) ++ v := by
  obtain ⟨x, hx⟩ : ∃ x, x = (newScan (s.ctlAddr f) h.tag h.channel key count sum 64).visit s.chans[c].store.current := ⟨_, rfl⟩
  obtain ⟨hcount, hsum⟩ := newScan_visit (addr := s.ctlAddr f) (tag := h.tag) (channel := h.channel) (key := key) (count := count)
    (sum := sum) 64 s.chans[c].store.current
  rw [← hl, List.take_of_length_le hshort, ← hx] at hcount hsum
  have hleft : x.left s.chans[c].store.current = [] := by
    rw [hx, visit_left hsorted, newScan_left, ← hl]
    exact List.drop_eq_nil_of_le hshort
  obtain ⟨w, hw⟩ : ∃ w, w = (begun s c).modStore fun t => { t with scan := some x } := ⟨_, rfl⟩
  have hop : ranCh c (digestCheckOn (s.ctlAddr f) h.tag h.channel key count sum) (afterTurn f s) = digestScanEnd (envOf s c) w := by
    rw [ranCh_afterTurn, hw, hx]
    exact digestCheckOn_first hscan
  obtain ⟨ok, hok⟩ : ∃ ok : Bool, ok = true ↔ x.count = x.runCount ∧ x.sum = x.runSum :=
    ⟨decide (x.count = x.runCount ∧ x.sum = x.runSum), decide_eq_true_iff⟩
  obtain ⟨m, hfx, hstore, -⟩ := digestScanEnd_ended (env := envOf s c) (w := w) (x := x) (by rw [hw]; rfl)
    (by rw [hw]; exact hleft) (by rw [hw]; rfl) ok hok
  obtain ⟨v, hv⟩ := runCh_reply_first (c := c) (s := afterTurn f s)
    (op := digestCheckOn (s.ctlAddr f) h.tag h.channel key count sum) (by rw [hop]; exact hfx)
  have hmain : CtlFlow.main = f := by
    obtain ⟨-, -, hf, -⟩ := ht
    exact hf
  have hleaves : ∀ o, leaves (afterTurn f s) x.addr o = leaves s (s.ctlAddr f) o := by
    intro o
    rw [show x.addr = s.ctlAddr f by rw [hx]; rfl]
    unfold leaves
    rw [(afterTurn_kept f s).2.1]
  have hstatus : (if ok then Status.ok else .mismatch) =
      if count = l.length ∧ sum = (l.map digestTerm).sum % 4294967296 then .ok else .mismatch := by
    refine if_congr (hok.trans ?_) rfl rfl
    rw [hcount, hsum, hx]
    exact Iff.rfl
  refine ⟨_, v, exec_digestCheck ht hn, digestCheck_within _, ?_, ?_, ?_⟩
  · rw [runCh_here, hop, hstore]
  · rw [runCh_here, hop, hstore, hw]; rfl
  · rw [hv, hleaves, (afterTurn_kept f s).2.2, hstatus, hcount, hsum, show x.tag = h.tag by rw [hx]; rfl,
      show x.channel = h.channel by rw [hx]; rfl]
    subst hmain
    rfl

/-- More events than that: the scan goes on with the 64 lowest keys visited. -/
theorem digestCheck_going {l : List Event} (ht : Turn f h (.digestCheck key count sum) s) (hn : Names h c)
    (hscan : s.chans[c].store.scan = none) (hsorted : s.chans[c].store.current.Pairwise fun x y => x.key < y.key)
    (hl : l = s.chans[c].store.current.filter fun e => decide (key ≤ e.key)) (hlong : 64 < l.length) :
    ∃ t x, exec (.digestCheck f h key count sum) s = .next t ∧ Within c (afterTurn f s) t ∧
      t.chans[c].store.scan = some x ∧ x.tag = h.tag ∧ x.key = key ∧ x.runCount = 64 ∧
      x.runSum = ((l.take 64).map digestTerm).sum % 4294967296 ∧ t.sent = s.sent ∧ t.chans[c].mirror = s.chans[c].mirror := by
  obtain ⟨x, hx⟩ : ∃ x, x = (newScan (s.ctlAddr f) h.tag h.channel key count sum 64).visit s.chans[c].store.current := ⟨_, rfl⟩
  obtain ⟨hcount, hsum⟩ := newScan_visit (addr := s.ctlAddr f) (tag := h.tag) (channel := h.channel) (key := key) (count := count)
    (sum := sum) 64 s.chans[c].store.current
  rw [← hl, ← hx] at hcount hsum
  have hleft : x.left s.chans[c].store.current ≠ [] := by
    rw [hx, visit_left hsorted, newScan_left, ← hl]
    exact fun h => absurd (List.drop_eq_nil_iff.1 h) (Nat.not_le.2 hlong)
  obtain ⟨w, hw⟩ : ∃ w, w = (begun s c).modStore fun t => { t with scan := some x } := ⟨_, rfl⟩
  have hop : ranCh c (digestCheckOn (s.ctlAddr f) h.tag h.channel key count sum) (afterTurn f s) = w := by
    rw [ranCh_afterTurn, ← digestScanEnd_going (env := envOf s c) (w := w) (x := x) (by rw [hw]; rfl) (by rw [hw]; exact hleft), hw, hx]
    exact digestCheckOn_first hscan
  refine ⟨_, x, exec_digestCheck ht hn, digestCheck_within _, ?_, by rw [hx]; rfl, by rw [hx]; rfl,
    hcount.trans (List.length_take_of_le hlong.le), hsum, ?_, ?_⟩
  · rw [runCh_here, hop, hw]; rfl
  · rw [runCh_silent (by rw [hop, hw]; rfl), (afterTurn_kept f s).2.2]
  · rw [runCh_here, hop, hw]; rfl

/-- A check in progress is answered SUPERSEDED first. -/
theorem digestCheck_superseded {y : Scan} (ht : Turn f h (.digestCheck key count sum) s) (hn : Names h c)
    (hscan : s.chans[c].store.scan = some y) : ∃ t, exec (.digestCheck f h key count sum) s = .next t ∧
      Within c (afterTurn f s) t ∧
      (∀ x, t.chans[c].store.scan = some x → x.tag = h.tag ∧ x.key = key ∧ x.count = count ∧ x.sum = sum) ∧
      s.sent ++ leaves s y.addr (.reply .main 3 y.tag y.channel .superseded .none) <+: t.sent := by
  obtain ⟨x, hx⟩ : ∃ x, x = (newScan (s.ctlAddr f) h.tag h.channel key count sum y.budget).visit s.chans[c].store.current := ⟨_, rfl⟩
  obtain ⟨w, hw⟩ : ∃ w, w = ((begun s c).emit (.reply y.addr .main 3 y.tag y.channel .superseded .none)).modStore fun t =>
      { t with scan := some x } := ⟨_, rfl⟩
  have hop : ranCh c (digestCheckOn (s.ctlAddr f) h.tag h.channel key count sum) (afterTurn f s) = digestScanEnd (envOf s c) w := by
    rw [ranCh_afterTurn, hw, hx]
    exact digestCheckOn_again hscan
  obtain ⟨⟨m, hm⟩, hstays⟩ := digestScanEnd_adds (envOf s c) w
  have hfx : (digestScanEnd (envOf s c) w).fx = .reply y.addr .main 3 y.tag y.channel .superseded .none :: m := by
    rw [hm, hw]; rfl
  obtain ⟨v, hv⟩ := runCh_reply_first (c := c) (s := afterTurn f s)
    (op := digestCheckOn (s.ctlAddr f) h.tag h.channel key count sum) (by rw [hop]; exact hfx)
  refine ⟨_, exec_digestCheck ht hn, digestCheck_within _, fun z hz => ?_, ?_⟩
  · rw [runCh_here, hop] at hz
    rcases hstays with hnone | hsame
    · rw [hnone] at hz; cases hz
    · rw [hsame, hw] at hz
      obtain rfl : x = z := Option.some.inj hz
      rw [hx]
      exact ⟨rfl, rfl, rfl, rfl⟩
  · rw [hv, (afterTurn_kept f s).2.2]
    have hleaves : leaves (afterTurn f s) y.addr (.reply .main 3 y.tag y.channel .superseded .none) =
        leaves s y.addr (.reply .main 3 y.tag y.channel .superseded .none) := by
      unfold leaves
      rw [(afterTurn_kept f s).2.1]
    rw [hleaves]
    exact List.prefix_append _ _

end Turns

/-- Settles O39: a check answered at once, one that goes on, and the one that it supersedes. -/
theorem digestChecksCountAndSum : Obligations.DigestChecksCountAndSum := by
  unfold Obligations.DigestChecksCountAndSum
  exact ⟨fun f h c key count sum l s ht hn hscan hsorted hl => ⟨fun hshort => digestCheck_answered ht hn hscan hsorted hl hshort,
    fun hlong => digestCheck_going ht hn hscan hsorted hl hlong⟩,
    fun f h c key count sum y s ht hn hscan => digestCheck_superseded ht hn hscan⟩

/-! ## The day of a beat (R15) -/

/-- The least of a list by a cost, and the first of equals. -/
theorem foldl_least {α : Type} (cost : α → Nat) (l : List α) (a : α) :
    let r := l.foldl (fun best d => if cost d < cost best then d else best) a
    (r = a ∨ r ∈ l) ∧ cost r ≤ cost a ∧ (∀ x ∈ l, cost r ≤ cost x) ∧ (cost r = cost a → r = a) := by
  induction l generalizing a with
  | nil => simp
  | cons b l ih =>
    dsimp only at ih ⊢
    rw [List.foldl_cons]
    obtain ⟨hmem, hle, hall, hsame⟩ := ih (if cost b < cost a then b else a)
    generalize l.foldl (fun best d => if cost d < cost best then d else best) (if cost b < cost a then b else a) = r at *
    by_cases hlt : cost b < cost a
    · rw [if_pos hlt] at hmem hle hsame
      refine ⟨Or.inr (List.mem_cons.2 hmem), by omega, fun x hx => ?_, fun h => by omega⟩
      rcases List.mem_cons.1 hx with rfl | hx
      · exact hle
      · exact hall x hx
    · rw [if_neg hlt] at hmem hle hsame
      refine ⟨hmem.imp_right (List.mem_cons_of_mem _), hle, fun x hx => ?_, hsame⟩
      rcases List.mem_cons.1 hx with rfl | hx
      · omega
      · exact hall x hx

theorem nearestDay_spec (rc : RateCode) (day target now : Nat) {d F g : Nat} (hd : d = nearestDay rc day target now)
    (hF : F = RateCode.perDay rc) (hg : g = now % F) : (d = day ∨ d + 1 = day ∨ (d = day + 1 ∧ d < 65536)) ∧
      (∀ e, e = day ∨ e + 1 = day ∨ (e = day + 1 ∧ e < 65536) → apart (d * F + g) target ≤ apart (e * F + g) target) ∧
      (apart (d * F + g) target = apart (day * F + g) target → d = day) := by
  have hdays : ∀ e, e ∈ [day] ++ (if 0 < day then [day - 1] else []) ++ (if day < 65535 then [day + 1] else []) ↔
      e = day ∨ e + 1 = day ∨ (e = day + 1 ∧ e < 65536) := by
    intro e
    by_cases h0 : 0 < day <;> by_cases h1 : day < 65535 <;> simp [h0, h1] <;> omega
  subst hF hg
  obtain ⟨hmem, -, hall, hsame⟩ := foldl_least (fun e => apart (e * RateCode.perDay rc + now % RateCode.perDay rc) target)
    ([day] ++ (if 0 < day then [day - 1] else []) ++ (if day < 65535 then [day + 1] else [])) day
  rw [show List.foldl _ _ _ = d from hd.symm] at hmem hall hsame
  refine ⟨?_, fun e he => hall e ((hdays e).2 he), hsame⟩
  rcases hmem with h | h
  · exact Or.inl h
  · exact (hdays d).1 h

/-! ## SITE_BEAT -/

theorem goCurrent_state (env : Env) (w : W) : (goCurrent env w).ch.mirror.state =
    if w.ch.mirror.state = .stale then .current else w.ch.mirror.state := by
  unfold goCurrent
  by_cases hstale : w.ch.mirror.state = .stale
  · rw [if_pos hstale, if_pos hstale, setMirror_changed (by rw [hstale]; decide)]
  · rw [if_neg hstale, if_neg hstale]

section Beat

variable {f : CtlFlow} {h : Head} {s : State} {day : Nat} {l : Label}

theorem setDay_set (hunset : s.time.timeState = .unset) (hall : s.allMirror = true) : setDay day l s =
    (stepHfn (nearestDay s.time.rate day (hfnOf s.time.rate day l) s.time.hfn * RateCode.perDay s.time.rate +
      s.time.hfn % RateCode.perDay s.time.rate) s, true) := if_pos ⟨hunset, hall⟩

theorem setDay_stands (hnot : s.time.timeState = .set ∨ ∃ c : Ch, s.chans[c].ctl.mode ≠ .mirror) : setDay day l s = (s, false) := by
  refine if_neg fun ⟨hunset, hall⟩ => ?_
  rcases hnot with hset | ⟨c, hc⟩
  · rw [hunset] at hset; cases hset
  · exact hc ((allMirror_iff s).1 hall c)

/-- Setting the day leaves the mirrors and the ports. -/
theorem setDay_kept (day : Nat) (l : Label) (s : State) : (setDay day l s).1.ports = s.ports ∧
    ∀ c : Ch, (setDay day l s).1.chans[c].mirror = s.chans[c].mirror := by
  unfold setDay
  by_cases hset : s.time.timeState = .unset ∧ s.allMirror = true
  · rw [if_pos hset]
    obtain ⟨-, ⟨-, -, hports, -⟩, hch⟩ := stepHfn_spec (nearestDay s.time.rate day (hfnOf s.time.rate day l) s.time.hfn *
      RateCode.perDay s.time.rate + s.time.hfn % RateCode.perDay s.time.rate) s ((allMirror_iff s).1 hset.2)
    refine ⟨hports, fun c => ?_⟩
    obtain ⟨-, -, hmirror, -⟩ := hch c
    exact hmirror
  · rw [if_neg hset]
    exact ⟨rfl, fun _ => rfl⟩

theorem siteBeatOn_valid (hl : labelValid s.time.rate l = true) :
    ∃ body, siteBeatOn day l s = (runAll goCurrent { (setDay day l s).1 with beat := 0, expired := false },
      if labelExists s.time.rate l then .ok else .adjusted, body) := by
  unfold siteBeatOn
  rw [if_neg (by simp [hl])]
  exact ⟨_, rfl⟩

end Beat

/-- Settles O40: the timer, the mirrors, and the day where it is set. -/
theorem siteBeatsRestartTheTimer : Obligations.SiteBeatsRestartTheTimer := by
  unfold Obligations.SiteBeatsRestartTheTimer
  refine fun f h day l s ht => ⟨fun hl => ?_, fun hl => congrArg Host.Outcome.next (answered_turn_denied ht (if_pos ?_))⟩
  · obtain ⟨hchans, hports, hsent⟩ := afterTurn_kept f s
    obtain ⟨u, hu⟩ : ∃ u, u = (setDay day l (afterTurn f s)).1 := ⟨_, rfl⟩
    obtain ⟨t, hrun⟩ : ∃ t, t = runAll goCurrent { u with beat := 0, expired := false } := ⟨_, rfl⟩
    obtain ⟨body, hop⟩ := siteBeatOn_valid (s := afterTurn f s) (day := day) (l := l) (by rw [afterTurn_time]; exact hl)
    rw [← hu, ← hrun, afterTurn_time] at hop
    obtain ⟨huports, humirror⟩ := setDay_kept day l (afterTurn f s)
    rw [← hu, hports] at huports
    rw [← hu, hchans] at humirror
    have hkept : PartKept { u with beat := 0, expired := false } t := by rw [hrun]; exact runAll_kept _ _
    have hcalm : (afterTurn f s).sent <+: t.sent := by
      have h := (siteBeatOn_calm day l (afterTurn f s)).2
      rwa [hop] at h
    have hstates : ∀ c : Ch, t.chans[c].mirror.state = if s.chans[c].mirror.state = .stale then .current
        else s.chans[c].mirror.state := by
      intro c
      have h := runAll_here (op := goCurrent) (P := fun a b => b.mirror.state = if a.mirror.state = .stale then .current
        else a.mirror.state) goCurrent_state { u with beat := 0, expired := false } c
      rw [← hrun] at h
      rw [h, ← humirror c]
    obtain ⟨-, htime, htports, -, -, -, -, hbeat, hexpired, -⟩ := hkept
    obtain ⟨v, hv⟩ := hcalm
    refine ⟨_, body, congrArg Host.Outcome.next (answered_turn_of ht hop (htports.trans huports)), hbeat, hexpired,
      ⟨v, by rw [← hsent, ← hv]⟩, hstates, fun hunset hmirror => ?_, fun hnot => ?_⟩
    · obtain ⟨d, hd⟩ : ∃ d, d = nearestDay s.time.rate day (hfnOf s.time.rate day l) s.time.hfn := ⟨_, rfl⟩
      have hset := setDay_set (s := afterTurn f s) (day := day) (l := l) (by rw [afterTurn_time]; exact hunset)
        (by rw [afterTurn_allMirror]; exact (allMirror_iff s).2 hmirror)
      rw [afterTurn_time, ← hd] at hset
      obtain ⟨hstep, -⟩ := stepHfn_spec (d * RateCode.perDay s.time.rate + s.time.hfn % RateCode.perDay s.time.rate) (afterTurn f s)
        (by rw [hchans]; exact hmirror)
      rw [afterTurn_time] at hstep
      have htime' : t.time = u.time := htime
      rw [hu, hset] at htime'
      dsimp only at htime'
      rw [hstep] at htime'
      obtain ⟨hday, hleast, hsame⟩ := nearestDay_spec s.time.rate day (hfnOf s.time.rate day l) s.time.hfn hd rfl rfl
      have hhfn : t.time.hfn = d * RateCode.perDay s.time.rate + s.time.hfn % RateCode.perDay s.time.rate :=
        congrArg TimeBase.hfn htime'
      refine ⟨?_, d, _, _, _, rfl, rfl, rfl, hhfn, hday, hleast, hsame⟩
      show t.time = { s.time with hfn := t.time.hfn, timeState := .set }
      rw [hhfn]
      exact htime'
    · show t.time = s.time
      have hstands := setDay_stands (s := afterTurn f s) (day := day) (l := l) (by rw [afterTurn_time, hchans]; exact hnot)
      rw [htime, hu, hstands]
      exact afterTurn_time f s
  · rw [afterTurn_time]; exact hl

end Sys2Proof.Machine

/-! PROOFS. Break-ins (R148 to R155): their start, their expiry, the context they save, the resume and the end. -/

namespace Sys2Proof.Machine

open Sys2Proof

/-! ## The saved context (R151) -/

theorem offsetAt_origin {c : Chan} {i : Item} {q : Frame} (h : c.origin i.event = some q) (f : Frame) : c.offsetAt i f = f - q := by
  unfold Chan.offsetAt; rw [h]

theorem carriesFill_iff (i : Item) : i.carriesFill = true ↔ i.kind = .fill .blank ∨ i.kind = .fill .absent := by
  simp [Item.carriesFill]

theorem ofEvent_iff (i : Item) : i.ofEvent = true ↔ i.kind = .pass ∨ i.kind = .fill .blank ∨ i.kind = .fill .absent := by
  simp [Item.ofEvent, Item.isPass, carriesFill_iff]

/-- Where the anchor says the running order stood. -/
def anchorPoint (env : Env) (c : Chan) : Nat × Int :=
  match c.store.anchor with
  | some a => match c.store.event a.event with
    | some _ => (a.event, env.now - (a.frame - a.offset))
    | none => (0, 0)
  | none => (0, 0)

theorem anchorPoint_named {env : Env} {c : Chan} {a : Anchor} (ha : c.store.anchor = some a)
    (he : (c.store.event a.event).isSome = true) : anchorPoint env c = (a.event, env.now - (a.frame - a.offset)) := by
  obtain ⟨e, he⟩ := Option.isSome_iff_exists.1 he
  unfold anchorPoint; rw [ha]; dsimp only; rw [he]

theorem anchorPoint_unnamed {env : Env} {c : Chan}
    (h : c.store.anchor = none ∨ (∃ a, c.store.anchor = some a ∧ c.store.event a.event = none)) : anchorPoint env c = (0, 0) := by
  unfold anchorPoint
  rcases h with h | ⟨a, ha, he⟩
  · rw [h]
  · rw [ha]; dsimp only; rw [he]

theorem savedPoint_onAir {env : Env} {c : Chan} {o : OnAir} (ho : c.seq.onAir = some o) : savedPoint env c =
    if o.item.ofEvent then (o.item.event, c.offsetAt o.item env.now)
    else if o.item.kind = .fill .wait ∧ o.item.forEvent ≠ 0 then
      (o.item.forEvent, c.offsetAt { o.item with event := o.item.forEvent, pass := o.item.forPass } env.now)
    else anchorPoint env c := by
  unfold savedPoint
  rw [ho]
  rfl

theorem savedContext_point {env : Env} {c : Chan} {m : ResumeMode} {n : Nat} {j : Int} (h : savedPoint env c = (n, j)) :
    (savedContext env m c).event = n ∧ (savedContext env m c).offset = j :=
  ⟨congrArg Prod.fst h, congrArg Prod.snd h⟩

theorem savedContext_remaining (env : Env) (m : ResumeMode) (c : Chan) (y : Saved) (hy : y = savedContext env m c) :
    (∀ e, c.store.event y.event = some e → y.remaining = e.passes - (y.offset / (e.duration : Int)).toNat - 1) ∧
      (c.store.event y.event = none → y.remaining = 0) := by
  subst hy
  have hunfold : (savedContext env m c).remaining = match c.store.event (savedContext env m c).event with
      | some e => e.passes - ((savedContext env m c).offset / (e.duration : Int)).toNat - 1
      | none => 0 := rfl
  exact ⟨fun e he => by rw [hunfold, he], fun he => by rw [hunfold, he]⟩

/-- A saved context of an item that left the air. -/
theorem savedContext_onAir (env : Env) (m : ResumeMode) (c : Chan) (y : Saved) (hy : y = savedContext env m c) (o : OnAir)
    (ho : c.seq.onAir = some o) :
    (∀ q, o.item.kind = .pass ∨ o.item.kind = .fill .blank ∨ o.item.kind = .fill .absent → o.item.event ≠ 0 →
      c.origin o.item.event = some q → y.event = o.item.event ∧ y.offset = env.now - q) ∧
    (∀ q, o.item.kind = .fill .wait → o.item.forEvent ≠ 0 → c.origin o.item.forEvent = some q →
      y.event = o.item.forEvent ∧ y.offset = env.now - q) ∧
    (o.item.kind = .fill .gap ∨ o.item.kind = .fill .scheduleEnd →
      (∀ a, c.store.anchor = some a → (c.store.event a.event).isSome = true →
        y.event = a.event ∧ y.offset = env.now - (a.frame - a.offset)) ∧
      (c.store.anchor = none ∨ (∃ a, c.store.anchor = some a ∧ c.store.event a.event = none) →
        y.event = 0 ∧ y.offset = 0)) := by
  subst hy
  have hpoint := savedPoint_onAir (env := env) ho
  refine ⟨fun q hkind hid hq => ?_, fun q hkind hid hq => ?_, fun hkind => ?_⟩
  · rw [if_pos ((ofEvent_iff _).2 hkind), offsetAt_origin hq] at hpoint
    exact savedContext_point hpoint
  · have hoff := offsetAt_origin (i := { o.item with event := o.item.forEvent, pass := o.item.forPass }) hq env.now
    rw [if_neg (by rw [ofEvent_iff, hkind]; simp), if_pos ⟨hkind, hid⟩, hoff] at hpoint
    exact savedContext_point hpoint
  · have hplace : savedPoint env c = anchorPoint env c := by
      rw [hpoint, if_neg (by rw [ofEvent_iff]; rcases hkind with h | h <;> rw [h] <;> simp),
        if_neg (by rcases hkind with h | h <;> rw [h] <;> simp)]
    refine ⟨fun a ha he => ?_, fun hnone => ?_⟩
    · rw [anchorPoint_named ha he] at hplace
      exact savedContext_point hplace
    · rw [anchorPoint_unnamed hnone] at hplace
      exact savedContext_point hplace

/-! ## The resume (R154) -/

/-- The frame at which a resume sets the anchor to the saved offset. -/
def resumeFrame (m : ResumeMode) (r : Frame) (x : Saved) : Frame :=
  match m with
  | .whereLeft => r
  | .onTime => x.b

/-- A resume recorded, with the anchor that it sets. -/
def resumeSet (why : ResumeCause) (m : ResumeMode) (r : Frame) (x : Saved) (w : W) : W :=
  (w.modCtl fun c => { c with resume := some { cause := why, mode := m, r := r } }).modStore fun t => { t with
    anchor := if x.event = 0 then t.anchor else some { event := x.event, offset := x.offset, frame := resumeFrame m r x } }

theorem beginResume_set (env : Env) (why : ResumeCause) (m : ResumeMode) (r : Frame) (x : Saved) (w : W) (hctx : w.ch.ctl.ctx = some x) :
    beginResume env why m r w =
      pump env (settle env (handJoin env .resume r (judgeHeld env r (settle env (resumeSet why m r x w))))) := by
  unfold beginResume resumeSet
  rw [hctx]
  dsimp only
  by_cases h : x.event = 0
  · simp only [h, if_true]; rfl
  · simp only [h, if_false]; rfl

theorem beginResume_eq (env : Env) (why : ResumeCause) (m : ResumeMode) (r : Frame) (x : Saved) (w u : W) (hctx : w.ch.ctl.ctx = some x)
    (hu : u = (w.modCtl fun c => { c with resume := some { cause := why, mode := m, r := r } }).modStore (fun t => { t with
      anchor := if x.event = 0 then t.anchor
        else some { event := x.event, offset := x.offset, frame := match m with | .whereLeft => r | .onTime => x.b } })) :
    beginResume env why m r w = pump env (settle env (handJoin env .resume r (judgeHeld env r (settle env u)))) := by
  have hset : u = resumeSet why m r x w := hu.trans (by cases m <;> rfl)
  rw [hset]
  exact beginResume_set env why m r x w hctx

/-! ## The held list at a resume (R160) -/

/-- What a resume makes of one entry of the held list. -/
def heldJudged (env : Env) (r : Frame) (w : W) (t : PendTrig) : W :=
  let frame : Frame := match w.ch.origin t.event with
    | some o => o + t.offset
    | none => t.frame
  let pass := match w.ch.store.event t.event with
    | some e => t.offset / e.duration
    | none => t.pass
  if frame < r then (w.setMark t.event t.index (some frame)).trigRecord env t.event pass t.offset t.source .missed t.code
  else w.setMark t.event t.index none

theorem judgeHeld_eq (env : Env) (r : Frame) (w : W) :
    judgeHeld env r w = w.ch.trig.held.foldl (heldJudged env r) (w.modTrig fun l => { l with held := [] }) := rfl

/-- An entry's judging does not read the held list, and leaves it. -/
theorem heldJudged_modTrig (env : Env) (r : Frame) (w : W) (t : PendTrig) (f : Triggers → Triggers) :
    heldJudged env r (w.modTrig f) t = (heldJudged env r w t).modTrig f := by
  have hcase : ∀ (frame : Frame) (pass : Nat),
      (if frame < r then ((w.modTrig f).setMark t.event t.index (some frame)).trigRecord env t.event pass t.offset t.source .missed t.code
        else (w.modTrig f).setMark t.event t.index none) =
      (if frame < r then (w.setMark t.event t.index (some frame)).trigRecord env t.event pass t.offset t.source .missed t.code
        else w.setMark t.event t.index none).modTrig f := fun frame pass => by split <;> rfl
  exact hcase _ _

theorem heldJudged_trig (env : Env) (r : Frame) (w : W) (t : PendTrig) : (heldJudged env r w t).ch.trig = w.ch.trig := by
  have hcase : ∀ (frame : Frame) (pass : Nat),
      (if frame < r then (w.setMark t.event t.index (some frame)).trigRecord env t.event pass t.offset t.source .missed t.code
        else w.setMark t.event t.index none).ch.trig = w.ch.trig := fun frame pass => by split <;> rfl
  exact hcase _ _

/-- The first entry of the held list is judged first. -/
theorem judgeHeld_cons (env : Env) (r : Frame) (w u : W) (x : PendTrig) (l : List PendTrig) (h : w.ch.trig.held = x :: l)
    (hu : u = w.modTrig fun t => { t with held := l }) : judgeHeld env r w = judgeHeld env r (heldJudged env r u x) := by
  have hrest : (heldJudged env r u x).ch.trig.held = l := by rw [heldJudged_trig, hu]; rfl
  have hempty : (heldJudged env r u x).modTrig (fun t => { t with held := [] }) =
      heldJudged env r (w.modTrig fun t => { t with held := [] }) x := by
    rw [← heldJudged_modTrig, hu]; rfl
  rw [judgeHeld_eq, judgeHeld_eq, h, hrest, hempty, List.foldl_cons]

theorem judgeHeld_none (env : Env) (r : Frame) (w : W) (h : w.ch.trig.held = []) : judgeHeld env r w = w := by
  have hself : w.modTrig (fun t => { t with held := [] }) = w := by
    rw [← h]; rfl
  rw [judgeHeld_eq, h, hself]
  rfl

theorem heldJudged_placed {env : Env} {r : Frame} {w u : W} {x : PendTrig} {q : Frame} {e : Event} {f : Triggers → Triggers}
    (hq : w.ch.origin x.event = some q) (he : w.ch.store.event x.event = some e) (hu : u = w.modTrig f) :
    heldJudged env r u x = if q + x.offset < r then (u.setMark x.event x.index (some (q + x.offset))).record env .trigger
      x.event (x.offset / e.duration) x.offset x.source (.outcome .missed) (some x.code) else u.setMark x.event x.index none := by
  have hq : u.ch.origin x.event = some q := by rw [hu]; exact hq
  have he : u.ch.store.event x.event = some e := by rw [hu]; exact he
  unfold heldJudged
  rw [hq, he]
  rfl

/-! ## The statement -/

section Events

variable {c : Ch} {s : State}

theorem breakStart_event {b : PendingBreak} (hpow : s.powered = true) (hmode : s.chans[c].ctl.mode = .takeover)
    (hbreak : s.chans[c].ctl.pendingBreak = some b) (hdue : b.b ≤ s.time.hfn) :
    ∃ t, exec (.breakStart c) s = .next t ∧ Within c s t ∧ t.chans[c].ctl.mode = .breakIn ∧
      t.chans[c].ctl.ctx = some (savedContext (envOf s c) b.mode s.chans[c]) ∧ t.chans[c].ctl.pendingBreak = none ∧
      t.chans[c].ctl.expiry = b.duration.map fun d => b.b + (d : Frame) := by
  obtain ⟨t, hexec, hwithin, hchan⟩ := monitor_event (i := .breakStart c) (op := breakStart) rfl hpow (breakStart_rest ..)
  obtain ⟨hm, -, hctx, -, hp, -, hexp⟩ := rule_ctl (breakStart_due (envOf s c) (begun s c) b hbreak hmode hdue)
  refine ⟨t, hexec, hwithin, ?_, ?_, ?_, ?_⟩ <;> rw [hchan]
  exacts [hm, hctx, hp, hexp]

theorem breakExpiry_eq {e : Frame} {x : Saved} (hmode : s.chans[c].ctl.mode = .breakIn) (hexp : s.chans[c].ctl.expiry = some e)
    (hctx : s.chans[c].ctl.ctx = some x) (hnone : s.chans[c].ctl.resume = none)
    (hdue : e - (s.params.chans[c].lead + s.params.chans[c].margin) ≤ s.time.hfn) :
    breakExpiry (envOf s c) (begun s c) = beginResume (envOf s c) .expiry x.mode e (begun s c) := by
  have hm : (begun s c).mode = .breakIn := hmode
  have he : (begun s c).ch.ctl.expiry = some e := hexp
  have hr : (begun s c).ch.ctl.resume = none := hnone
  have hc : (begun s c).ch.ctl.ctx = some x := hctx
  unfold breakExpiry
  rw [hm, he, hr, hc]
  exact if_pos hdue

theorem breakExpiry_event {e : Frame} {x : Saved} (hpow : s.powered = true) (hmode : s.chans[c].ctl.mode = .breakIn)
    (hexp : s.chans[c].ctl.expiry = some e) (hctx : s.chans[c].ctl.ctx = some x) (hnone : s.chans[c].ctl.resume = none)
    (hdue : e - (s.params.chans[c].lead + s.params.chans[c].margin) ≤ s.time.hfn) :
    ∃ t, exec (.breakExpiry c) s = .next t ∧ Within c s t ∧ t.chans[c].ctl.mode = .breakIn ∧
      t.chans[c].ctl.resume = some { cause := .expiry, mode := x.mode, r := e } ∧ t.chans[c].ctl.ctx = some x := by
  obtain ⟨t, hexec, hwithin, hchan⟩ := monitor_event (i := .breakExpiry c) (op := breakExpiry) rfl hpow (breakExpiry_rest ..)
  obtain ⟨hm, hc, hr⟩ := beginResume_ctl (env := envOf s c) (w := begun s c) .expiry x.mode e hctx
  replace hchan := hchan.trans (congrArg W.ch (breakExpiry_eq hmode hexp hctx hnone hdue))
  refine ⟨t, hexec, hwithin, ?_, ?_, ?_⟩ <;> rw [hchan]
  exacts [hm.trans hmode, hr, hc]

theorem breakEnd_event {x : Resume} (hpow : s.powered = true) (hmode : s.chans[c].ctl.mode = .breakIn)
    (hres : s.chans[c].ctl.resume = some x) (hdue : x.r ≤ s.time.hfn) :
    ∃ t, exec (.breakEnd c) s = .next t ∧ Within c s t ∧ t.chans[c].ctl.mode = .takeover ∧ t.chans[c].ctl.ctx = none ∧
      t.chans[c].ctl.resume = none ∧ t.chans[c].ctl.expiry = none := by
  obtain ⟨t, hexec, hwithin, hchan⟩ := monitor_event (i := .breakEnd c) (op := breakEnd) rfl hpow (breakEnd_rest ..)
  obtain ⟨hm, -, hctx, -, -, hr, hexp⟩ := rule_ctl (breakEnd_due (envOf s c) (begun s c) x hmode hres hdue)
  refine ⟨t, hexec, hwithin, ?_, ?_, ?_, ?_⟩ <;> rw [hchan]
  exacts [hm, hctx, hr, hexp]

/-- A RESUME taken in BREAK_IN begins the resume, in the mode it asks for. -/
theorem resume_event {f : CtlFlow} {h : Head} {m : ResumeReq} {x : Saved} (ht : Turn f h (.resume (some m)) s) (hn : Names h c)
    (hmode : s.chans[c].ctl.mode = .breakIn) (hctx : s.chans[c].ctl.ctx = some x) (hnone : s.chans[c].ctl.resume = none) :
    ∃ t, exec (.resume f h (some m)) s = .next t ∧ t.chans[c] =
      (ranCh c (fun env w => beginResume env .resume (resumeAs x m) (env.now + env.cp.lead) w) s).ch := by
  obtain ⟨t, hexec, -, hchan, -⟩ := asked_turn_within ht hn (resumeOn_begun (env := envOf s c) (w := begun s c) hmode hctx hnone)
    (beginResume_rest ..)
  exact ⟨t, congrArg Host.Outcome.next hexec, hchan⟩

end Events

/-- Settles O27: the Channel Controller's state by the rules of each step, the saved context by the row that holds, the held list entry by
entry. -/
theorem breakInsStartExpireAndEnd : Obligations.BreakInsStartExpireAndEnd := by
  unfold Obligations.BreakInsStartExpireAndEnd
  refine ⟨fun c b s hpow hmode hbreak hdue => breakStart_event hpow hmode hbreak hdue,
    fun c e x s hpow hmode hexp hctx hnone hdue => breakExpiry_event hpow hmode hexp hctx hnone hdue,
    fun c e x s hpow hmode hexp hctx hnone hdue => ?_, fun f h c m k x s ht hn hmode hctx hnone hleft htime hpre => ?_,
    fun env m c y hy => ?_, beginResume_eq, fun env r w => ⟨judgeHeld_none env r w, fun x l q e u hheld hq he hu => ?_⟩,
    fun c x s hpow hmode hres hdue => breakEnd_event hpow hmode hres hdue⟩
  · exact congrArg Host.Outcome.next ((live_on hpow).trans
      (runCh_congr (op' := fun env w => beginResume env .expiry x.mode e w) (breakExpiry_eq hmode hexp hctx hnone hdue)))
  · have hk : k = resumeAs x m := by
      cases m
      exacts [hleft rfl, htime rfl, hpre rfl]
    rw [hk]
    exact resume_event ht hn hmode hctx hnone
  · obtain ⟨hsome, hnone⟩ := savedContext_remaining env m c y hy
    exact ⟨by rw [hy]; rfl, by rw [hy]; rfl, hsome, hnone, savedContext_onAir env m c y hy⟩
  · have hplaced := heldJudged_placed (env := env) (r := r) hq he hu
    refine ⟨fun hlow => ?_, fun hhigh => ?_⟩
    · rw [judgeHeld_cons env r w u x l hheld hu, hplaced, if_pos hlow]
    · rw [judgeHeld_cons env r w u x l hheld hu, hplaced, if_neg (not_lt.2 hhigh)]

end Sys2Proof.Machine

/-! PROOFS. Players that fall silent, and players that are asked (R106, R110, R111, R118): what enters FAULT, the probe, and the
readiness sweep. -/

namespace Sys2Proof.Machine

open Sys2Proof

/-! ## A player's record -/

theorem modPlayer_twice (w : W) (p : PlayerId) (f g : Player → Player) :
    (w.modPlayer p f).modPlayer p g = w.modPlayer p fun x => g (f x) := by cases p <;> rfl

theorem modPlayer_eq (w : W) (p : PlayerId) (f : Player → Player) :
    w.modPlayer p f = w.modSeq fun q => q.setPlayer p (f (w.player p)) := rfl

theorem modPlayer_congr {w : W} {p : PlayerId} {f g : Player → Player} (h : f (w.player p) = g (w.player p)) :
    w.modPlayer p f = w.modPlayer p g := by
  rw [modPlayer_eq, modPlayer_eq, h]

/-- A request to a player with nothing queued or in flight is sent at once (R106). -/
theorem submit_quiet {env : Env} {p : PlayerId} {req : PReq} {w : W} (hflight : (w.player p).flight = none)
    (hqueue : (w.player p).queue = []) : submit env p req w =
      (w.modPlayer p fun x => { x with
        flight := some { tag := x.tags, req := req, sent := env.now, age := 0, probe := false, counting := req.countsFrom env.now }
        tags := (x.tags + 1) % two16 }).emit (.request p (w.player p).tags req) := by
  obtain ⟨u, hu⟩ : ∃ u, u = w.modPlayer p fun x =>
    { x with queue := insertReq (x.tags, req) x.queue, tags := (x.tags + 1) % two16 } := ⟨_, rfl⟩
  have hplayer : u.player p = { w.player p with queue := [((w.player p).tags, req)], tags := ((w.player p).tags + 1) % two16 } := by
    rw [hu, W.modPlayer_player, hqueue]; rfl
  have hsent : sendNext env p u = (u.modPlayer p fun x => { x with
      flight := some { tag := (w.player p).tags, req := req, sent := env.now, age := 0, probe := false,
                       counting := req.countsFrom env.now }
      queue := [] }).emit (.request p (w.player p).tags req) := by
    unfold sendNext
    rw [hplayer]
    dsimp only
    rw [hflight]
  have hsubmit : submit env p req w = sendNext env p u := by rw [hu]; rfl
  rw [hsubmit, hsent, hu, modPlayer_twice]
  congr 1
  exact modPlayer_congr (by dsimp only; rw [← hqueue])

/-- An event that only changes its channel and sends one request to a player. -/
theorem runCh_request {c : Ch} {op : Env → W → W} {s : State} {x : Chan} {p : PlayerId} {tag : Nat} {req : PReq}
    (h : ranCh c op s = { ch := x, fx := [.request p tag req] }) : runCh c op s =
      { s.setCh c x with sent := s.sent ++ leaves s (playerAddr s c p) (.player c p tag req) } := by
  have hrun : runCh c op s = (ranCh c op s).fx.foldl (applyEffect c) (s.setCh c (ranCh c op s).ch) := rfl
  rw [hrun, h]
  exact transmit_eq _ _ _

/-! ## Faults (R110, R111) -/

theorem returnItems_hands (env : Env) (p : PlayerId) (i : Item) (w : W) : (returnItems env p i w).hands = w.hands := by
  unfold returnItems
  split
  case h_1 =>
    split
    case isTrue =>
      dsimp only
      split
      case isTrue => rfl
      case isFalse =>
        split
        case isTrue => rw [uncueLanding_hands]; rfl
        case isFalse => (repeat' split) <;> rfl
    case isFalse => exact itemReturned_hands ..
  case h_2 => exact itemReturned_hands ..

/-- A FAULT leaves a player with nothing in flight, queued or loaded. -/
theorem enterFault_player (env : Env) (p : PlayerId) (why : PlayerCause) (w : W) : (enterFault env p why w).player p =
    { w.player p with state := .fault, loaded := none, roll := none, endF := none, stopF := none, stopConfirmed := false,
                      flight := none, queue := [], probeTimer := 0 } := by
  have hhands : (enterFault env p why w).hands = (w.modPlayer p fun x =>
      { x with state := .fault, loaded := none, roll := none, endF := none, stopF := none, stopConfirmed := false,
               flight := none, queue := [], probeTimer := 0 }).hands := by
    obtain ⟨u, hu⟩ : ∃ u, u = w.modPlayer p fun x =>
      { x with state := .fault, loaded := none, roll := none, endF := none, stopF := none, stopConfirmed := false,
               flight := none, queue := [], probeTimer := 0 } := ⟨_, rfl⟩
    have hreturn : ∀ v : W, (match (w.player p).loaded with
        | some i => returnItems env p i v
        | none => v).hands = v.hands := fun v => by
      split
      · exact returnItems_hands ..
      · rfl
    have hjudge : ∀ v : W, (if (w.player p).loaded.isSome then rejudge env v else v).hands = v.hands := fun v => by
      split
      · exact rejudge_hands ..
      · rfl
    unfold enterFault
    rw [← hu]
    refine (emit_hands _ _).trans ((hjudge _).trans ?_)
    rw [apply_ite W.hands, record_hands, ite_self]
    exact hreturn _
  rw [hands_player hhands p, W.modPlayer_player]

theorem replyDue_iff (env : Env) (x : Player) : replyDue env x = true ↔
    x.state ≠ .fault ∧ ∃ f, x.flight = some f ∧ f.probe = false ∧ env.part.replyTimeout ≤ f.age := by
  unfold replyDue
  cases x.flight with
  | none => simp
  | some f => simp [and_comm, and_left_comm]

/-! ## An operation that pump follows -/

theorem followed_rest {after op : Env → W → W} (env : Env) (w : W) (hafter : ∀ v, (after env v).rest = v.rest)
    (hop : (op env w).rest = w.rest) : (followed after op env w).rest = w.rest := by
  unfold followed
  dsimp only
  split
  · exact hop
  · exact (hafter _).trans hop

theorem followed_moved {after op : Env → W → W} {env : Env} {w : W} (h : (op env w).ch ≠ w.ch) :
    followed after op env w = after env (op env w) := if_neg h

theorem followed_still {after op : Env → W → W} {env : Env} {w : W} (h : op env w = w) : followed after op env w = w := by
  unfold followed
  rw [if_pos (by rw [h]), h]

/-- A player that a command brings to FAULT, as it stands when the period's cues have been issued. -/
theorem followed_fault {op : Env → W → W} {env : Env} {w : W} {p : PlayerId} {why : PlayerCause} (hop : op env w = enterFault env p why w) :
    ((followed pump op env w).player p).state = .fault ∧ ((followed pump op env w).player p).flight = none ∧
      ((followed pump op env w).player p).queue = [] ∧ ((followed pump op env w).player p).loaded = none := by
  have hplayer : (followed pump op env w).player p = (enterFault env p why w).player p := by
    unfold followed
    dsimp only
    rw [hop]
    split
    · rfl
    · obtain ⟨-, hdead⟩ := pump_left env p (enterFault env p why w)
      exact hdead (by rw [enterFault_player])
  rw [hplayer, enterFault_player]
  exact ⟨rfl, rfl, rfl, rfl⟩

/-- Settles O31: both commands bring the player to FAULT, and the cues issued after it leave a FAULT player alone. -/
theorem silentPlayersFault : Obligations.SilentPlayersFault := by
  unfold Obligations.SilentPlayersFault
  intro c p x s hpow hx
  refine ⟨fun f hf hprobe hage hstate => ?_, fun hstate hlate => ?_, fun hflight => ?_, fun hnot => ?_⟩
  · have hdue : replyDue (envOf s c) ((begun s c).player p) = true :=
      (replyDue_iff _ _).2 ⟨by rw [hx] at hstate; exact hstate, f, by rw [hx] at hf; exact hf, hprobe, hage⟩
    obtain ⟨t, hexec, hwithin, hchan⟩ := monitor_event (i := .replyTimeout c p) (op := followed pump fun env => replyTimeout env p)
      rfl hpow (followed_rest _ _ (fun v => pump_rest ..) (replyTimeout_rest ..))
    have hfault := followed_fault (op := fun env => replyTimeout env p) (env := envOf s c) (w := begun s c) (why := .timeout)
      (if_pos hdue)
    refine ⟨t, hexec, hwithin, ?_⟩
    rw [hchan]
    exact hfault
  · have hdue : ((begun s c).player p).state = .playing ∧ (envOf s c).cp.stallLimit ≤ ((begun s c).player p).lateRun := by
      rw [hx] at hstate hlate; exact ⟨hstate, hlate⟩
    obtain ⟨t, hexec, hwithin, hchan⟩ := monitor_event (i := .stall c p) (op := followed pump fun env => stall env p)
      rfl hpow (followed_rest _ _ (fun v => pump_rest ..) (stall_rest ..))
    have hfault := followed_fault (op := fun env => stall env p) (env := envOf s c) (w := begun s c) (why := .stall) (if_pos hdue)
    refine ⟨t, hexec, hwithin, ?_⟩
    rw [hchan]
    exact hfault
  · have hidle : replyTimeout (envOf s c) p (begun s c) = begun s c := by
      refine if_neg fun hdue => ?_
      obtain ⟨-, f, hf, hprobe, hage⟩ := (replyDue_iff _ _).1 hdue
      rcases hflight f (by rw [hx]; exact hf) with h | h
      · rw [hprobe] at h; exact Bool.false_ne_true h
      · exact absurd h (not_lt.2 hage)
    exact congrArg Host.Outcome.next ((live_on hpow).trans
      (runCh_unmoved (op := followed pump fun env => replyTimeout env p) (followed_still hidle)))
  · have hidle : stall (envOf s c) p (begun s c) = begun s c := by
      refine if_neg ?_
      rintro ⟨hstate, hlate⟩
      rw [hx] at hnot
      rcases hnot with h | h
      · exact h hstate
      · exact absurd h (not_lt.2 hlate)
    exact congrArg Host.Outcome.next ((live_on hpow).trans
      (runCh_unmoved (op := followed pump fun env => stall env p) (followed_still hidle)))

/-! ## Asking (R111, R118) -/

theorem probe_due {env : Env} {p : PlayerId} {w : W} (hstate : (w.player p).state = .fault)
    (htimer : env.part.probeInterval ≤ (w.player p).probeTimer) : probe env p w =
      (w.modPlayer p fun x => { x with
        flight := some { tag := x.tags, req := .query 0, sent := env.now, age := 0, probe := true }
        tags := (x.tags + 1) % two16
        probeTimer := 0 }).emit (.request p (w.player p).tags (.query 0)) := if_pos ⟨hstate, htimer⟩

theorem quiet_iff (x : Player) : x.quiet = true ↔ x.state ≠ .fault ∧ x.queue = [] ∧ x.flight = none := by
  simp [Player.quiet, and_assoc]

/-- The sweep asks a quiet player about the first UNKNOWN event of its window. -/
theorem sweepQuery_asks {env : Env} {p : PlayerId} {e : Event} {w : W} (hidle : w.ch.seq.sweep = none)
    (hfind : (w.ch.sweepWindow env.now env.cp.sweepDepth).find? (fun e => decide (e.readiness = .unknown)) = some e)
    (hquiet : [PlayerId.a, .b].find? (fun q => (w.player q).quiet) = some p) : sweepQuery env w =
      ((submit env p (.query e.sweepHandle) w).modSeq fun q =>
        { q with sweep := some { player := p, tag := (w.player p).tags, event := e.id } }) := by
  unfold sweepQuery
  rw [hidle, hfind, hquiet]
  rfl

theorem rest_of_base {v w : W} (h : v.base = w.base) : v.rest = w.rest :=
  have ⟨_, _, hrest, _⟩ := base_parts h
  hrest

theorem sweepQuery_rest (env : Env) (w : W) : (sweepQuery env w).rest = w.rest := rest_of_base (sweepQuery_base env w)

/-- Settles O32: one request leaves, with the counter's present tag. -/
theorem playersAreProbedAndAsked : Obligations.PlayersAreProbedAndAsked := by
  unfold Obligations.PlayersAreProbedAndAsked
  refine ⟨fun c p x s hpow hx hstate htimer => ?_, fun c p x v s hpow hx hidle hfind hquiet => ?_⟩
  · have hran : ranCh c (fun env => probe env p) s = { ch := { s.chans[c] with seq := s.chans[c].seq.setPlayer p { x with
        flight := some { tag := x.tags, req := .query 0, sent := s.time.hfn, age := 0, probe := true },
        tags := (x.tags + 1) % two16, probeTimer := 0 } }, fx := [.request p x.tags (.query 0)] } := by
      rw [hx] at hstate htimer ⊢
      exact probe_due (env := envOf s c) (w := begun s c) hstate htimer
    exact congrArg Host.Outcome.next ((live_on hpow).trans (runCh_request hran))
  · have hmem := List.find?_some hquiet
    obtain ⟨-, hqueue, hflight⟩ := (quiet_iff _).1 hmem
    have hasks := sweepQuery_asks (env := envOf s c) (w := begun s c) hidle hfind hquiet
    rw [submit_quiet (w := begun s c) hflight hqueue] at hasks
    obtain ⟨t, hexec, hwithin, hchan⟩ := monitor_event (i := .sweepQuery c) (op := sweepQuery) rfl hpow (sweepQuery_rest ..)
    have hran : ranCh c sweepQuery s = { ch := (ranCh c sweepQuery s).ch, fx := [.request p x.tags (.query v.sweepHandle)] } := by
      rw [hx, ranCh, hasks]; rfl
    have hexec' : exec (.sweepQuery c) s = .next (runCh c sweepQuery s) := congrArg Host.Outcome.next (live_on hpow)
    have ht : t = runCh c sweepQuery s := by rw [hexec] at hexec'; exact Host.Outcome.next.inj hexec'
    refine ⟨t, hexec, hwithin, ?_, ?_, by rw [ht, runCh_request hran]⟩
    · rw [hchan, ranCh, hasks, hx]; rfl
    · rw [hchan, ranCh, hasks, hx]; cases p <;> rfl

end Sys2Proof.Machine

/-! PROOFS. The Trigger Unit (R157 to R162): what a due entry does, how an item's triggers are judged, and what a new timeline judges
again. -/

namespace Sys2Proof.Machine

open Sys2Proof

/-! ## Entries that leave the list -/

theorem foldl_erase_cons {x : PendTrig} {l : List PendTrig} (gone : List PendTrig) (h : x ∉ gone) :
    gone.foldl List.erase (x :: l) = x :: gone.foldl List.erase l := by
  induction gone generalizing l with
  | nil => rfl
  | cons y ys ih =>
    obtain ⟨hne, hrest⟩ := not_or.1 (List.mem_cons.not.1 h)
    rw [List.foldl_cons, List.foldl_cons, List.erase_cons_tail (by simpa using hne), ih hrest]

/-- Without the entries that satisfy a test, one by one, those are left that do not. -/
theorem foldl_erase_filter (p : PendTrig → Bool) (l : List PendTrig) : (l.filter p).foldl List.erase l = l.filter fun x => !p x := by
  induction l with
  | nil => rfl
  | cons x xs ih =>
    cases hx : p x with
    | true => simp [hx, ih]
    | false =>
      have hout : x ∉ xs.filter p := fun h => by rw [List.mem_filter, hx] at h; exact Bool.false_ne_true h.2
      rw [List.filter_cons_of_neg (by simp [hx]), List.filter_cons_of_pos (by simp [hx]), foldl_erase_cons _ hout, ih]

theorem not_due (now : Frame) : (fun x : PendTrig => !decide (x.insertion ≤ now)) = fun x => decide (now < x.insertion) := by
  funext x
  rw [← decide_not, decide_eq_decide]
  exact not_le

theorem actTrigger_trig (env : Env) (x : PendTrig) (late : Bool) (w : W) : (actTrigger env x late w).ch.trig = w.ch.trig := by
  unfold actTrigger
  split <;> rfl

theorem actEntry_trig (env : Env) (w : W) (x : PendTrig) : (actEntry env w x).ch.trig = (w.without x).ch.trig := by
  unfold actEntry
  dsimp only
  split
  case isTrue => rfl
  case isFalse => exact actTrigger_trig ..

theorem foldl_pending {f : W → PendTrig → W} (hf : ∀ w x, (f w x).ch.trig = (w.without x).ch.trig) (gone : List PendTrig) (w : W) :
    (gone.foldl f w).ch.trig = { w.ch.trig with pending := gone.foldl List.erase w.ch.trig.pending } := by
  induction gone generalizing w with
  | nil => rfl
  | cons x xs ih => rw [List.foldl_cons, ih, hf]; rfl

/-! ## TRIGGER_ACT (R160) -/

section Act

variable {env : Env} {w : W}

theorem triggerAct_takeover (h : w.ch.ctl.mode = .takeover) : triggerAct env w = (w.due env).foldl (actEntry env) w := by
  have hm : w.mode = .takeover := h
  unfold triggerAct; rw [hm]; rfl

theorem triggerAct_returning (h : w.ch.ctl.mode = .returning) :
    triggerAct env w = (w.due env).foldl (fun u x => (u.without x).outcome env x .missed) w := by
  have hm : w.mode = .returning := h
  unfold triggerAct; rw [hm]; rfl

theorem triggerAct_waits (h : w.ch.ctl.mode = .joining ∨ w.ch.ctl.mode = .breakIn) :
    triggerAct env w = w.modTrig fun l => { l with pending := l.pending.map (PendTrig.wait env.now) } := by
  unfold triggerAct
  rcases h with h | h
  · have hm : w.mode = .joining := h
    rw [hm]
  · have hm : w.mode = .breakIn := h
    rw [hm]

theorem triggerAct_idle (h : w.ch.ctl.mode = .mirror) : triggerAct env w = w := by
  have hm : w.mode = .mirror := h
  unfold triggerAct; rw [hm]

theorem triggerAct_acts (h : w.ch.ctl.mode = .takeover ∨ w.ch.ctl.mode = .returning) : (triggerAct env w).ch.trig =
    { w.ch.trig with pending := w.ch.trig.pending.filter fun x => decide (env.now < x.insertion) } := by
  have hleft : (w.due env).foldl List.erase w.ch.trig.pending = w.ch.trig.pending.filter fun x => decide (env.now < x.insertion) := by
    rw [← not_due]; exact foldl_erase_filter _ _
  rcases h with h | h
  · rw [triggerAct_takeover h, foldl_pending (actEntry_trig env), hleft]
  · rw [triggerAct_returning h,
      foldl_pending (f := fun u x => (u.without x).outcome env x .missed) (fun _ _ => rfl), hleft]

end Act

/-! ## One entry that acts (R161) -/

theorem actEntry_missed {env : Env} {w : W} {x : PendTrig} (h : x.insertion < env.now ∧ x.frame < env.now) :
    actEntry env w x = (w.without x).outcome env x .missed := if_pos h

theorem actEntry_acts {env : Env} {w : W} {x : PendTrig} {late : Bool} (h : ¬ (x.insertion < env.now ∧ x.frame < env.now))
    (hlate : late = true ↔ x.late = true ∨ x.insertion < env.now) :
    actEntry env w x = (actTrigger env x late (w.without x)).outcome env x (if late then .late else .done) := by
  have hval : (x.late || decide (x.insertion < env.now)) = late := by
    rw [Bool.eq_iff_iff, hlate]; simp
  have hunfold : actEntry env w x = (actTrigger env x (x.late || decide (x.insertion < env.now)) (w.without x)).outcome env x
      (if x.late || decide (x.insertion < env.now) then .late else .done) := if_neg h
  rw [hunfold, hval]

/-- The effect of each action but FILL_NOW. -/
theorem actTrigger_effect (env : Env) (x : PendTrig) (late : Bool) (u : W) :
    (x.action = .none ∨ x.action = .mark → actTrigger env x late u = u) ∧
    (x.action = .identOn →
      actTrigger env x late u = u.modOut fun o => { o with window := { o.window with enabled := true, phase := 0 } }) ∧
    (x.action = .identOff →
      actTrigger env x late u = u.modOut fun o => { o with window := { o.window with enabled := false, phase := 0 } }) ∧
    (x.action = .identBlink → actTrigger env x late u = u.modOut fun o => { o with window := { o.window with
      enabled := true, phase := 0, blink := if o.window.blink = 0 then 25 else o.window.blink } }) ∧
    (∀ slot on, x.action = .ident slot on → actTrigger env x late u = u.modOut fun o => { o with window := { o.window with
      slot := slot, enabled := on, phase := 0 } }) ∧
    (∀ p n, x.action = .outputCue p n →
      actTrigger env x late u = u.modOut fun o => { o with cues := o.cues ++ [{ code := x.code, payload := p }] }) ∧
    (x.action = .notify → actTrigger env x late u = u.emit (.notice .loc env.ch.val
      (.trigger x.code x.event x.pass x.offset (whenOf env.rate x.frame) late))) := by
  unfold actTrigger
  refine ⟨fun h => ?_, fun h => ?_, fun h => ?_, fun h => ?_, fun slot on h => ?_, fun p n h => ?_, fun h => ?_⟩
  · rcases h with h | h <;> rw [h]
  · rw [h]; rfl
  · rw [h]; rfl
  · rw [h]; rfl
  · rw [h]; rfl
  · rw [h]
  · rw [h]; rfl

theorem actTrigger_fillNow {env : Env} {x : PendTrig} {late : Bool} {u : W} (h : x.action = .fillNow) :
    actTrigger env x late u = u.modSeq (fillNow x) := by
  unfold actTrigger; rw [h]

theorem fills_iff (x : PendTrig) (i : Item) : x.fills i = true ↔ i.isPass = true ∧ x.ownedBy i = true := Bool.and_eq_true_iff

theorem markDue_owned {x : PendTrig} {i : Item} (hpass : i.isPass = true) (hown : x.ownedBy i = true) :
    markDue x i = { i with fillDue := true } := if_pos ((fills_iff x i).2 ⟨hpass, hown⟩)

/-- FILL_NOW on the item on air. -/
theorem fillNow_marks (x : PendTrig) (q : Seq) (o : OnAir) (ho : q.onAir = some o) :
    (fillNow x q).onAir = some { o with fillMark := o.fillMark || (o.item.isPass && x.ownedBy o.item) } := by
  cases hfills : x.fills o.item with
  | true =>
    have hand : (o.item.isPass && x.ownedBy o.item) = true := hfills
    rw [fillNow_onAir x q o ho hfills, hand, Bool.or_true]
  | false =>
    have hand : (o.item.isPass && x.ownedBy o.item) = false := hfills
    obtain ⟨hair, -⟩ := fillNow_waiting x q fun o' ho' => by rw [ho] at ho'; cases ho'; exact hfills
    rw [hair, hand, Bool.or_false, ho]

/-- FILL_NOW on what is still cued. -/
theorem fillNow_cued (x : PendTrig) (u : W)
    (h : ∀ o, u.ch.seq.onAir = some o → o.item.isPass = true → x.ownedBy o.item = false) :
    (∀ p i, (u.player p).loaded = some i → i.isPass = true → x.ownedBy i = true →
      ((u.modSeq (fillNow x)).player p).loaded = some { i with fillDue := true }) ∧
    (∀ i, u.ch.seq.cued = some i → i.isPass = true → x.ownedBy i = true →
      (u.modSeq (fillNow x)).ch.seq.cued = some { i with fillDue := true }) ∧
    ∀ l, u.ch.seq.landing = some l → l.item.isPass = true → x.ownedBy l.item = true →
      (u.modSeq (fillNow x)).ch.seq.landing = some { l with item := { l.item with fillDue := true } } := by
  obtain ⟨-, hcued, hlanding, hloaded⟩ := fillNow_waiting x u.ch.seq fun o ho => by
    cases hpass : o.item.isPass with
    | true => simp [PendTrig.fills, h o ho hpass]
    | false => simp [PendTrig.fills, hpass]
  refine ⟨fun p i hi hpass hown => ?_, fun i hi hpass hown => ?_, fun l hl hpass hown => ?_⟩
  · refine (hloaded p).trans ?_
    rw [show (u.ch.seq.player p).loaded = some i from hi, Option.map_some, markDue_owned hpass hown]
  · refine hcued.trans ?_
    rw [hi, Option.map_some, markDue_owned hpass hown]
  · refine hlanding.trans ?_
    rw [hl, Option.map_some, markDue_owned hpass hown]

/-! ## Judging (R158, R159) -/

theorem judgeTriggers_none {env : Env} {old : List PendTrig} {it : Item} {aired : Frame} {w : W}
    (h : w.ch.ctl.mode = .mirror ∨ it.ofEvent = false) : judgeTriggers env old it aired w = w := if_pos h

theorem judgeTriggers_eq {env : Env} {old : List PendTrig} {it : Item} {aired : Frame} {w : W} {e : Event} {r : Resolved}
    (hmode : w.ch.ctl.mode ≠ .mirror) (hof : it.ofEvent = true) (he : w.ch.store.event it.event = some e) (hr : e.res = some r) :
    judgeTriggers env old it aired w = (e.triggers.zipIdx.filter fun x =>
      decide (it.start ≤ r.origin + x.1.offset) && it.endsAfter (r.origin + x.1.offset) &&
        decide (x.1.mark ≠ some (r.origin + x.1.offset))).foldl
      (fun u x => judgeAgain env old it aired e x.2 x.1 (r.origin + x.1.offset) u) w := by
  have hnot : ¬ (w.mode = .mirror ∨ it.ofEvent = false) := by
    rintro (h | h)
    · exact hmode h
    · rw [hof] at h; exact Bool.false_ne_true h.symm
  unfold judgeTriggers
  rw [if_neg hnot, he]
  dsimp only
  rw [hr, List.foldl_filter]

theorem past_iff (env : Env) (f : Frame) : env.past f = true ↔ f < env.now ∨ (f = env.now ∧ env.built = true) := by
  simp [Env.past]

section Judging

variable {env : Env} {it : Item} {aired : Frame} {e : Event} {k : Nat} {x : Trig} {f : Frame} {w : W}

theorem judgeOne_undefined (h : trigAction env.table x.code = none) : judgeOne env it aired e k x f w =
    (w.setMark e.id k (some f)).record env .trigger e.id (x.offset / e.duration) x.offset it.source (.outcome .undefined)
      (some x.code) := by
  unfold judgeOne
  rw [h]
  rfl

/-- The entry of a trigger that joins the pending list. -/
def newEntry (env : Env) (it : Item) (e : Event) (k : Nat) (x : Trig) (f : Frame) (act : TrigAction) : PendTrig :=
  { code := x.code, action := act, ownerEvent := it.event, ownerPass := it.pass, ownerStart := it.start,
    source := it.source, event := e.id, index := k, offset := x.offset, pass := x.offset / e.duration, frame := f,
    insertion := if env.past (f - act.advance) then env.firstUnbuilt else f - act.advance, late := env.past (f - act.advance) }

theorem judgeOne_defined {act : TrigAction} (h : trigAction env.table x.code = some act) : judgeOne env it aired e k x f w =
    if env.past f = true ∨ f < aired then (w.setMark e.id k (some f)).record env .trigger e.id (x.offset / e.duration) x.offset it.source
      (.outcome .missed) (some x.code)
    else (w.setMark e.id k (some f)).modTrig fun l => { l with pending := insertPend (newEntry env it e k x f act) l.pending } := by
  have hunfold : judgeOne env it aired e k x f w =
      if env.past f || decide (f < aired) then (w.setMark e.id k (some f)).record env .trigger e.id (x.offset / e.duration) x.offset
        it.source (.outcome .missed) (some x.code)
      else (w.setMark e.id k (some f)).modTrig fun l => { l with pending := insertPend (newEntry env it e k x f act) l.pending } := by
    unfold judgeOne
    rw [h]
    rfl
  rw [hunfold]
  simp only [Bool.or_eq_true, decide_eq_true_eq]

theorem newEntry_spec (env : Env) (it : Item) (e : Event) (k : Nat) (x : Trig) (f : Frame) (act : TrigAction) (y : PendTrig)
    (hy : y = newEntry env it e k x f act) : y.code = x.code ∧ y.action = act ∧ y.ownedBy it = true ∧ y.source = it.source ∧
      y.event = e.id ∧ y.index = k ∧ y.offset = x.offset ∧ y.frame = f ∧
      (y.late = true ↔ f - act.advance < env.now ∨ (f - act.advance = env.now ∧ env.built = true)) ∧
      (y.late = false → y.insertion = f - act.advance) ∧
      (y.late = true → y.insertion = if env.built then env.now + 1 else env.now) := by
  subst hy
  refine ⟨rfl, rfl, by simp [PendTrig.ownedBy, newEntry], rfl, rfl, rfl, rfl, rfl, past_iff _ _, fun h => ?_, fun h => ?_⟩
  · have h : env.past (f - act.advance) = false := h
    exact if_neg (by simp [h])
  · exact (if_pos h).trans rfl

/-- What was taken off the list for this trigger, unmoved, joins it again. -/
theorem judgeAgain_unmoved {old : List PendTrig} {y : PendTrig} (h : old.find? (PendTrig.unmoved e.id x f) = some y) :
    judgeAgain env old it aired e k x f w = (w.setMark e.id k (some f)).modTrig fun l =>
      { l with pending := insertPend (y.heldBy it k (x.offset / e.duration)) l.pending } := by
  unfold judgeAgain
  rw [h]

theorem judgeAgain_moved {old : List PendTrig} (h : ∀ z ∈ old, z.event = e.id → z.code = x.code → z.offset = x.offset → z.frame ≠ f) :
    judgeAgain env old it aired e k x f w = judgeOne env it aired e k x f w := by
  have hnone : old.find? (PendTrig.unmoved e.id x f) = none := by
    rw [List.find?_eq_none]
    intro z hz hsame
    simp only [PendTrig.unmoved, Bool.and_eq_true, decide_eq_true_eq] at hsame
    obtain ⟨⟨⟨hevent, hcode⟩, hoffset⟩, hframe⟩ := hsame
    exact h z hz hevent hcode hoffset hframe
  unfold judgeAgain
  rw [hnone]

end Judging

/-! ## The Sequencer is not judged -/

theorem dropPending_seq (leaves : PendTrig → Bool) (w : W) : (w.dropPending leaves).ch.seq = w.ch.seq := by
  unfold W.dropPending
  generalize w.ch.trig.pending.filter leaves = gone
  obtain ⟨u, hu⟩ : ∃ u, u = w.modTrig fun t => { t with pending := t.pending.filter fun x => !leaves x } := ⟨_, rfl⟩
  have hseq : u.ch.seq = w.ch.seq := by rw [hu]; rfl
  have hfold : ∀ v : W, (gone.foldl (fun w t => w.setMark t.event t.index none) v).ch.seq = v.ch.seq := by
    induction gone with
    | nil => exact fun _ => rfl
    | cons t ts ih => exact fun v => ih _
  rw [← hu]
  exact (hfold u).trans hseq

theorem judgeOne_seq (env : Env) (it : Item) (aired : Frame) (e : Event) (k : Nat) (x : Trig) (f : Frame) (w : W) :
    (judgeOne env it aired e k x f w).ch.seq = w.ch.seq := by
  cases h : trigAction env.table x.code with
  | none => rw [judgeOne_undefined h]; rfl
  | some act => rw [judgeOne_defined h]; split <;> rfl

theorem judgeAgain_seq (env : Env) (old : List PendTrig) (it : Item) (aired : Frame) (e : Event) (k : Nat) (x : Trig) (f : Frame) (w : W) :
    (judgeAgain env old it aired e k x f w).ch.seq = w.ch.seq := by
  unfold judgeAgain
  split
  · rfl
  · exact judgeOne_seq ..

theorem judgeTriggers_seq (env : Env) (old : List PendTrig) (it : Item) (aired : Frame) (w : W) :
    (judgeTriggers env old it aired w).ch.seq = w.ch.seq := by
  have hfold : ∀ (l : List (Trig × Nat)) (f : W → Trig × Nat → W), (∀ v x, (f v x).ch.seq = v.ch.seq) →
      ∀ v, (l.foldl f v).ch.seq = v.ch.seq := by
    intro l f hf
    induction l with
    | nil => exact fun _ => rfl
    | cons x xs ih => exact fun v => (ih _).trans (hf v x)
  unfold judgeTriggers
  split
  · rfl
  · split
    · rfl
    · split
      · rfl
      · refine hfold _ _ (fun v x => ?_) w
        dsimp only
        split
        · exact judgeAgain_seq ..
        · rfl

/-- A new timeline judges the item on air, the landing and the cued item, in that order. -/
theorem rejudge_eq (env : Env) (w u v x : W) (old : List PendTrig) (hmode : w.ch.ctl.mode ≠ .mirror) (hold : old = w.ch.trig.pending)
    (hu : u = w.dropPending fun _ => true)
    (hv : v = (match w.ch.seq.onAir with
      | some o => if w.ch.landingWaits env.now then u else judgeTriggers env old o.item (o.item.onAirStart.getD env.now) u
      | none => u))
    (hx : x = (match w.ch.seq.landing with
      | some l => if l.item.player.isSome then judgeTriggers env old l.item (v.ch.rollOf l.item) v else v
      | none => v)) :
    rejudge env w = (match w.ch.seq.cued with
      | some i => judgeTriggers env old i (x.ch.rollOf i) x
      | none => x) := by
  have huseq : u.ch.seq = w.ch.seq := by rw [hu]; exact dropPending_seq ..
  have hwaits : u.ch.landingWaits env.now = w.ch.landingWaits env.now := by unfold Chan.landingWaits; rw [huseq]
  have hvseq : v.ch.seq = w.ch.seq := by
    rw [hv]
    split
    · split
      · exact huseq
      · exact (judgeTriggers_seq ..).trans huseq
    · exact huseq
  have hxseq : x.ch.seq = w.ch.seq := by
    rw [hx]
    split
    · split
      · exact (judgeTriggers_seq ..).trans hvseq
      · exact hvseq
    · exact hvseq
  have hair : (match u.ch.seq.onAir with
      | some o => if u.ch.landingWaits env.now then u else judgeTriggers env old o.item (o.item.onAirStart.getD env.now) u
      | none => u) = v := by
    rw [huseq, hwaits]; exact hv.symm
  have hland : (match v.ch.seq.landing with
      | some l => if l.item.player.isSome then judgeTriggers env old l.item (v.ch.rollOf l.item) v else v
      | none => v) = x := by
    rw [hvseq]; exact hx.symm
  have hcued : (match x.ch.seq.cued with
      | some i => judgeTriggers env old i (x.ch.rollOf i) x
      | none => x) = (match w.ch.seq.cued with
      | some i => judgeTriggers env old i (x.ch.rollOf i) x
      | none => x) := by
    rw [hxseq]
  refine Eq.trans ?_ hcued
  subst hland hair hu hold
  exact if_neg hmode

end Sys2Proof.Machine

/-! PROOFS. Items that leave and go on the air, as the channel shows them; and the trigger lists at the start of a break-in (R150,
R159). -/

namespace Sys2Proof.Machine

open Sys2Proof

/-! ## Ids that stand in a store -/

theorem event_none_iff {n : Nat} {t : Store} :
    t.event n = none ↔ (∀ e ∈ t.current, e.id ≠ n) ∧ ∀ o ∈ t.orphan, o.id ≠ n := by
  unfold Store.event
  rw [← lookupId_none]
  cases lookupId n t.current with
  | some e => simp
  | none => cases t.orphan <;> simp

theorem mem_merged_ids {n : Nat} {t : Store} (h : t.event n = none) {e : Event} (he : e ∈ t.merged) : e.id ≠ n := by
  obtain ⟨hcurrent, horphan⟩ := event_none_iff.1 h
  unfold Store.merged at he
  cases ho : t.orphan with
  | none => rw [ho] at he; exact hcurrent e he
  | some o =>
    rw [ho] at he
    rcases mem_insertByKey he with rfl | hmem
    · exact horphan e ho
    · exact hcurrent e hmem

theorem ids_of_stays {l m : List Event} (h : l.map Event.stays = m.map Event.stays) : l.map (·.id) = m.map (·.id) := by
  have hid : ∀ l : List Event, l.map (·.id) = (l.map Event.stays).map fun x => x.1.1 := fun l => by
    rw [List.map_map]; rfl
  rw [hid l, hid m, h]

/-- A resolution adds no event. -/
theorem resolve_event_none {n : Nat} (x : RCtx) {t : Store} (h : t.event n = none) : (t.resolve x).event n = none := by
  have hids : ∀ e ∈ resolveList { x with anchor := t.anchor } t.merged, e.id ≠ n := fun e he => by
    have hmem : e.id ∈ t.merged.map (·.id) := by
      rw [← ids_of_stays (resolveList_stays { x with anchor := t.anchor } t.merged)]
      exact List.mem_map_of_mem he
    obtain ⟨f, hf, hfe⟩ := List.mem_map.1 hmem
    exact hfe ▸ mem_merged_ids h hf
  exact event_none_iff.2 ⟨fun e he => hids e (List.mem_filter.1 he).1, fun o ho => hids o (List.mem_of_find?_eq_some ho)⟩

theorem resolveRetire_event_none {n : Nat} (x : RCtx) (grace fuel : Nat) {t : Store} (h : t.event n = none) :
    (resolveRetire x grace fuel t).event n = none := by
  induction fuel generalizing t with
  | zero => exact resolve_event_none x h
  | succ fuel ih =>
    have hresolved := resolve_event_none x h
    obtain ⟨hcurrent, horphan⟩ := event_none_iff.1 hresolved
    unfold resolveRetire
    dsimp only
    split
    · exact ih (event_none_iff.2 ⟨fun e he => hcurrent e (List.mem_filter.1 he).1, horphan⟩)
    · exact hresolved

/-! ## What records leave alone -/

@[simp] theorem itemRecord_ch (env : Env) (kind : AsRunKind) (event pass : Nat) (offset : Int) (source : AsRunSource) (detail : Detail)
    (w : W) : (w.itemRecord env kind event pass offset source detail).ch = w.ch := by
  unfold W.itemRecord
  split <;> rfl

@[simp] theorem record_ch (env : Env) (kind : AsRunKind) (event pass : Nat) (offset : Int) (source : AsRunSource) (detail : Detail)
    (trigger : Option Nat) (w : W) : (w.record env kind event pass offset source detail trigger).ch = w.ch := rfl

@[simp] theorem modeNotice_ch (env : Env) (before after : Mode) (why : ModeCause) (landing : Option Handed) (w : W) :
    (w.modeNotice env before after why landing).ch = w.ch := rfl

@[simp] theorem leaveRecord_ch (env : Env) (o : OnAir) (w : W) : (leaveRecord env o w).ch = w.ch := by
  unfold leaveRecord
  dsimp only
  cases o.item.kind with
  | pass =>
    cases o.planned with
    | none => exact itemRecord_ch ..
    | some t => dsimp only; split <;> exact itemRecord_ch ..
  | fill k => exact itemRecord_ch ..
  | brk => rfl

@[simp] theorem startRecords_ch (env : Env) (i : Item) (w : W) : (startRecords env i w).ch = w.ch := by
  unfold startRecords
  dsimp only
  cases i.kind with
  | pass =>
    dsimp only
    rw [itemRecord_ch, apply_ite W.ch, itemRecord_ch, ite_self, apply_ite W.ch, itemRecord_ch, ite_self]
  | fill k => cases k <;> exact itemRecord_ch ..
  | brk => rfl

/-! ## Leaving and going on the air -/

theorem leaveAir_seq (env : Env) (w : W) : (leaveAir env w).ch.seq = { w.ch.seq with onAir := none } := by
  unfold leaveAir
  split
  · rw [dropOwner_seq]
    simp
  · rename_i h
    rw [← h]

/-- An item as it goes on the air. -/
def Item.airs (now : Frame) (i : Item) : Item := { i with onAirStart := some now }

/-- What stands on air from an item's first frame on (R103). -/
def Chan.airing (env : Env) (i : Item) (c : Chan) : OnAir :=
  { item := i.airs env.now, framesIn := 0, remaining := remainingPasses c (i.airs env.now),
    offset0 := if (i.airs env.now).ofEvent then c.offsetAt (i.airs env.now) env.now else 0, planned := i.planned, leave := none,
    fillMark := i.isPass && i.fillDue }

/-- An item on the air, with its records made and its anchor set, before its triggers are judged. -/
def airedW (env : Env) (i : Item) (w : W) : W :=
  setAnchorFrom env (i.airs env.now) ((startRecords env i (leaveAir env w)).modSeq fun q =>
    { q with onAir := some ((startRecords env i (leaveAir env w)).ch.airing env i) })

theorem putOnAir_eq (env : Env) (i : Item) (w : W) : putOnAir env i w =
    if (i.airs env.now).carriesFill then judgeItem env (i.airs env.now) env.now (airedW env i w) else airedW env i w := rfl

@[simp] theorem setAnchorFrom_seq (env : Env) (i : Item) (w : W) : (setAnchorFrom env i w).ch.seq = w.ch.seq := by
  unfold setAnchorFrom
  split <;> rfl

@[simp] theorem setAnchorFrom_trig (env : Env) (i : Item) (w : W) : (setAnchorFrom env i w).ch.trig = w.ch.trig := by
  unfold setAnchorFrom
  split <;> rfl

theorem setAnchorFrom_event (env : Env) (i : Item) (n : Nat) (w : W) :
    (setAnchorFrom env i w).ch.store.event n = w.ch.store.event n := by
  unfold setAnchorFrom
  split <;> rfl

theorem putOnAir_seq (env : Env) (i : Item) (w : W) : (putOnAir env i w).ch.seq =
    { w.ch.seq with onAir := some ((leaveAir env w).ch.airing env i) } := by
  have haired : (airedW env i w).ch.seq = { w.ch.seq with onAir := some ((leaveAir env w).ch.airing env i) } := by
    rw [airedW, setAnchorFrom_seq, W.modSeq_seq, startRecords_ch, leaveAir_seq]
  rw [putOnAir_eq]
  split
  · exact (judgeTriggers_seq ..).trans haired
  · exact haired

/-! ## With nothing pending -/

theorem dropPending_empty {leaves : PendTrig → Bool} {w : W} (h : w.ch.trig.pending = []) : w.dropPending leaves = w := by
  unfold W.dropPending
  rw [h]
  dsimp only [List.filter_nil, List.foldl_nil]
  have hself : ({ w.ch.trig with pending := w.ch.trig.pending.filter fun x => !leaves x } : Triggers) = w.ch.trig := by
    rw [h, List.filter_nil, ← h]
  show { w with ch := { w.ch with trig := { w.ch.trig with pending := w.ch.trig.pending.filter fun x => !leaves x } } } = w
  rw [hself]

theorem leaveAir_empty {env : Env} {w : W} (h : w.ch.trig.pending = []) :
    (leaveAir env w).ch = { w.ch with seq := { w.ch.seq with onAir := none } } := by
  unfold leaveAir
  split
  · rw [W.dropOwner, dropPending_empty (by rw [W.modSeq_trig, leaveRecord_ch]; exact h)]
    exact congrArg (fun c : Chan => { c with seq := { c.seq with onAir := none } }) (leaveRecord_ch env _ w)
  · rename_i ho
    rw [← ho]

/-- The item has no triggers to judge: it is a break-in clip, or fill of no event. -/
def Item.judgeless (i : Item) : Prop := i.kind = .brk ∨ i.event = 0

/-- Nothing is pending, cued or waiting to air whose triggers could be judged, and `l` is held. -/
structure Chan.Emptied (l : List PendTrig) (c : Chan) : Prop where
  cued : c.seq.cued = none
  noEvent : c.store.event 0 = none
  pending : c.trig.pending = []
  held : c.trig.held = l
  clip : ∀ i, c.seq.breakClip = some i → i.judgeless

/-- And so is what stands on air, or is handed. -/
structure Chan.Judgeless (l : List PendTrig) (c : Chan) : Prop extends c.Emptied l where
  landing : c.seq.landing = none
  air : ∀ o, c.seq.onAir = some o → o.item.judgeless

section Judgeless

variable {env : Env} {l : List PendTrig} {w : W}

theorem judgeTriggers_judgeless {old : List PendTrig} {it : Item} {aired : Frame} (hstore : w.ch.store.event 0 = none)
    (h : it.judgeless) : judgeTriggers env old it aired w = w := by
  rcases h with h | h
  · exact judgeTriggers_none (Or.inr (by rw [← Bool.not_eq_true, ofEvent_iff, h]; simp))
  · unfold judgeTriggers
    rw [h, hstore]
    exact ite_self _

theorem rejudge_judgeless (h : w.ch.Judgeless l) : rejudge env w = w := by
  obtain ⟨⟨hcued, hstore, hpending, -, -⟩, hlanding, hair⟩ := h
  have hwaits : w.ch.landingWaits env.now = false := by unfold Chan.landingWaits; rw [hlanding]
  by_cases hmode : w.ch.ctl.mode = .mirror
  · exact if_pos hmode
  · rw [rejudge_eq env w _ _ _ _ hmode rfl rfl rfl rfl, hcued, hlanding, dropPending_empty hpending]
    dsimp only
    cases ho : w.ch.seq.onAir with
    | none => rfl
    | some o =>
      dsimp only
      rw [hwaits, judgeTriggers_judgeless hstore (hair o ho), ite_self]

/-- An item without triggers goes on the air. -/
theorem putOnAir_judgeless {i : Item} (h : w.ch.Emptied l) (hl : w.ch.seq.landing = none) (hi : i.judgeless) :
    (putOnAir env i w).ch.Judgeless l ∧ (putOnAir env i w).ch.seq.breakClip = w.ch.seq.breakClip := by
  obtain ⟨hcued, hstore, hpending, hheld, hclip⟩ := h
  have hseq := putOnAir_seq env i w
  have hevent : (airedW env i w).ch.store.event 0 = none := by
    rw [airedW, setAnchorFrom_event, W.modSeq_store, startRecords_ch, leaveAir_empty hpending]; exact hstore
  have htrig : (airedW env i w).ch.trig = w.ch.trig := by
    rw [airedW, setAnchorFrom_trig, W.modSeq_trig, startRecords_ch, leaveAir_empty hpending]
  have hput : putOnAir env i w = airedW env i w := by
    rw [putOnAir_eq, judgeItem, judgeTriggers_judgeless hevent (by exact hi), ite_self]
  refine ⟨⟨⟨?_, ?_, ?_, ?_, ?_⟩, ?_, fun o ho => ?_⟩, by rw [hseq]⟩
  · rw [hseq]; exact hcued
  · rw [hput]; exact hevent
  · rw [hput, htrig]; exact hpending
  · rw [hput, htrig]; exact hheld
  · rw [hseq]; exact hclip
  · rw [hseq]; exact hl
  · rw [hseq] at ho
    cases ho
    exact hi

theorem waitFor_judgeless (now : Frame) (i : Option Item) : (waitFor now i).judgeless := Or.inr rfl

theorem putWait_judgeless {i : Option Item} (h : w.ch.Judgeless l) : (putWait env i w).ch.Judgeless l := by
  have hput : ∀ x, x.judgeless → (putOnAir env x w).ch.Judgeless l := fun x hx =>
    (putOnAir_judgeless h.toEmptied h.landing hx).1
  unfold putWait
  dsimp only
  split
  · split
    · exact h
    · exact hput _ (waitFor_judgeless _ _)
  · exact hput _ (waitFor_judgeless _ _)

theorem nextBreak_judgeless (h : w.ch.Judgeless l) : (nextBreak env w).ch.Judgeless l := by
  have hput : ∀ x, x.judgeless → (putOnAir env x w).ch.Judgeless l := fun x hx =>
    (putOnAir_judgeless h.toEmptied h.landing hx).1
  have hclip : ∀ b, w.ch.seq.breakClip = some b →
      (if b.kind = .brk then putWait env none w else putOnAir env { b with start := env.now } w).ch.Judgeless l := fun b hb => by
    split
    · exact putWait_judgeless h
    · exact hput _ (h.clip b hb)
  unfold nextBreak
  split
  · rename_i b hb
    split
    · split
      · exact h
      · exact hclip b hb
    · exact hclip b hb
  · split
    · exact h
    · exact hput _ (Or.inr rfl)

/-! ## The timeline settles -/

theorem setOnAir_judgeless {o : OnAir} (h : w.ch.Judgeless l) (ho : o.item.judgeless) :
    (w.modSeq fun q => { q with onAir := some o }).ch.Judgeless l :=
  { h with air := fun o' ho' => by cases ho'; exact ho }

theorem takePointer_judgeless (h : w.ch.Judgeless l) : (takePointer env w).ch.Judgeless l := by
  have hset : ∀ i, (w.modSeq fun q => { q with preroll := i }).ch.Judgeless l := fun i => { h with air := h.air }
  unfold takePointer
  dsimp only
  split
  · exact hset _
  · split
    · exact h
    · exact hset _

theorem reactOnAir_judgeless (h : w.ch.Judgeless l) : (reactOnAir env w).ch.Judgeless l := by
  unfold reactOnAir
  cases ho : w.ch.seq.onAir with
  | none => exact h
  | some o =>
    have hitem := h.air o ho
    dsimp only
    split
    case isTrue =>
      split
      · exact setOnAir_judgeless h hitem
      · exact h
    case isFalse =>
      rcases hitem with hkind | hid
      · rw [hkind]
        split <;> exact h
      · have hend : w.ch.endOf o.item = none := by unfold Chan.endOf; rw [hid, h.noEvent]
        rw [hend]
        exact h

theorem relife_event_none {t : Store} {air cued : List Nat} (p : Event → Bool) (h : t.event 0 = none) :
    ({ t with current := t.current.map (Event.relife air cued), orphan := t.orphan.filter p } : Store).event 0 = none := by
  obtain ⟨hcurrent, horphan⟩ := event_none_iff.1 h
  refine event_none_iff.2 ⟨fun e he => ?_, fun o ho => ?_⟩
  · obtain ⟨f, hf, rfl⟩ := List.mem_map.1 he
    have hid : (f.relife air cued).id = f.id := congrArg (fun x => x.1) (relife_core air cued f)
    rw [hid]
    exact hcurrent f hf
  · exact horphan o (Option.filter_eq_some_iff.1 ho).1

theorem syncLife_judgeless (h : w.ch.Judgeless l) : (syncLife w).ch.Judgeless l := by
  obtain ⟨u, hu⟩ : ∃ u, u = syncWait w := ⟨_, rfl⟩
  have hwait : u.ch.Judgeless l := by
    rw [hu]
    unfold syncWait
    cases ho : w.ch.seq.onAir with
    | none => exact h
    | some o =>
      dsimp only
      split
      · exact setOnAir_judgeless h (h.air o ho)
      · exact h
  have hair : ∀ o, (syncPasses u).ch.seq.onAir = some o → o.item.judgeless := fun o ho => by
    obtain ⟨o', ho', rfl⟩ := Option.map_eq_some_iff.1 ho
    exact hwait.air o' ho'
  have hpasses : (syncPasses u).ch.Judgeless l := { hwait with air := hair }
  have hlife : syncLife w = (syncPasses u).modStore fun t =>
      { t with current := t.current.map (Event.relife (syncPasses u).ch.onAirIds (syncPasses u).ch.cuedIds)
               orphan := t.orphan.filter fun e => (syncPasses u).ch.onAirIds.contains e.id } := by rw [hu]; rfl
  rw [hlife]
  exact { hpasses with noEvent := relife_event_none _ hpasses.noEvent }

theorem resolveStore_judgeless (h : w.ch.Judgeless l) : (resolveStore env w).ch.Judgeless l := by
  have hresolved : (w.modStore fun t => resolveRetire (resCtx env w.ch) env.part.retireGrace (t.current.length + 1) t).ch.Judgeless l :=
    { h with noEvent := resolveRetire_event_none _ _ _ h.noEvent }
  unfold resolveStore
  dsimp only
  split
  · exact { hresolved with air := hresolved.air }
  · exact hresolved

theorem settleOnce_judgeless (h : w.ch.Judgeless l) : (settleOnce env w).ch.Judgeless l := by
  have hair := reactOnAir_judgeless (env := env) (resolveStore_judgeless (env := env) h)
  have hcued : ∀ v : W, v.ch.Judgeless l → reactCued env v = v := fun v hv => by unfold reactCued; rw [hv.cued]
  have hlanding : ∀ v : W, v.ch.Judgeless l → reactLanding env v = v := fun v hv => by unfold reactLanding; rw [hv.landing]
  unfold settleOnce
  dsimp only
  rw [hcued _ hair, hlanding _ hair]
  exact syncLife_judgeless (takePointer_judgeless hair)

theorem settleLoop_judgeless (n : Nat) (h : w.ch.Judgeless l) : (settleLoop env n w).ch.Judgeless l := by
  induction n generalizing w with
  | zero => exact h
  | succ n ih =>
    have honce := settleOnce_judgeless (env := env) h
    unfold settleLoop
    dsimp only
    split
    · exact honce
    · exact ih honce

theorem settle_judgeless (h : w.ch.Judgeless l) : (settle env w).ch.Judgeless l := by
  have hloop := settleLoop_judgeless (env := env) 6 h
  unfold settle
  dsimp only
  split
  · exact hloop
  · rw [rejudge_judgeless hloop]
    exact hloop

/-! ## The start of a break-in (R150) -/

/-- The channel while its timeline's items leave for a break-in that player `p` rolls. -/
structure Chan.Clearing (l : List PendTrig) (p : PlayerId) (c : Chan) : Prop extends c.Emptied l where
  mode : c.ctl.mode = .takeover
  loaded : ∀ i, (c.seq.player p).loaded = some i → i.kind = .brk

variable {p : PlayerId}

theorem Chan.Clearing.leaveAir (h : w.ch.Clearing l p) : (leaveAir env w).ch.Clearing l p := by
  rw [leaveAir_empty h.pending]
  cases p <;> exact { h with loaded := h.loaded }

/-- A player that is emptied. -/
theorem Chan.Clearing.unload {f : Player → Player} (q : PlayerId) (hf : ∀ x, (f x).loaded = none) (h : w.ch.Clearing l p) :
    (w.modPlayer q f).ch.Clearing l p := by
  have hloaded : ∀ i, ((w.modPlayer q f).player p).loaded = some i → i.kind = .brk := fun i hi => by
    by_cases hq : p = q
    · subst hq
      rw [W.modPlayer_player, hf] at hi
      cases hi
    · rw [W.modPlayer_other _ _ _ _ hq] at hi
      exact h.loaded i hi
  cases q <;> exact { h with loaded := hloaded }

theorem Chan.Clearing.playerEnd (q : PlayerId) (h : w.ch.Clearing l p) : (playerEnd env q w).ch.Clearing l p := by
  unfold Machine.playerEnd
  dsimp only
  split
  · split
    · exact h.leaveAir.unload q fun _ => rfl
    · exact h.unload q fun _ => rfl
  · exact h

theorem Chan.Clearing.uncue (f : Item → Bool) (h : w.ch.Clearing l p) :
    (w.modSeq fun q => { q with cued := q.cued.filter f }).ch.Clearing l p := by
  have hcued : w.ch.seq.cued.filter f = none := by rw [h.cued]; rfl
  cases p <;> exact { h with cued := hcued }

theorem Chan.Clearing.stopFrame (q : PlayerId) (h : w.ch.Clearing l p) : (stopFrame env q w).ch.Clearing l p := by
  have hstop : ∀ v : W, v.ch.Clearing l p → (if (w.player q).stopConfirmed then clearCue q .idle v
      else v.modPlayer q fun x => { x with state := .stopping, loaded := none, roll := none, endF := none }).ch.Clearing l p :=
    fun v hv => by split <;> exact hv.unload q fun _ => rfl
  unfold Machine.stopFrame
  dsimp only
  split
  · refine hstop _ ?_
    split <;> split
    · exact h.leaveAir
    · exact h
    · exact h.leaveAir.uncue _
    · exact h.uncue _
  · exact h

theorem Chan.Clearing.itemsLeave (h : w.ch.Clearing l p) :
    (Machine.leaveAir env (othersLeave env (playersLeave env w))).ch.Clearing l p := by
  have hplayers : (playersLeave env w).ch.Clearing l p := (((h.stopFrame .a).stopFrame .b).playerEnd .a).playerEnd .b
  have hothers : (othersLeave env (playersLeave env w)).ch.Clearing l p := by
    unfold othersLeave
    split
    · split
      · exact hplayers.leaveAir
      · exact hplayers
    · exact hplayers
  exact hothers.leaveAir

/-- The clip goes on the air where its player rolls now. -/
theorem playerRoll_judgeless (h : w.ch.Clearing l p) (hl : w.ch.seq.landing = none) (hair : w.ch.seq.onAir = none) :
    (playerRoll env p w).ch.Judgeless l := by
  have hnow : w.ch.Judgeless l := { h with landing := hl, air := fun o ho => by rw [hair] at ho; cases ho }
  unfold playerRoll
  dsimp only
  cases hi : (w.player p).loaded with
  | none => exact hnow
  | some i =>
    dsimp only
    split
    · obtain ⟨u, hu⟩ : ∃ u, u = (w.modPlayer p fun x => { x with state := .playing }).modSeq (clearSlots env.now p) := ⟨_, rfl⟩
      have hslots : u.ch.seq.cued = none ∧ u.ch.seq.landing = none ∧ ∀ b, u.ch.seq.breakClip = some b → b.judgeless := by
        have hcued : (w.modPlayer p fun x => { x with state := .playing }).ch.seq.cued = none := by cases p <;> exact h.cued
        have hlanding : (w.modPlayer p fun x => { x with state := .playing }).ch.seq.landing = none := by cases p <;> exact hl
        have hclip : (w.modPlayer p fun x => { x with state := .playing }).ch.seq.breakClip = w.ch.seq.breakClip := by cases p <;> rfl
        rw [hu, W.modSeq_seq]
        unfold clearSlots
        dsimp only
        rw [hcued, hlanding, hclip]
        exact ⟨rfl, rfl, fun b hb => h.clip b (Option.filter_eq_some_iff.1 hb).1⟩
      obtain ⟨hcued, hlanding, hclip⟩ := hslots
      have hempty : u.ch.Emptied l := by
        refine ⟨hcued, ?_, ?_, ?_, hclip⟩ <;> rw [hu]
        exacts [h.noEvent, h.pending, h.held]
      obtain ⟨hput, -⟩ := putOnAir_judgeless (env := env) (i := i) hempty hlanding (Or.inl (h.loaded i hi))
      have hmode : (putOnAir env i u).mode = .takeover := by
        obtain ⟨hm, -⟩ := rule_ctl (putOnAir_rule env i u)
        exact hm.trans (by rw [hu]; exact h.mode)
      rw [← hu, hmode]
      exact hput
    · exact hnow

end Judgeless

/-- The pending entries become the held list. -/
theorem breakStart_holds_pending {env : Env} {w : W} {b : PendingBreak} (hmode : w.ch.ctl.mode = .takeover)
    (hbreak : w.ch.ctl.pendingBreak = some b) (hdue : b.b ≤ env.now) (hcued : w.ch.seq.cued = none)
    (hstore : w.ch.store.event 0 = none) (hloaded : ∀ i, (w.ch.seq.player b.player).loaded = some i → i.kind = .brk)
    (hclip : ∀ i, w.ch.seq.breakClip = some i → i.kind = .brk ∨ i.event = 0) :
    (breakStart env w).ch.trig.held = w.ch.trig.pending ∧ (breakStart env w).ch.trig.pending = [] := by
  obtain ⟨u, hu⟩ : ∃ u, u = leaveAir env (othersLeave env (playersLeave env (w.modTrig fun t => { pending := [], held := t.pending }))) :=
    ⟨_, rfl⟩
  have hclear : u.ch.Clearing w.ch.trig.pending b.player := by
    rw [hu]
    exact Chan.Clearing.itemsLeave ⟨⟨hcued, hstore, rfl, rfl, hclip⟩, hmode, hloaded⟩
  have hair : u.ch.seq.onAir = none := by rw [hu, leaveAir_seq]
  have hready : ∀ f : Ctl → Ctl, (f u.ch.ctl).mode = u.ch.ctl.mode →
      ((u.modCtl f).modSeq fun q => { q with landing := none }).ch.Clearing w.ch.trig.pending b.player := fun f hf => by
    have hmode := hf.trans hclear.mode
    have hkept := hclear.loaded
    cases hp : b.player <;> rw [hp] at hclear hkept <;> exact { hclear with mode := hmode, loaded := hkept }
  have hdone : ∀ (f g : Ctl → Ctl) (v : W), (f u.ch.ctl).mode = u.ch.ctl.mode →
      v.ch = ((nextBreak env (playerRoll env b.player ((u.modCtl f).modSeq fun q => { q with landing := none }))).modCtl g).ch →
      (settle env (syncLife v)).ch.Judgeless w.ch.trig.pending := fun f g v hf hv => by
    have hbroken := nextBreak_judgeless (env := env) (playerRoll_judgeless (env := env) (hready f hf) rfl hair)
    refine settle_judgeless (syncLife_judgeless ?_)
    rw [hv]
    exact { hbroken with air := hbroken.air }
  have hnot : ¬ (w.mode ≠ .takeover ∨ env.now < b.b) := by
    rintro (h | h)
    · exact h hmode
    · exact absurd h (not_lt.2 hdue)
  have hall : (breakStart env w).ch.Judgeless w.ch.trig.pending := by
    unfold breakStart
    rw [hbreak]
    dsimp only
    rw [if_neg hnot, ← hu]
    refine hdone ?_ ?_ _ ?mode ?chan
    case chan => rw [modeNotice_ch, record_ch]
    case mode => rfl
  exact ⟨hall.held, hall.pending⟩

/-! ## The statement -/

theorem triggerAct_event (c : Ch) (m : Mode) (s : State) (hpow : s.powered = true) (hm : m = s.chans[c].ctl.mode) :
    ∃ t, exec (.triggerAct c) s = .next t ∧ Within c s t ∧ t.chans[c].trig.held = s.chans[c].trig.held ∧
      (m = .takeover ∨ m = .returning →
        t.chans[c].trig.pending = s.chans[c].trig.pending.filter fun x => decide ((s.time.hfn : Frame) < x.insertion)) ∧
      (m = .joining ∨ m = .breakIn → t.chans[c].trig.pending = s.chans[c].trig.pending.map fun x =>
        if x.insertion ≤ (s.time.hfn : Frame) then { x with late := true } else x) ∧
      (m = .mirror → t = s) := by
  obtain ⟨t, hexec, hwithin, hchan⟩ := monitor_event (i := .triggerAct c) (op := triggerAct) rfl hpow (triggerAct_rest ..)
  have hacts := triggerAct_acts (env := envOf s c) (w := begun s c)
  have hwaits := triggerAct_waits (env := envOf s c) (w := begun s c)
  have hidle := triggerAct_idle (env := envOf s c) (w := begun s c)
  have hself : m = .mirror → t = s := fun hmirror => by
    have hrun : exec (.triggerAct c) s = .next (runCh c triggerAct s) := congrArg Host.Outcome.next (live_on hpow)
    rw [runCh_unmoved (hidle (hm.symm.trans hmirror)), hexec] at hrun
    exact Host.Outcome.next.inj hrun
  refine ⟨t, hexec, hwithin, ?_, fun h => ?_, fun h => ?_, hself⟩
  · rw [hchan, ranCh]
    cases hmode : m with
    | mirror => rw [hidle (hm.symm.trans hmode)]; rfl
    | joining => rw [hwaits (Or.inl (hm.symm.trans hmode))]; rfl
    | takeover => rw [hacts (Or.inl (hm.symm.trans hmode))]; rfl
    | breakIn => rw [hwaits (Or.inr (hm.symm.trans hmode))]; rfl
    | returning => rw [hacts (Or.inr (hm.symm.trans hmode))]; rfl
  · rw [hchan, ranCh, hacts (by rw [hm] at h; exact h)]; rfl
  · rw [hchan, ranCh, hwaits (by rw [hm] at h; exact h)]; rfl

/-- Settles O34: the due entries leave or wait, each acts by its action, and the trigger lists are judged in order. -/
theorem dueTriggersAreDealtWith : Obligations.DueTriggersAreDealtWith := by
  unfold Obligations.DueTriggersAreDealtWith
  refine ⟨fun c m s hpow hm => triggerAct_event c m s hpow hm, fun c s hpow => ⟨fun hmode => ?_, fun hmode => ?_⟩,
    fun env w u x late hu hlate => ⟨fun hpast => ?_, fun hacts => ?_⟩,
    fun env it aired w => ⟨rfl, fun old => ⟨judgeTriggers_none, fun e r hmode hof he hr => judgeTriggers_eq hmode hof he hr⟩⟩,
    fun env it aired e k x f w u v hu hv => ⟨fun h => ?_, fun act h => ⟨fun hpast => ?_, fun hnow hbuilt haired => ?_⟩⟩,
    fun env old it aired e k x f w => ⟨fun y hy => ⟨y.heldBy it k (x.offset / e.duration), rfl, judgeAgain_unmoved hy⟩,
      judgeAgain_moved⟩,
    rejudge_eq, fun c b s hpow hmode hbreak hdue hcued hstore hloaded hclip => ?_⟩
  · exact congrArg Host.Outcome.next ((live_on hpow).trans
      (runCh_congr (op' := fun env w => (w.due env).foldl (actEntry env) w) (triggerAct_takeover hmode)))
  · exact congrArg Host.Outcome.next ((live_on hpow).trans
      (runCh_congr (op' := fun env w => (w.due env).foldl (fun u x => (u.without x).outcome env x .missed) w)
        (triggerAct_returning hmode)))
  · rw [hu]; exact actEntry_missed hpast
  · obtain ⟨hnone, hon, hoff, hblink, hident, hcue, hnotify⟩ := actTrigger_effect env x late u
    refine ⟨actTrigger env x late u, by rw [hu]; exact actEntry_acts hacts hlate, hnone, hon, hoff, hblink, hident,
      fun o hfill ho => ?_, fun hfill hwaits => ?_, hcue, hnotify⟩
    · rw [actTrigger_fillNow hfill]
      exact fillNow_marks x u.ch.seq o ho
    · rw [actTrigger_fillNow hfill]
      exact fillNow_cued x u hwaits
  · rw [hv, hu]; exact judgeOne_undefined h
  · have hcase : env.past f = true ∨ f < aired := by
      rw [past_iff, or_assoc]; exact hpast
    rw [hv, hu, judgeOne_defined h, if_pos hcase]
  · have hcase : ¬ (env.past f = true ∨ f < aired) := by
      rw [past_iff]
      rintro ((h | ⟨h, hb⟩) | h)
      · exact absurd h (not_lt.2 hnow)
      · rw [hbuilt h] at hb; exact Bool.false_ne_true hb
      · exact absurd h (not_lt.2 haired)
    exact ⟨newEntry env it e k x f act, by rw [hv, hu, judgeOne_defined h, if_neg hcase], newEntry_spec env it e k x f act _ rfl⟩
  · obtain ⟨t, hexec, hwithin, hchan⟩ := monitor_event (i := .breakStart c) (op := breakStart) rfl hpow (breakStart_rest ..)
    obtain ⟨hheld, hnone⟩ := breakStart_holds_pending (env := envOf s c) (w := begun s c) hmode hbreak hdue hcued hstore hloaded hclip
    refine ⟨t, hexec, hwithin, ?_, ?_⟩ <;> rw [hchan]
    exacts [hheld, hnone]

end Sys2Proof.Machine

/-! PROOFS. What the Sequencer's operations leave alone: the Channel Controller, the shadow, the fill already made, the target of a
landing, and what stands on air. -/

namespace Sys2Proof.Machine

open Sys2Proof

/-! ## Three degrees of leaving alone -/

/-- The Channel Controller, the shadow and its realign run stand, and what was filled stays filled. -/
structure W.Lasts (v w : W) : Prop where
  ctl : w.ch.ctl = v.ch.ctl
  shadow : w.ch.seq.shadow = v.ch.seq.shadow
  realign : w.ch.seq.realign = v.ch.seq.realign
  spent : v.ch.seq.spent <+: w.ch.seq.spent

/-- And a landing stands, with its target. -/
structure W.Stages (v w : W) : Prop extends v.Lasts w where
  target : (w.ch.seq.landing.map fun l => l.target) = v.ch.seq.landing.map fun l => l.target

/-- And the same stands on air. -/
structure W.Serves (v w : W) : Prop extends v.Stages w where
  air : w.ch.seq.onAir = v.ch.seq.onAir

theorem W.Lasts.refl (v : W) : v.Lasts v := ⟨rfl, rfl, rfl, List.prefix_rfl⟩
theorem W.Stages.refl (v : W) : v.Stages v := ⟨W.Lasts.refl v, rfl⟩
theorem W.Serves.refl (v : W) : v.Serves v := ⟨W.Stages.refl v, rfl⟩

section Laws

variable {u v w : W}

theorem W.Lasts.trans (a : u.Lasts v) (b : v.Lasts w) : u.Lasts w :=
  ⟨b.ctl.trans a.ctl, b.shadow.trans a.shadow, b.realign.trans a.realign, a.spent.trans b.spent⟩

theorem W.Stages.trans (a : u.Stages v) (b : v.Stages w) : u.Stages w :=
  ⟨a.toLasts.trans b.toLasts, b.target.trans a.target⟩

theorem W.Serves.trans (a : u.Serves v) (b : v.Serves w) : u.Serves w :=
  ⟨a.toStages.trans b.toStages, b.air.trans a.air⟩

/-- Only the Channel Controller and the Sequencer matter. -/
theorem serves_of_eq (hctl : w.ch.ctl = v.ch.ctl) (hseq : w.ch.seq = v.ch.seq) : v.Serves w := by
  refine ⟨⟨⟨hctl, ?_, ?_, ?_⟩, ?_⟩, ?_⟩ <;> rw [hseq]

/-- What a change of the Sequencer leaves alone. -/
def Seq.Keeps (q r : Seq) : Prop :=
  r.onAir = q.onAir ∧ r.shadow = q.shadow ∧ r.realign = q.realign ∧ q.spent <+: r.spent ∧
    (r.landing.map fun l => l.target) = q.landing.map fun l => l.target

theorem modSeq_serves (f : Seq → Seq) (h : v.Serves w) (hf : w.ch.seq.Keeps (f w.ch.seq)) : v.Serves (w.modSeq f) := by
  obtain ⟨hair, hshadow, hrealign, hspent, htarget⟩ := hf
  exact h.trans ⟨⟨⟨rfl, hshadow, hrealign, hspent⟩, htarget⟩, hair⟩

theorem emit_serves (e : Effect) (h : v.Serves w) : v.Serves (w.emit e) := h.trans (serves_of_eq rfl rfl)
theorem modStore_serves (f : Store → Store) (h : v.Serves w) : v.Serves (w.modStore f) := h.trans (serves_of_eq rfl rfl)
theorem modTrig_serves (f : Triggers → Triggers) (h : v.Serves w) : v.Serves (w.modTrig f) := h.trans (serves_of_eq rfl rfl)

theorem modPlayer_serves (p : PlayerId) (f : Player → Player) (h : v.Serves w) : v.Serves (w.modPlayer p f) :=
  modSeq_serves _ h (by cases p <;> exact ⟨rfl, rfl, rfl, List.prefix_rfl, rfl⟩)

/-- The slots but what stands on air and the landing. -/
theorem modSlots_serves (cued preroll : Seq → Option Item) (h : v.Serves w) :
    v.Serves (w.modSeq fun q => { q with cued := cued q, preroll := preroll q }) :=
  modSeq_serves _ h ⟨rfl, rfl, rfl, List.prefix_rfl, rfl⟩

theorem modPreroll_serves (preroll : Seq → Option Item) (h : v.Serves w) : v.Serves (w.modSeq fun q => { q with preroll := preroll q }) :=
  modSlots_serves (fun q => q.cued) preroll h

theorem modCued_serves (cued : Seq → Option Item) (h : v.Serves w) : v.Serves (w.modSeq fun q => { q with cued := cued q }) :=
  modSlots_serves cued (fun q => q.preroll) h

theorem modClip_serves (clip : Seq → Option Item) (h : v.Serves w) : v.Serves (w.modSeq fun q => { q with breakClip := clip q }) :=
  modSeq_serves _ h ⟨rfl, rfl, rfl, List.prefix_rfl, rfl⟩

theorem addSpent_serves (i : Item) (due : Option (Frame × Frame)) (h : v.Serves w) : v.Serves (w.addSpent i due) :=
  modSeq_serves _ h ⟨rfl, rfl, rfl, List.prefix_append _ _, rfl⟩

theorem map_target (f : Item → Item) (x : Option Landing) :
    ((x.map fun l => { l with item := f l.item }).map fun l => l.target) = x.map fun l => l.target := by
  rw [Option.map_map]; rfl

theorem modLanding_serves (f : Item → Item) (h : v.Serves w) : v.Serves (w.modLanding f) :=
  modSeq_serves _ h ⟨rfl, rfl, rfl, List.prefix_rfl, map_target f _⟩

theorem uncueLanding_serves (f : Item → Item) (h : v.Serves w) : v.Serves (w.uncueLanding f) :=
  modSeq_serves _ h ⟨rfl, rfl, rfl, List.prefix_rfl, map_target f _⟩

/-! ## Triggers and records -/

theorem dropPending_ctl (leaves : PendTrig → Bool) (w : W) : (w.dropPending leaves).ch.ctl = w.ch.ctl := by
  unfold W.dropPending
  generalize w.ch.trig.pending.filter leaves = gone
  obtain ⟨u, hu⟩ : ∃ u, u = w.modTrig fun t => { t with pending := t.pending.filter fun x => !leaves x } := ⟨_, rfl⟩
  have hctl : u.ch.ctl = w.ch.ctl := by rw [hu]; rfl
  have hfold : ∀ v : W, (gone.foldl (fun w t => w.setMark t.event t.index none) v).ch.ctl = v.ch.ctl := by
    induction gone with
    | nil => exact fun _ => rfl
    | cons t ts ih => exact fun v => ih _
  rw [← hu]
  exact (hfold u).trans hctl

theorem dropPending_serves (leaves : PendTrig → Bool) (h : v.Serves w) : v.Serves (w.dropPending leaves) :=
  h.trans (serves_of_eq (dropPending_ctl ..) (dropPending_seq ..))

theorem dropOwner_serves (i : Item) (h : v.Serves w) : v.Serves (w.dropOwner i) := dropPending_serves _ h

theorem judgeOne_ctl (env : Env) (it : Item) (aired : Frame) (e : Event) (k : Nat) (x : Trig) (f : Frame) (w : W) :
    (judgeOne env it aired e k x f w).ch.ctl = w.ch.ctl := by
  cases h : trigAction env.table x.code with
  | none => rw [judgeOne_undefined h]; rfl
  | some act => rw [judgeOne_defined h]; split <;> rfl

theorem judgeAgain_serves (env : Env) (old : List PendTrig) (it : Item) (aired : Frame) (e : Event) (k : Nat) (x : Trig) (f : Frame)
    (h : v.Serves w) : v.Serves (judgeAgain env old it aired e k x f w) := by
  refine h.trans (serves_of_eq ?_ (judgeAgain_seq ..))
  unfold judgeAgain
  split
  · rfl
  · exact judgeOne_ctl ..

theorem foldl_serves {α : Type} {f : W → α → W} (hf : ∀ w x, v.Serves w → v.Serves (f w x)) (l : List α) (h : v.Serves w) :
    v.Serves (l.foldl f w) := by
  induction l generalizing w with
  | nil => exact h
  | cons x xs ih => exact ih (hf w x h)

theorem judgeTriggers_serves (env : Env) (old : List PendTrig) (it : Item) (aired : Frame) (h : v.Serves w) :
    v.Serves (judgeTriggers env old it aired w) := by
  unfold judgeTriggers
  split
  · exact h
  · split
    · exact h
    · split
      · exact h
      · refine foldl_serves (fun w x h => ?_) _ h
        dsimp only
        split
        · exact judgeAgain_serves _ _ _ _ _ _ _ _ h
        · exact h

theorem rejudge_serves (env : Env) (h : v.Serves w) : v.Serves (rejudge env w) := by
  have hdrop := dropPending_serves (fun _ => true) h
  unfold rejudge
  split
  · exact h
  · dsimp only
    have hair : v.Serves (match (w.dropPending fun _ => true).ch.seq.onAir with
        | some o => if (w.dropPending fun _ => true).ch.landingWaits env.now then w.dropPending fun _ => true
          else judgeTriggers env w.ch.trig.pending o.item (o.item.onAirStart.getD env.now) (w.dropPending fun _ => true)
        | none => w.dropPending fun _ => true) := by
      split
      · split
        · exact hdrop
        · exact judgeTriggers_serves _ _ _ _ hdrop
      · exact hdrop
    split
    · refine judgeTriggers_serves _ _ _ _ ?_
      split
      · split
        · exact judgeTriggers_serves _ _ _ _ hair
        · exact hair
      · exact hair
    · split
      · split
        · exact judgeTriggers_serves _ _ _ _ hair
        · exact hair
      · exact hair

/-! ## Requests to players -/

theorem sendNext_serves (env : Env) (p : PlayerId) (h : v.Serves w) : v.Serves (sendNext env p w) := by
  unfold sendNext
  dsimp only
  split
  · exact emit_serves _ (modPlayer_serves _ _ h)
  · exact h

theorem submit_serves (env : Env) (p : PlayerId) (r : PReq) (h : v.Serves w) : v.Serves (submit env p r w) :=
  sendNext_serves _ _ (modPlayer_serves _ _ h)

theorem makeRoom_serves (p : PlayerId) (h : v.Serves w) : v.Serves (makeRoom p w) := by
  unfold makeRoom
  split
  · exact h
  · exact modPlayer_serves _ _ h

theorem clearCue_serves (p : PlayerId) (st : PState) (h : v.Serves w) : v.Serves (clearCue p st w) := modPlayer_serves _ _ h

theorem itemAgain_serves (again : Bool) (p : PlayerId) (avoid : Option PlayerId) (i : Item) (h : v.Serves w) :
    v.Serves (itemAgain again p avoid i w) := by
  have hdrop := dropOwner_serves i h
  unfold itemAgain
  dsimp only
  split
  · exact modClip_serves _ hdrop
  · split
    · split
      · exact uncueLanding_serves _ hdrop
      · exact addSpent_serves _ _ (modLanding_serves _ hdrop)
    · split
      · exact modPreroll_serves _ (modCued_serves _ hdrop)
      · exact addSpent_serves _ _ (modPreroll_serves _ (modCued_serves _ hdrop))

theorem itemReturned_serves (p : PlayerId) (avoid : Option PlayerId) (i : Item) (h : v.Serves w) :
    v.Serves (itemReturned p avoid i w) := itemAgain_serves _ _ _ _ h

theorem failQueuedCue_serves (p : PlayerId) (h : v.Serves w) : v.Serves (failQueuedCue p w) := by
  unfold failQueuedCue
  dsimp only
  split
  · exact itemReturned_serves _ _ _ (clearCue_serves _ _ h)
  · exact h

theorem issueStop_serves (env : Env) (p : PlayerId) (frame : Frame) (h : v.Serves w) : v.Serves (issueStop env p frame w) := by
  have hmark := modPlayer_serves p (fun x => { x with stopF := some frame, stopConfirmed := false }) h
  unfold issueStop
  dsimp only
  split
  · exact modPlayer_serves _ _ hmark
  · split
    · exact submit_serves _ _ _ (makeRoom_serves _ hmark)
    · split
      · exact submit_serves _ _ _ (failQueuedCue_serves _ (modPlayer_serves _ _ hmark))
      · exact submit_serves _ _ _ (modPlayer_serves _ _ hmark)

theorem stopAtOnce_serves (env : Env) (p : PlayerId) (frame : Frame) (h : v.Serves w) : v.Serves (stopAtOnce env p frame w) := by
  unfold stopAtOnce
  exact modPlayer_serves _ _ (issueStop_serves _ _ _ h)

theorem cancelCue_serves (env : Env) (p : PlayerId) (h : v.Serves w) : v.Serves (cancelCue env p w) := by
  have hdrop : v.Serves (match (w.player p).loaded with
      | some i => w.dropOwner i
      | none => w) := by
    split
    · exact dropOwner_serves _ h
    · exact h
  unfold cancelCue
  dsimp only
  split
  · exact clearCue_serves _ _ (modPlayer_serves _ _ hdrop)
  · exact stopAtOnce_serves _ _ _ hdrop

theorem cancelItem_serves (env : Env) (i : Item) (h : v.Serves w) : v.Serves (cancelItem env i w) := by
  unfold cancelItem
  split
  · exact cancelCue_serves _ _ h
  · exact dropOwner_serves _ h

/-! ## Cues -/

theorem takePointer_serves (env : Env) (h : v.Serves w) : v.Serves (takePointer env w) := by
  unfold takePointer
  dsimp only
  split
  · exact modPreroll_serves _ h
  · split
    · exact h
    · exact modPreroll_serves _ h

theorem loadCue_serves (env : Env) (p : PlayerId) (i : Item) (handle : Nat) (roll : Frame) (h : v.Serves w) :
    v.Serves (loadCue env p i handle roll w) := by
  unfold loadCue
  dsimp only
  split
  · exact submit_serves _ _ _ (makeRoom_serves _ (modPlayer_serves _ _ h))
  · exact failQueuedCue_serves _ (modPlayer_serves _ _ h)

theorem itemRecord_serves (env : Env) (kind : AsRunKind) (event pass : Nat) (offset : Int) (source : AsRunSource) (detail : Detail)
    (h : v.Serves w) : v.Serves (w.itemRecord env kind event pass offset source detail) :=
  h.trans (serves_of_eq (congrArg Chan.ctl (itemRecord_ch ..)) (congrArg Chan.seq (itemRecord_ch ..)))

theorem loseWhole_serves (env : Env) (i : Item) (h : v.Serves w) : v.Serves (loseWhole env i w) := by
  unfold loseWhole
  dsimp only
  split
  · exact addSpent_serves _ _ (itemRecord_serves _ _ _ _ _ _ _ h)
  · exact addSpent_serves _ _ h

theorem judgeItem_serves (env : Env) (it : Item) (aired : Frame) (h : v.Serves w) : v.Serves (judgeItem env it aired w) :=
  judgeTriggers_serves _ _ _ _ h

theorem cueLanding_serves (env : Env) (h : v.Serves w) : v.Serves (cueLanding env w) := by
  have hfill : ∀ l : Landing, v.Serves (takePointer env ((w.modLanding Item.absent).addSpent l.item none)) := fun l =>
    takePointer_serves _ (addSpent_serves _ _ (modLanding_serves _ h))
  unfold cueLanding
  split
  · exact h
  · split
    · exact h
    · split
      · exact h
      · dsimp only
        split
        · exact hfill _
        · split
          · exact hfill _
          · split
            · exact takePointer_serves _ (loseWhole_serves _ _ (modLanding_serves _ h))
            · exact takePointer_serves _ (judgeItem_serves _ _ _ (loadCue_serves _ _ _ _ _ (modPreroll_serves _ (modLanding_serves _ h))))

theorem cuePreroll_serves (env : Env) (p : PlayerId) (i : Item) (h : v.Serves w) : v.Serves (cuePreroll env p i w) := by
  unfold cuePreroll
  dsimp only
  split
  · exact takePointer_serves _ (addSpent_serves _ _ h)
  · split
    · exact takePointer_serves _ (addSpent_serves _ _ h)
    · split
      · exact takePointer_serves _ (loseWhole_serves _ _ h)
      · exact takePointer_serves _ (judgeItem_serves _ _ _ (loadCue_serves _ _ _ _ _ (modSlots_serves _ _ h)))

theorem cueBreak_serves (env : Env) (h : v.Serves w) : v.Serves (cueBreak env w) := by
  unfold cueBreak
  split
  · exact h
  · split
    · exact h
    · split
      · exact h
      · dsimp only
        split
        · exact modClip_serves _ h
        · exact loadCue_serves _ _ _ _ _ (modClip_serves _ h)

theorem lateCue_serves (env : Env) (h : v.Serves w) : v.Serves (lateCue env w) := by
  have hfirst := cueLanding_serves env (cueBreak_serves env h)
  unfold lateCue
  dsimp only
  split
  · split
    · split
      · exact cuePreroll_serves _ _ _ hfirst
      · exact hfirst
    · exact hfirst
  · exact hfirst

theorem cueWindow_serves (env : Env) (h : v.Serves w) : v.Serves (cueWindow env w) := by
  unfold cueWindow
  split
  · split
    · split
      · exact cuePreroll_serves _ _ _ h
      · exact h
    · exact h
  · exact h

theorem cueAll_serves (env : Env) (n : Nat) (h : v.Serves w) : v.Serves (cueAll env n w) := by
  induction n generalizing w with
  | zero => exact h
  | succ n ih =>
    have hone := cueWindow_serves env (lateCue_serves env h)
    unfold cueAll
    dsimp only
    split
    · exact hone
    · exact ih hone

theorem sweepQuery_serves (env : Env) (h : v.Serves w) : v.Serves (sweepQuery env w) := by
  unfold sweepQuery
  split
  · exact h
  · split
    · exact h
    · split
      · exact h
      · exact modSeq_serves _ (submit_serves _ _ _ h) ⟨rfl, rfl, rfl, List.prefix_rfl, rfl⟩

/-! ## Items that are lost -/

theorem itemLostOnce_serves (env : Env) (h : v.Serves w) : ∀ x, itemLostOnce env w = some x → v.Serves x := by
  intro x hx
  unfold itemLostOnce at hx
  dsimp only at hx
  cases hbreak : breakLost (env.now + env.cp.lead) w with
  | some u =>
    rw [hbreak] at hx
    cases hx
    unfold breakLost at hbreak
    split at hbreak
    · split at hbreak
      · cases hbreak
        exact modClip_serves _ h
      · cases hbreak
    · cases hbreak
  | none =>
    rw [hbreak] at hx
    dsimp only at hx
    cases hland : landingLost env (env.now + env.cp.lead) w with
    | some u =>
      rw [hland] at hx
      cases hx
      unfold landingLost at hland
      split at hland
      · split at hland
        · cases hland
          exact takePointer_serves _ (loseWhole_serves _ _ (modLanding_serves _ h))
        · cases hland
      · cases hland
    | none =>
      rw [hland] at hx
      dsimp only at hx
      unfold pointerLost at hx
      split at hx
      · split at hx
        · cases hx
          exact takePointer_serves _ (loseWhole_serves _ _ (modPreroll_serves _ h))
        · cases hx
      · cases hx

theorem loseItems_serves (env : Env) (n : Nat) (h : v.Serves w) : v.Serves (loseItems env n w) := by
  induction n generalizing w with
  | zero => exact h
  | succ n ih =>
    unfold loseItems
    split
    · rename_i x hx
      exact ih (itemLostOnce_serves env h x hx)
    · exact h

/-! ## The air -/

theorem modAir_stages (air : Seq → Option OnAir) (h : v.Stages w) : v.Stages (w.modSeq fun q => { q with onAir := air q }) :=
  h.trans ⟨⟨rfl, rfl, rfl, List.prefix_rfl⟩, rfl⟩

theorem modStore_stages (f : Store → Store) (h : v.Stages w) : v.Stages (w.modStore f) :=
  h.trans (modStore_serves f (W.Serves.refl w)).toStages

theorem modLand_lasts (air : Seq → Option OnAir) (landing : Seq → Option Landing) (h : v.Lasts w) :
    v.Lasts (w.modSeq fun q => { q with onAir := air q, landing := landing q }) :=
  h.trans ⟨rfl, rfl, rfl, List.prefix_rfl⟩

theorem stages_of_seq {air : Option OnAir} (hctl : w.ch.ctl = v.ch.ctl) (hseq : w.ch.seq = { v.ch.seq with onAir := air }) :
    v.Stages w := by
  refine ⟨⟨hctl, ?_, ?_, ?_⟩, ?_⟩ <;> rw [hseq]

theorem leaveAir_ctl (env : Env) (w : W) : (leaveAir env w).ch.ctl = w.ch.ctl := by
  unfold leaveAir
  split
  · exact (dropPending_ctl ..).trans (by rw [W.modSeq_ctl, leaveRecord_ch])
  · rfl

theorem leaveAir_stages (env : Env) (h : v.Stages w) : v.Stages (leaveAir env w) :=
  h.trans (stages_of_seq (leaveAir_ctl env w) (leaveAir_seq env w))

theorem setAnchorFrom_ctl (env : Env) (i : Item) (w : W) : (setAnchorFrom env i w).ch.ctl = w.ch.ctl := by
  unfold setAnchorFrom
  split <;> rfl

theorem putOnAir_ctl (env : Env) (i : Item) (w : W) : (putOnAir env i w).ch.ctl = w.ch.ctl := by
  have haired : (airedW env i w).ch.ctl = w.ch.ctl := by
    rw [airedW, setAnchorFrom_ctl, W.modSeq_ctl, startRecords_ch, leaveAir_ctl]
  rw [putOnAir_eq]
  split
  · exact (judgeItem_serves env _ _ (W.Serves.refl _)).ctl.trans haired
  · exact haired

theorem putOnAir_stages (env : Env) (i : Item) (h : v.Stages w) : v.Stages (putOnAir env i w) :=
  h.trans (stages_of_seq (putOnAir_ctl env i w) (putOnAir_seq env i w))

theorem putWait_stages (env : Env) (i : Option Item) (h : v.Stages w) : v.Stages (putWait env i w) := by
  unfold putWait
  dsimp only
  split
  · split
    · exact h
    · exact putOnAir_stages _ _ h
  · exact putOnAir_stages _ _ h

theorem nextBreak_stages (env : Env) (h : v.Stages w) : v.Stages (nextBreak env w) := by
  have hclip : ∀ b : Item, v.Stages (if b.kind = .brk then putWait env none w else putOnAir env { b with start := env.now } w) :=
    fun b => by
      split
      · exact putWait_stages _ _ h
      · exact putOnAir_stages _ _ h
  unfold nextBreak
  split
  · split
    · split
      · exact h
      · exact hclip _
    · exact hclip _
  · split
    · exact h
    · exact putOnAir_stages _ _ h

theorem nextItem_stages (env : Env) (h : v.Stages w) : v.Stages (nextItem env w) := by
  have hput : v.Stages (if (w.ch.itemAt env.now).isPass then putWait env (some (w.ch.dueItem (w.ch.itemAt env.now))) w
      else putOnAir env (w.ch.itemAt env.now) w) := by
    split
    · exact putWait_stages _ _ h
    · exact putOnAir_stages _ _ h
  unfold nextItem
  dsimp only
  split
  · exact hput
  · split
    · exact hput
    · split
      · exact h
      · exact hput
    · split
      · exact h
      · exact hput
    · exact h

theorem landingOver_lasts (env : Env) (h : v.Lasts w) : v.Lasts (landingOver env w) := by
  unfold landingOver
  split
  · rename_i l hl
    obtain ⟨x, hx⟩ : ∃ x, x = w.modSeq fun q => { q with landing := none } := ⟨_, rfl⟩
    have hnone : v.Lasts x := h.trans (by rw [hx]; exact ⟨rfl, rfl, rfl, List.prefix_rfl⟩)
    have hdrop := dropOwner_serves l.item (W.Serves.refl x)
    dsimp only
    rw [← hx]
    split
    · refine hnone.trans (loseWhole_serves env l.item (v := x) ?_).toLasts
      split
      · split
        · exact cancelCue_serves _ _ (W.Serves.refl x)
        · exact hdrop
      · exact hdrop
    · exact hnone.trans hdrop.toLasts
  · exact h

theorem landPlaying_lasts (env : Env) (h : v.Lasts w) : ∀ x, landPlaying env w = some x → v.Lasts x := by
  intro x hx
  have hput : ∀ i, v.Lasts (putOnAir env i (w.modSeq fun q => { q with onAir := none, landing := none })) := fun i =>
    (modLand_lasts _ _ h).trans (putOnAir_stages env i (W.Stages.refl _)).toLasts
  unfold landPlaying at hx
  split at hx
  · split at hx
    · split at hx
      · cases hx
        exact hput _
      · cases hx
    · cases hx
  · cases hx

theorem landNow_lasts (env : Env) (l : Landing) (h : v.Lasts w) : v.Lasts (landNow env l w) := by
  unfold landNow
  split
  · rename_i x hx
    exact landPlaying_lasts env h x hx
  · split
    · exact (landingOver_lasts env h).trans (nextItem_stages env (W.Stages.refl _)).toLasts
    · split
      · exact h.trans (putWait_stages env _ (W.Stages.refl _)).toLasts
      · exact (modLand_lasts _ _ h).trans (putOnAir_stages env _ (W.Stages.refl _)).toLasts

theorem nextOnAir_lasts (env : Env) (h : v.Lasts w) : v.Lasts (nextOnAir env w) := by
  unfold nextOnAir
  split
  · exact h
  · split
    · exact h.trans (nextBreak_stages env (W.Stages.refl _)).toLasts
    · split
      · split
        · exact h
        · exact landNow_lasts env _ h
      · exact h.trans (nextItem_stages env (W.Stages.refl _)).toLasts

theorem itemLost_lasts (env : Env) (h : v.Lasts w) : v.Lasts (itemLost env w) := by
  have hlost := h.trans (loseItems_serves env (w.ch.items.length + 3) (W.Serves.refl w)).toLasts
  unfold itemLost
  dsimp only
  split
  · split
    · exact nextOnAir_lasts env hlost
    · exact hlost
  · exact hlost

theorem syncWait_stages (h : v.Stages w) : v.Stages (syncWait w) := by
  unfold syncWait
  split
  · split
    · exact modAir_stages _ h
    · exact h
  · exact h

theorem syncLife_stages (h : v.Stages w) : v.Stages (syncLife w) := by
  unfold syncLife syncPasses
  exact modStore_stages _ (modAir_stages _ (syncWait_stages h))

theorem pump_lasts (env : Env) (h : v.Lasts w) : v.Lasts (pump env w) := by
  obtain ⟨u, hu⟩ : ∃ u, u = itemLost env w := ⟨_, rfl⟩
  have hcues := sweepQuery_serves env (cueAll_serves env (2 * u.ch.items.length + 3) (W.Serves.refl u))
  have hpump : pump env w = syncLife (sweepQuery env (cueAll env (2 * u.ch.items.length + 3) u)) := by rw [hu]; rfl
  rw [hpump]
  exact (hu ▸ itemLost_lasts env h).trans (hcues.toStages.trans (syncLife_stages (W.Stages.refl _))).toLasts

/-! ## Reactions to a new timeline -/

theorem cutPlayer_serves (env : Env) (p : PlayerId) (stop : Frame) (h : v.Serves w) : v.Serves (cutPlayer env p stop w) := by
  have hstop : ∀ earlier : Bool, v.Serves (if earlier then w else issueStop env p stop w) := fun earlier => by
    split
    · exact h
    · exact issueStop_serves _ _ _ h
  unfold cutPlayer
  exact modPlayer_serves _ _ (hstop _)

theorem resolveStore_serves (env : Env) (h : v.Serves w) : v.Serves (resolveStore env w) := by
  unfold resolveStore
  dsimp only
  split
  · exact modSeq_serves _ (modStore_serves _ h) ⟨rfl, rfl, rfl, List.prefix_rfl, rfl⟩
  · exact modStore_serves _ h

theorem reactOnAir_stages (env : Env) (h : v.Stages w) : v.Stages (reactOnAir env w) := by
  unfold reactOnAir
  split
  · exact h
  · split
    · dsimp only
      split
      · exact modAir_stages _ h
      · exact h
    · split
      · exact h
      · split
        · dsimp only
          split
          · exact modAir_stages _ (h.trans (cutPlayer_serves _ _ _ (W.Serves.refl w)).toStages)
          · exact h
        · split
          · exact modAir_stages _ h
          · exact h
        · exact h

theorem reactCued_serves (env : Env) (h : v.Serves w) : v.Serves (reactCued env w) := by
  unfold reactCued
  split
  · exact h
  · dsimp only
    split
    · split
      · split
        · exact modCued_serves _ (cutPlayer_serves _ _ _ h)
        · exact h
      · exact h
    · exact modCued_serves _ (cancelItem_serves _ _ h)

theorem keepLanding_serves (env : Env) (l : Landing) (fresh : Item) (q q' : Int) (h : v.Serves w) :
    v.Serves (keepLanding env l fresh q q' w) := by
  unfold keepLanding
  split
  · refine modLanding_serves _ ?_
    split
    · split
      · exact cutPlayer_serves _ _ _ h
      · exact h
    · exact h
  · exact modLanding_serves _ h
  · exact modLanding_serves _ h

end Laws

end Sys2Proof.Machine

/-! PROOFS. A player's STOPs, and the frames at which it rolls, ends and stops (R103, R106 to R108). -/

namespace Sys2Proof.Machine

open Sys2Proof

/-! ## STOP (R106, R108) -/

theorem ownStopQueued_iff (x : Player) :
    x.ownStopQueued = true ↔ x.stopF.isSome = true ∧ ∃ q ∈ x.queue, q.2.isStop = true := by
  simp [Player.ownStopQueued]

section Stop

variable {env : Env} {p : PlayerId} {frame : Frame} {w : W}

/-- The newest queued STOP takes the new frame. -/
theorem issueStop_moves {a b : List (Nat × PReq)} {tag : Nat} {old : Frame} (hstop : (w.player p).stopF.isSome = true)
    (hqueue : (w.player p).queue = a ++ (tag, .stop old) :: b) (hnewest : ∀ q ∈ b, q.2.isStop = false) :
    (issueStop env p frame w).player p =
      { w.player p with stopF := some frame, stopConfirmed := false, queue := a ++ (tag, .stop frame) :: b } := by
  have hown : (w.player p).ownStopQueued = true :=
    (ownStopQueued_iff _).2 ⟨hstop, (tag, .stop old), by rw [hqueue]; exact List.mem_append_right _ List.mem_cons_self, rfl⟩
  rw [issueStop_own env p frame w hown, W.modPlayer_player, hqueue, moveStop_newest frame old tag a b hnewest]

/-- Behind a request in flight a STOP waits. -/
theorem issueStop_waits (hown : (w.player p).ownStopQueued = false) (hroom : (w.player p).queue.length < 4)
    (hflight : (w.player p).flight.isSome = true) : (issueStop env p frame w).player p =
      { w.player p with stopF := some frame, stopConfirmed := false, tags := ((w.player p).tags + 1) % 65536,
                        queue := insertReq ((w.player p).tags, .stop frame) (w.player p).queue } := by
  obtain ⟨f, hf⟩ := Option.isSome_iff_exists.1 hflight
  obtain ⟨u, hu⟩ : ∃ u, u = (w.modPlayer p fun x => { x with stopF := some frame, stopConfirmed := false }).modPlayer p fun x =>
    { x with queue := insertReq (x.tags, .stop frame) x.queue, tags := (x.tags + 1) % two16 } := ⟨_, rfl⟩
  have hplayer : u.player p = { w.player p with stopF := some frame, stopConfirmed := false, tags := ((w.player p).tags + 1) % 65536,
                                                queue := insertReq ((w.player p).tags, .stop frame) (w.player p).queue } := by
    rw [hu, W.modPlayer_player, W.modPlayer_player]; rfl
  have hsent : sendNext env p u = u := by
    unfold sendNext
    dsimp only
    rw [hplayer, hf]
  have hsubmit : issueStop env p frame w = sendNext env p u := by rw [issueStop_fresh env p frame w hown hroom, hu]; rfl
  rw [hsubmit, hsent, hplayer]

/-- With nothing queued or in flight a STOP is sent. -/
theorem issueStop_sent (hown : (w.player p).ownStopQueued = false) (hqueue : (w.player p).queue = [])
    (hflight : (w.player p).flight = none) : (issueStop env p frame w).player p =
      { w.player p with
        stopF := some frame
        stopConfirmed := false
        flight := some { tag := (w.player p).tags, req := .stop frame, sent := env.now, age := 0, probe := false,
                         counting := PReq.countsFrom env.now (.stop frame) }
        tags := ((w.player p).tags + 1) % 65536 } := by
  obtain ⟨u, hu⟩ : ∃ u, u = w.modPlayer p fun x => { x with stopF := some frame, stopConfirmed := false } := ⟨_, rfl⟩
  have hplayer : u.player p = { w.player p with stopF := some frame, stopConfirmed := false } := by rw [hu, W.modPlayer_player]
  have hquiet : (u.player p).flight = none ∧ (u.player p).queue = [] := by rw [hplayer]; exact ⟨hflight, hqueue⟩
  rw [issueStop_fresh env p frame w hown (by rw [hqueue]; decide), ← hu, submit_quiet hquiet.1 hquiet.2, emit_player,
    W.modPlayer_player, hplayer]
  rfl

end Stop

/-! ## Players that roll, end and stop (R107, R108) -/

section Boundary

variable {env : Env} {p : PlayerId} {w : W}

/-- The channel with a rolled item's slot emptied and its player PLAYING. -/
def rolledW (env : Env) (p : PlayerId) (w : W) : W :=
  (w.modPlayer p fun x => { x with state := .playing }).modSeq (clearSlots env.now p)

theorem rolledW_player (env : Env) (p : PlayerId) (w : W) : (rolledW env p w).player p = { w.player p with state := .playing } := by
  cases p <;> rfl

theorem playerRoll_due {i : Item} (hstate : (w.player p).state = .cued) (hroll : (w.player p).roll = some env.now)
    (hloaded : (w.player p).loaded = some i) : playerRoll env p w =
      match (putOnAir env i (rolledW env p w)).mode, (putOnAir env i (rolledW env p w)).ch.ctl.switch with
      | .returning, some s => if (w.player p).endF.all (fun t => decide (s.target < t)) then
          issueStop env p s.target (putOnAir env i (rolledW env p w)) else putOnAir env i (rolledW env p w)
      | _, _ => putOnAir env i (rolledW env p w) := by
  unfold playerRoll
  dsimp only
  rw [hloaded]
  dsimp only
  rw [if_pos ⟨hstate, hroll⟩]
  rfl

/-- A player that rolls: its item on air, and nothing more but in RETURNING, where it may be sent a STOP. -/
theorem playerRoll_cases {i : Item} (hstate : (w.player p).state = .cued) (hroll : (w.player p).roll = some env.now)
    (hloaded : (w.player p).loaded = some i) : playerRoll env p w = putOnAir env i (rolledW env p w) ∨
      w.ch.ctl.mode = .returning ∧ ∃ f, playerRoll env p w = issueStop env p f (putOnAir env i (rolledW env p w)) := by
  have hdue := playerRoll_due hstate hroll hloaded
  have hmode : (putOnAir env i (rolledW env p w)).mode = w.ch.ctl.mode := by
    obtain ⟨hm, -⟩ := rule_ctl (putOnAir_rule env i (rolledW env p w))
    exact hm
  split at hdue
  case h_1 s hreturning hswitch =>
    split at hdue
    · exact Or.inr ⟨hmode.symm.trans hreturning, s.target, hdue⟩
    · exact Or.inl hdue
  case h_2 => exact Or.inl hdue

theorem playerRoll_spec {i : Item} (hstate : (w.player p).state = .cued) (hroll : (w.player p).roll = some env.now)
    (hloaded : (w.player p).loaded = some i) :
    (w.ch.ctl.mode ≠ .returning → ((playerRoll env p w).player p).state = .playing) ∧
      ∃ o, (playerRoll env p w).ch.seq.onAir = some o ∧ o.item = { i with onAirStart := some env.now } ∧ o.framesIn = 0 ∧
        o.fillMark = (i.isPass && i.fillDue) := by
  have hair : (putOnAir env i (rolledW env p w)).ch.seq.onAir = some ((leaveAir env (rolledW env p w)).ch.airing env i) := by
    rw [putOnAir_seq]
  rcases playerRoll_cases hstate hroll hloaded with h | ⟨hreturning, f, h⟩
  · refine ⟨fun _ => ?_, (leaveAir env (rolledW env p w)).ch.airing env i, by rw [h]; exact hair, rfl, rfl, rfl⟩
    rw [h, hands_player (putOnAir_hands env i (rolledW env p w)) p, rolledW_player]
  · refine ⟨fun hnot => absurd hreturning hnot, (leaveAir env (rolledW env p w)).ch.airing env i, ?_, rfl, rfl, rfl⟩
    rw [h]
    exact (issueStop_serves env p f (W.Serves.refl _)).air.trans hair

/-- What leaves the air as a player leaves its item. -/
def leftBy (env : Env) (p : PlayerId) (w : W) : W := if w.ch.carries p then leaveAir env w else w

theorem leftBy_air (env : Env) (p : PlayerId) (w : W) :
    (w.ch.carries p = true → (leftBy env p w).ch.seq.onAir = none) ∧
      (w.ch.carries p = false → (leftBy env p w).ch.seq.onAir = w.ch.seq.onAir) := by
  unfold leftBy
  refine ⟨fun h => ?_, fun h => ?_⟩
  · rw [if_pos h, leaveAir_seq]
  · rw [if_neg (by simp [h])]

theorem modPlayer_air (w : W) (p : PlayerId) (f : Player → Player) : (w.modPlayer p f).ch.seq.onAir = w.ch.seq.onAir :=
  (modPlayer_serves p f (W.Serves.refl w)).air

theorem playerEnd_spec (hstate : (w.player p).state = .playing) (hend : (w.player p).endF = some env.now)
    (hstop : (w.player p).stopF ≠ some env.now) :
    ((playerEnd env p w).player p).state = .idle ∧ ((playerEnd env p w).player p).loaded = none ∧
      (w.ch.carries p = true → (playerEnd env p w).ch.seq.onAir = none) ∧
      (w.ch.carries p = false → (playerEnd env p w).ch.seq.onAir = w.ch.seq.onAir) := by
  have hdue : playerEnd env p w = clearCue p .idle (leftBy env p w) := if_pos ⟨hstate, hend, hstop⟩
  obtain ⟨hleaves, hstays⟩ := leftBy_air env p w
  rw [hdue]
  refine ⟨?_, ?_, fun h => ?_, fun h => ?_⟩
  · rw [clearCue, W.modPlayer_player]
  · rw [clearCue, W.modPlayer_player]
  · rw [clearCue, modPlayer_air, hleaves h]
  · rw [clearCue, modPlayer_air, hstays h]

theorem stopFrame_spec (hstate : (w.player p).state = .playing ∨ (w.player p).state = .cued ∨ (w.player p).state = .cueing)
    (hstop : (w.player p).stopF = some env.now) :
    ((stopFrame env p w).player p).state = (if (w.player p).stopConfirmed then .idle else .stopping) ∧
      ((stopFrame env p w).player p).loaded = none ∧ (w.ch.carries p = true → (stopFrame env p w).ch.seq.onAir = none) := by
  obtain ⟨u, hu⟩ : ∃ u, u = if (w.player p).state = .playing then leftBy env p w
    else (leftBy env p w).modSeq fun q => { q with cued := q.cued.filter fun i => decide (i.player ≠ some p) } := ⟨_, rfl⟩
  have hdue : stopFrame env p w = if (w.player p).stopConfirmed then clearCue p .idle u
      else u.modPlayer p fun x => { x with state := .stopping, loaded := none, roll := none, endF := none } := by
    rw [hu]; exact if_pos ⟨hstop, hstate⟩
  have hair : w.ch.carries p = true → u.ch.seq.onAir = none := fun h => by
    rw [hu]
    split <;> exact (leftBy_air env p w).1 h
  rw [hdue]
  cases (w.player p).stopConfirmed with
  | true =>
    simp only [if_true, clearCue]
    exact ⟨by rw [W.modPlayer_player], by rw [W.modPlayer_player], fun h => by rw [modPlayer_air, hair h]⟩
  | false =>
    simp only [Bool.false_eq_true, if_false]
    exact ⟨by rw [W.modPlayer_player], by rw [W.modPlayer_player], fun h => by rw [modPlayer_air, hair h]⟩

end Boundary

/-- Settles O30: what each of the three frames leaves of the player and of the air, and how a STOP is queued. -/
theorem playersRollEndAndStop : Obligations.PlayersRollEndAndStop := by
  unfold Obligations.PlayersRollEndAndStop
  refine ⟨fun env p frame w x y hx hy => ⟨fun a b tag old hstop hqueue hnewest => ?_, fun hnot hroom => ?_⟩,
    fun c p x s now hpow hx hnow => ⟨fun i w hstate hroll hloaded hw => ?_, fun w hstate hend hstop hw => ?_,
      fun w hstate hstop hw => ?_⟩⟩
  · rw [hy, hx]
    rw [hx] at hstop hqueue
    exact issueStop_moves hstop hqueue hnewest
  · rw [hx] at hnot hroom
    have hown : (w.player p).ownStopQueued = false := by
      rw [← Bool.not_eq_true, ownStopQueued_iff]
      rintro ⟨hsome, q, hq, hstop⟩
      rcases hnot with h | h
      · rw [h] at hsome; cases hsome
      · rw [h q hq] at hstop; cases hstop
    refine ⟨fun hflight => ?_, fun hflight hqueue => ?_⟩
    · rw [hy, hx]
      rw [hx] at hflight
      exact issueStop_waits hown hroom hflight
    · rw [hx] at hflight hqueue
      rw [hy, hx, issueStop_sent hown hqueue hflight]
      exact ⟨rfl, hqueue, rfl, rfl, rfl, rfl⟩
  · rw [hx] at hstate hroll hloaded
    rw [hnow] at hroll ⊢
    rw [hw]
    obtain ⟨hplaying, hair⟩ := playerRoll_spec (env := envOf s c) (w := begun s c) hstate hroll hloaded
    exact ⟨congrArg Host.Outcome.next (live_on hpow), hplaying, hair⟩
  · rw [hx] at hstate hend hstop
    rw [hnow] at hend hstop
    rw [hw]
    exact ⟨congrArg Host.Outcome.next (live_on hpow), playerEnd_spec (env := envOf s c) (w := begun s c) hstate hend hstop⟩
  · rw [hx] at hstate hstop
    rw [hnow] at hstop
    rw [hw, hx]
    exact ⟨congrArg Host.Outcome.next (live_on hpow), stopFrame_spec (env := envOf s c) (w := begun s c) hstate hstop⟩

end Sys2Proof.Machine

/-! PROOFS. Items that are lost whole (R112): the item at the pointer, the landing, and the break-in clip (R150). -/

namespace Sys2Proof.Machine

open Sys2Proof

/-! ## What was filled -/

/-- The frames of an event's pass were filled. -/
def Chan.filled (event pass : Nat) (c : Chan) : Prop := ∃ x ∈ c.seq.spent, x.event = event ∧ x.pass = pass

section Lost

variable {env : Env} {edge : Frame} {v w : W}

theorem W.Lasts.filled {event pass : Nat} (h : v.Lasts w) (hv : v.ch.filled event pass) : w.ch.filled event pass := by
  obtain ⟨x, hx, hnamed⟩ := hv
  exact ⟨x, h.spent.subset hx, hnamed⟩

theorem addSpent_filled (i : Item) (due : Option (Frame × Frame)) (w : W) : (w.addSpent i due).ch.filled i.event i.pass :=
  ⟨_, List.mem_append_right _ List.mem_cons_self, rfl, rfl⟩

theorem loseWhole_filled (env : Env) (i : Item) (w : W) : (loseWhole env i w).ch.filled i.event i.pass := by
  unfold loseWhole
  dsimp only
  split <;> exact addSpent_filled ..

/-! ## One item is lost -/

theorem breakLost_clip {i : Item} (hclip : w.ch.seq.breakClip = some i) (hkind : i.kind = .brk) (hplayer : i.player = none)
    (hend : i.endsAfter edge = false) : breakLost edge w = some (w.modSeq fun q => { q with breakClip := some i.absent }) := by
  unfold breakLost
  rw [hclip]
  exact if_pos (by simp [hkind, Item.lostBy, hplayer, hend])

theorem breakLost_none (h : ∀ i, w.ch.seq.breakClip = some i → i.kind ≠ .brk) : breakLost edge w = none := by
  unfold breakLost
  split
  · rename_i i hi
    exact if_neg (by simp [h i hi])
  · rfl

/-- A break-in clip that is lost leaves every other slot. -/
theorem breakLost_some {x : W} (h : breakLost edge w = some x) :
    ∃ i : Item, x = w.modSeq (fun q => { q with breakClip := some i.absent }) := by
  unfold breakLost at h
  split at h
  · split at h
    · exact ⟨_, (Option.some.inj h).symm⟩
    · cases h
  · cases h

theorem itemLostOnce_break {x : W} (h : breakLost (env.now + env.cp.lead) w = some x) : itemLostOnce env w = some x := by
  unfold itemLostOnce
  dsimp only
  rw [h]

theorem itemLostOnce_landing {l : Landing} (hbreak : breakLost (env.now + env.cp.lead) w = none) (hl : w.ch.seq.landing = some l)
    (hkind : l.item.kind = .pass) (hplayer : l.item.player = none) (hend : l.item.endsAfter (env.now + env.cp.lead) = false) :
    itemLostOnce env w = some (takePointer env (loseWhole env l.item (w.modLanding Item.absent))) := by
  have hlost : landingLost env (env.now + env.cp.lead) w =
      some (takePointer env (loseWhole env l.item (w.modLanding Item.absent))) := by
    unfold landingLost
    rw [hl]
    exact if_pos (by simp [Item.isPass, hkind, Item.lostBy, hplayer, hend])
  unfold itemLostOnce
  dsimp only
  rw [hbreak, hlost]

theorem landingLost_none (h : w.ch.seq.landing = none) : landingLost env edge w = none := by
  unfold landingLost
  rw [h]

theorem nextToCue_free {c : Chan} (hl : c.landingUncued = false) (hcued : c.seq.cued = none) : c.nextToCue = c.seq.preroll :=
  if_neg (by rw [hcued, hl]; simp)

theorem landingUncued_none {c : Chan} (h : c.seq.landing = none) : c.landingUncued = false := by
  unfold Chan.landingUncued
  rw [h]

theorem itemLostOnce_pointer {i : Item} (hbreak : breakLost (env.now + env.cp.lead) w = none) (hl : w.ch.seq.landing = none)
    (hcued : w.ch.seq.cued = none) (hpre : w.ch.seq.preroll = some i) (hend : i.endsAfter (env.now + env.cp.lead) = false)
    (hactive : w.ch.active = true) (hpending : w.ch.ctl.pendingBreak = none) (hmode : w.ch.ctl.mode ≠ .breakIn) :
    itemLostOnce env w = some (takePointer env (loseWhole env i (w.modSeq fun q => { q with preroll := none }))) := by
  have hmode : w.mode ≠ .breakIn := hmode
  have hlost : pointerLost env (env.now + env.cp.lead) w =
      some (takePointer env (loseWhole env i (w.modSeq fun q => { q with preroll := none }))) := by
    unfold pointerLost
    rw [nextToCue_free (landingUncued_none hl) hcued, hpre]
    exact if_pos (by simp [hend, hactive, hpending, hmode])
  unfold itemLostOnce
  dsimp only
  rw [hbreak, landingLost_none hl]
  exact hlost

/-- Where a break-in is pending or on air, the item at the pointer is not lost. -/
theorem pointerLost_none (h : w.ch.ctl.mode = .breakIn ∨ w.ch.ctl.pendingBreak.isSome = true) : pointerLost env edge w = none := by
  have hnot : ∀ i : Item, (!i.endsAfter edge && w.ch.active && w.ch.ctl.pendingBreak.isNone && decide (w.mode ≠ .breakIn)) = false := by
    intro i
    rcases h with h | h
    · have hm : w.mode = .breakIn := h
      simp [hm]
    · have hnone : w.ch.ctl.pendingBreak.isNone = false := by rw [← Option.not_isSome, h]; rfl
      simp [hnone]
  unfold pointerLost
  split
  · rename_i i hi
    exact if_neg (by rw [hnot i]; exact Bool.false_ne_true)
  · rfl

/-! ## Every item that is lost -/

theorem loseItems_step {x : W} (n : Nat) (h : itemLostOnce env w = some x) : loseItems env (n + 1) w = loseItems env n x := by
  rw [loseItems, h]

theorem loseItems_done (n : Nat) (h : itemLostOnce env w = none) : loseItems env n w = w := by
  cases n with
  | zero => rfl
  | succ n => rw [loseItems, h]

/-- An item is lost with its period, before it or after a break-in clip that is lost. -/
theorem itemLost_filled {event pass : Nat}
    (h : ∀ v : W, (v = w ∨ ∃ i : Item, v = w.modSeq fun q => { q with breakClip := some i.absent }) →
      breakLost (env.now + env.cp.lead) v = none → ∃ x, itemLostOnce env v = some x ∧ x.ch.filled event pass) :
    (itemLost env w).ch.filled event pass := by
  have hitems : (loseItems env (w.ch.items.length + 3) w).ch.filled event pass := by
    cases hbreak : breakLost (env.now + env.cp.lead) w with
    | none =>
      obtain ⟨x, hx, hfilled⟩ := h w (Or.inl rfl) hbreak
      rw [loseItems_step _ hx]
      exact (loseItems_serves env _ (W.Serves.refl x)).toLasts.filled hfilled
    | some v =>
      obtain ⟨i, hv⟩ := breakLost_some hbreak
      have hnone : breakLost (env.now + env.cp.lead) v = none :=
        breakLost_none fun j hj => by rw [hv] at hj; cases hj; simp [Item.absent]
      obtain ⟨x, hx, hfilled⟩ := h v (Or.inr ⟨i, hv⟩) hnone
      rw [loseItems_step _ (itemLostOnce_break hbreak), loseItems_step _ hx]
      exact (loseItems_serves env _ (W.Serves.refl x)).toLasts.filled hfilled
  unfold itemLost
  dsimp only
  split
  · split
    · exact (nextOnAir_lasts env (W.Lasts.refl _)).filled hitems
    · exact hitems
  · exact hitems

/-! ## The break-in clip stands -/

theorem takePointer_clip (env : Env) (w : W) : (takePointer env w).ch.seq.breakClip = w.ch.seq.breakClip := by
  unfold takePointer
  dsimp only
  split
  · rfl
  · split <;> rfl

theorem loseWhole_clip (env : Env) (i : Item) (w : W) : (loseWhole env i w).ch.seq.breakClip = w.ch.seq.breakClip := by
  unfold loseWhole
  dsimp only
  split
  · show (w.itemRecord env .itemLate i.event i.pass (w.ch.offsetAt i i.start) .fill _).ch.seq.breakClip = _
    rw [itemRecord_ch]
  · rfl

/-- Once the clip is fill, the other items that are lost leave it. -/
theorem itemLostOnce_clip {x : W} (hclip : ∀ i, w.ch.seq.breakClip = some i → i.kind ≠ .brk) (h : itemLostOnce env w = some x) :
    x.ch.seq.breakClip = w.ch.seq.breakClip := by
  unfold itemLostOnce at h
  dsimp only at h
  rw [breakLost_none hclip] at h
  dsimp only at h
  cases hland : landingLost env (env.now + env.cp.lead) w with
  | some u =>
    rw [hland] at h
    cases h
    unfold landingLost at hland
    split at hland
    · split at hland
      · cases hland
        rw [takePointer_clip, loseWhole_clip]
        rfl
      · cases hland
    · cases hland
  | none =>
    rw [hland] at h
    dsimp only at h
    unfold pointerLost at h
    split at h
    · split at h
      · cases h
        rw [takePointer_clip, loseWhole_clip]
        rfl
      · cases h
    · cases h

theorem loseItems_clip (n : Nat) (hclip : ∀ i, w.ch.seq.breakClip = some i → i.kind ≠ .brk) :
    (loseItems env n w).ch.seq.breakClip = w.ch.seq.breakClip := by
  induction n generalizing w with
  | zero => rfl
  | succ n ih =>
    unfold loseItems
    split
    · rename_i x hx
      have hone := itemLostOnce_clip hclip hx
      rw [ih (by rw [hone]; exact hclip), hone]
    · rfl

theorem putOnAir_clip (env : Env) (i : Item) (w : W) : (putOnAir env i w).ch.seq.breakClip = w.ch.seq.breakClip := by
  rw [putOnAir_seq]

theorem putWait_clip (env : Env) (i : Option Item) (w : W) : (putWait env i w).ch.seq.breakClip = w.ch.seq.breakClip := by
  unfold putWait
  dsimp only
  split
  · split
    · rfl
    · exact putOnAir_clip ..
  · exact putOnAir_clip ..

theorem nextBreak_clip (env : Env) (w : W) : (nextBreak env w).ch.seq.breakClip = w.ch.seq.breakClip := by
  have hclip : ∀ b : Item, (if b.kind = .brk then putWait env none w else putOnAir env { b with start := env.now } w).ch.seq.breakClip =
      w.ch.seq.breakClip := fun b => by
    split
    · exact putWait_clip ..
    · exact putOnAir_clip ..
  unfold nextBreak
  split
  · split
    · split
      · rfl
      · exact hclip _
    · exact hclip _
  · split
    · rfl
    · exact putOnAir_clip ..

theorem nextItem_clip (env : Env) (w : W) : (nextItem env w).ch.seq.breakClip = w.ch.seq.breakClip := by
  have hput : (if (w.ch.itemAt env.now).isPass then putWait env (some (w.ch.dueItem (w.ch.itemAt env.now))) w
      else putOnAir env (w.ch.itemAt env.now) w).ch.seq.breakClip = w.ch.seq.breakClip := by
    split
    · exact putWait_clip ..
    · exact putOnAir_clip ..
  unfold nextItem
  dsimp only
  split
  · exact hput
  · split
    · exact hput
    · split
      · rfl
      · exact hput
    · split
      · rfl
      · exact hput
    · rfl

theorem landNow_clip {l : Landing} (hl : w.ch.seq.landing = some l) (hfill : l.item.isPass = false) :
    (landNow env l w).ch.seq.breakClip = w.ch.seq.breakClip := by
  have hover : (landingOver env w).ch.seq.breakClip = w.ch.seq.breakClip := by
    unfold landingOver
    rw [hl]
    dsimp only
    rw [if_neg (by simp [hfill]), dropOwner_seq]
    rfl
  unfold landNow
  split
  · rename_i x hx
    unfold landPlaying at hx
    split at hx
    · split at hx
      · split at hx
        · cases hx
          exact putOnAir_clip ..
        · cases hx
      · cases hx
    · cases hx
  · split
    · rw [nextItem_clip, hover]
    · rw [if_neg (by simp [hfill])]
      exact putOnAir_clip ..

/-- What goes on air where a WAIT item waits in vain leaves the break-in clip. -/
theorem nextOnAir_clip (h : w.ch.ctl.mode ≠ .breakIn → ∀ l, w.ch.seq.landing = some l → l.item.isPass = false) :
    (nextOnAir env w).ch.seq.breakClip = w.ch.seq.breakClip := by
  unfold nextOnAir
  split
  · rfl
  · split
    · exact nextBreak_clip ..
    · rename_i hmode
      split
      · rename_i l hl
        split
        · rfl
        · exact landNow_clip hl (h hmode l hl)
      · exact nextItem_clip ..

/-- A break-in clip that is lost whole is ABSENT fill when the period's lost items are dealt with. -/
theorem itemLost_clip {i : Item} (hclip : w.ch.seq.breakClip = some i) (hkind : i.kind = .brk) (hplayer : i.player = none)
    (hend : i.endsAfter (env.now + env.cp.lead) = false) : (itemLost env w).ch.seq.breakClip = some i.absent := by
  obtain ⟨u, hu⟩ : ∃ u, u = w.modSeq fun q => { q with breakClip := some i.absent } := ⟨_, rfl⟩
  have hfill : ∀ j, u.ch.seq.breakClip = some j → j.kind ≠ .brk := fun j hj => by rw [hu] at hj; cases hj; simp [Item.absent]
  have hitems : (loseItems env (w.ch.items.length + 3) w).ch.seq.breakClip = some i.absent := by
    rw [loseItems_step _ (itemLostOnce_break (breakLost_clip hclip hkind hplayer hend)), ← hu, loseItems_clip _ hfill, hu]
    rfl
  unfold itemLost
  dsimp only
  split
  · split
    · rename_i hwaits
      rw [nextOnAir_clip (waitsInVain_landing hwaits.2), hitems]
    · exact hitems
  · exact hitems

/-- With no landing, in or before a break-in, nothing else is lost with the clip. -/
theorem itemLost_clip_only {i : Item} (hclip : w.ch.seq.breakClip = some i) (hkind : i.kind = .brk) (hplayer : i.player = none)
    (hend : i.endsAfter (env.now + env.cp.lead) = false) (hl : w.ch.seq.landing = none)
    (hbreak : w.ch.ctl.mode = .breakIn ∨ w.ch.ctl.pendingBreak.isSome = true)
    (hair : ∀ o, w.ch.seq.onAir = some o → o.item.kind ≠ .fill .wait) :
    itemLost env w = w.modSeq fun q => { q with breakClip := some i.absent } := by
  obtain ⟨u, hu⟩ : ∃ u, u = w.modSeq fun q => { q with breakClip := some i.absent } := ⟨_, rfl⟩
  have hnone : itemLostOnce env u = none := by
    have hgone : breakLost (env.now + env.cp.lead) u = none :=
      breakLost_none fun j hj => by rw [hu] at hj; cases hj; simp [Item.absent]
    unfold itemLostOnce
    dsimp only
    rw [hgone, landingLost_none (by rw [hu]; exact hl)]
    exact pointerLost_none (by rw [hu]; exact hbreak)
  have hitems : loseItems env (w.ch.items.length + 3) w = u := by
    rw [loseItems_step _ (itemLostOnce_break (breakLost_clip hclip hkind hplayer hend)), ← hu, loseItems_done _ hnone]
  rw [← hu]
  unfold itemLost
  dsimp only
  rw [hitems]
  split
  · rename_i o ho
    exact if_neg fun hwaits => hair o (by rw [hu] at ho; exact ho) hwaits.1
  · rfl

end Lost

/-! ## The statement -/

theorem syncLife_filled {event pass : Nat} {w : W} (h : w.ch.filled event pass) : (syncLife w).ch.filled event pass :=
  (syncLife_stages (W.Stages.refl w)).toLasts.filled h

theorem syncLife_clip (w : W) : (syncLife w).ch.seq.breakClip = w.ch.seq.breakClip := by
  have hwait : (syncWait w).ch.seq.breakClip = w.ch.seq.breakClip := by
    unfold syncWait
    split
    · split <;> rfl
    · rfl
  exact hwait

theorem syncLife_fx (w : W) : (syncLife w).fx = w.fx := by
  have hwait : (syncWait w).fx = w.fx := by
    unfold syncWait
    split
    · split <;> rfl
    · rfl
  exact hwait

/-- What holds of an operation's channel, with or without the lifecycles that follow it. -/
theorem followed_prop {P : W → Prop} {after op : Env → W → W} {env : Env} {w : W} (h : P (op env w)) (hafter : ∀ v, P v → P (after env v)) :
    P (followed after op env w) := by
  unfold followed
  dsimp only
  split
  · exact h
  · exact hafter _ h

section Event

variable {c : Ch} {s : State}

theorem itemLost_event (hpow : s.powered = true) : ∃ t, exec (.itemLost c) s = .next t ∧ Within c s t ∧
    t.chans[c] = (ranCh c (followed (fun _ => syncLife) itemLost) s).ch :=
  monitor_event rfl hpow (followed_rest _ _ (fun v => syncLife_rest v) (rest_of_base (itemLost_base ..)))

theorem itemLost_event_filled {event pass : Nat} (hpow : s.powered = true)
    (h : (itemLost (envOf s c) (begun s c)).ch.filled event pass) :
    ∃ t, exec (.itemLost c) s = .next t ∧ Within c s t ∧ ∃ x ∈ t.chans[c].seq.spent, x.event = event ∧ x.pass = pass := by
  obtain ⟨t, hexec, hwithin, hchan⟩ := itemLost_event (c := c) hpow
  refine ⟨t, hexec, hwithin, ?_⟩
  rw [hchan]
  exact followed_prop (P := fun v => v.ch.filled event pass) h fun v hv => syncLife_filled hv

end Event

/-- Settles O29: each item is lost at its turn, and what was filled stays filled. -/
theorem itemsAreLostWhole : Obligations.ItemsAreLostWhole := by
  unfold Obligations.ItemsAreLostWhole
  refine ⟨fun c i s hpow hl hcued hpre hend hactive hpending hmode => ?_, fun c l s hpow hl hkind hplayer hend => ?_,
    fun c i s hpow hclip hkind hplayer hend => ?_⟩
  · refine itemLost_event_filled hpow (itemLost_filled fun v hv hbreak => ?_)
    have hfilled : ∀ u : W, (takePointer (envOf s c) (loseWhole (envOf s c) i u)).ch.filled i.event i.pass := fun u =>
      (takePointer_serves _ (W.Serves.refl _)).toLasts.filled (loseWhole_filled ..)
    rcases hv with rfl | ⟨j, rfl⟩ <;>
      exact ⟨_, itemLostOnce_pointer hbreak hl hcued hpre hend hactive hpending hmode, hfilled _⟩
  · refine itemLost_event_filled hpow (itemLost_filled fun v hv hbreak => ?_)
    have hfilled : ∀ u : W, (takePointer (envOf s c) (loseWhole (envOf s c) l.item u)).ch.filled l.item.event l.item.pass := fun u =>
      (takePointer_serves _ (W.Serves.refl _)).toLasts.filled (loseWhole_filled ..)
    rcases hv with rfl | ⟨j, rfl⟩ <;>
      exact ⟨_, itemLostOnce_landing hbreak hl hkind hplayer hend, hfilled _⟩
  · obtain ⟨t, hexec, hwithin, hchan⟩ := itemLost_event (c := c) hpow
    have hlost := itemLost_clip (env := envOf s c) (w := begun s c) hclip hkind hplayer hend
    refine ⟨t, hexec, hwithin, ?_, fun hl hbreak hair => ?_⟩
    · rw [hchan]
      exact followed_prop (P := fun v => v.ch.seq.breakClip = some i.absent) hlost fun v hv => (syncLife_clip v).trans hv
    · have honly := itemLost_clip_only (env := envOf s c) (w := begun s c) hclip hkind hplayer hend hl hbreak hair
      have hfx : (ranCh c (followed (fun _ => syncLife) itemLost) s).fx = [] :=
        followed_prop (P := fun v => v.fx = []) (by rw [honly]; rfl) fun v hv => (syncLife_fx v).trans hv
      have ht : t = runCh c (followed (fun _ => syncLife) itemLost) s :=
        Host.Outcome.next.inj (hexec.symm.trans (congrArg Host.Outcome.next (live_on hpow)))
      have hrun : runCh c (followed (fun _ => syncLife) itemLost) s =
          (ranCh c (followed (fun _ => syncLife) itemLost) s).fx.foldl (applyEffect c)
            (s.setCh c (ranCh c (followed (fun _ => syncLife) itemLost) s).ch) := rfl
      rw [ht, hrun, hfx]
      rfl

end Sys2Proof.Machine

/-! PROOFS. Cues that are issued (R102, R105, R106, R112, R114): what a cue leaves of the player and of the slots, with room in the
player's queue and without. -/

namespace Sys2Proof.Machine

open Sys2Proof

/-! ## The slots that hold items -/

/-- The landing, the cued item and the break-in clip. -/
def W.stands (w : W) : Option Landing × Option Item × Option Item := (w.ch.seq.landing, w.ch.seq.cued, w.ch.seq.breakClip)

section Slots

variable {env : Env} {p q : PlayerId} {v w : W}

theorem stands_of_seq (h : v.ch.seq = w.ch.seq) : v.stands = w.stands := by
  unfold W.stands
  rw [h]

theorem modPlayer_stands (w : W) (p : PlayerId) (f : Player → Player) : (w.modPlayer p f).stands = w.stands := by cases p <;> rfl

theorem modPlayer_preroll (w : W) (p : PlayerId) (f : Player → Player) :
    (w.modPlayer p f).ch.seq.preroll = w.ch.seq.preroll := by cases p <;> rfl

theorem emit_stands (e : Effect) (w : W) : (w.emit e).stands = w.stands := rfl

theorem takePointer_stands (env : Env) (w : W) : (takePointer env w).stands = w.stands := by
  unfold takePointer
  dsimp only
  split
  · rfl
  · split <;> rfl

theorem judgeItem_stands (env : Env) (it : Item) (aired : Frame) (w : W) : (judgeItem env it aired w).stands = w.stands :=
  stands_of_seq (judgeTriggers_seq ..)

theorem syncLife_stands (w : W) : (syncLife w).stands = w.stands := by
  have hwait : (syncWait w).stands = w.stands := by
    unfold syncWait
    split
    · split <;> rfl
    · rfl
  exact hwait

theorem loseWhole_stands (env : Env) (i : Item) (w : W) : (loseWhole env i w).stands = w.stands := by
  unfold loseWhole
  dsimp only
  split
  · exact stands_of_seq (w := w) (v := w.itemRecord env .itemLate i.event i.pass (w.ch.offsetAt i i.start) .fill _)
      (congrArg Chan.seq (itemRecord_ch ..))
  · rfl

theorem stands_cued {a : Option Landing} {b d : Option Item} (h : w.stands = (a, b, d)) :
    w.ch.seq.landing = a ∧ w.ch.seq.cued = b ∧ w.ch.seq.breakClip = d := by
  unfold W.stands at h
  simpa only [Prod.mk.injEq] using h

/-! ## Requests do not move the slots -/

/-- What a request changes: neither the slots, nor the pointer, nor what the player holds. -/
theorem sendNext_slots (env : Env) (p : PlayerId) (w : W) : (sendNext env p w).stands = w.stands ∧
    (sendNext env p w).ch.seq.preroll = w.ch.seq.preroll ∧ ((sendNext env p w).player p).hold = (w.player p).hold := by
  unfold sendNext
  dsimp only
  split
  · exact ⟨by rw [emit_stands, modPlayer_stands], by rw [W.emit_ch, modPlayer_preroll],
      by rw [emit_player, W.modPlayer_player]; rfl⟩
  · exact ⟨rfl, rfl, rfl⟩

theorem submit_slots (env : Env) (p : PlayerId) (r : PReq) (w : W) : (submit env p r w).stands = w.stands ∧
    (submit env p r w).ch.seq.preroll = w.ch.seq.preroll ∧ ((submit env p r w).player p).hold = (w.player p).hold := by
  obtain ⟨hstands, hpreroll, hhold⟩ := sendNext_slots env p
    (w.modPlayer p fun x => { x with queue := insertReq (x.tags, r) x.queue, tags := (x.tags + 1) % two16 })
  exact ⟨hstands.trans (modPlayer_stands ..), hpreroll.trans (modPlayer_preroll ..),
    hhold.trans (by rw [W.modPlayer_player]; rfl)⟩

theorem makeRoom_slots (p : PlayerId) (w : W) : (makeRoom p w).stands = w.stands ∧
    (makeRoom p w).ch.seq.preroll = w.ch.seq.preroll ∧ ((makeRoom p w).player p).hold = (w.player p).hold := by
  unfold makeRoom
  split
  · exact ⟨rfl, rfl, rfl⟩
  · exact ⟨modPlayer_stands .., modPlayer_preroll .., by rw [W.modPlayer_player]; rfl⟩

/-! ## A cue is issued (R105, R106) -/

/-- The player holds a cue for the item, to roll at the frame. -/
def W.cuesOn (p : PlayerId) (i : Item) (roll : Frame) (w : W) : Prop :=
  (w.player p).state = .cueing ∧ (w.player p).loaded = some i ∧ (w.player p).roll = some roll ∧ (w.player p).endF = i.stop

/-- The player holds nothing. -/
def W.idleOn (p : PlayerId) (w : W) : Prop := (w.player p).state = .idle ∧ (w.player p).loaded = none

theorem cuesOn_of_hold {i : Item} {roll : Frame} (h : (v.player p).hold = (w.player p).hold) (hw : w.cuesOn p i roll) :
    v.cuesOn p i roll := by
  obtain ⟨hstate, hloaded, hroll, hend⟩ := hw
  unfold Player.hold at h
  simp only [Prod.mk.injEq] at h
  obtain ⟨h1, h2, h3, h4, -⟩ := h
  exact ⟨h1.trans hstate, h2.trans hloaded, h3.trans hroll, h4.trans hend⟩

theorem cuesOn_of_hands {i : Item} {roll : Frame} (h : v.hands = w.hands) (hw : w.cuesOn p i roll) : v.cuesOn p i roll :=
  cuesOn_of_hold (by rw [hands_player h p]) hw

theorem idleOn_of_hands (h : v.hands = w.hands) (hw : w.idleOn p) : v.idleOn p := by
  unfold W.idleOn
  rw [hands_player h p]
  exact hw

theorem loadCue_room {i : Item} (handle : Nat) (roll : Frame) (hroom : hasRoom (w.player p) = true) :
    (loadCue env p i handle roll w).cuesOn p i roll ∧ (loadCue env p i handle roll w).stands = w.stands ∧
      (loadCue env p i handle roll w).ch.seq.preroll = w.ch.seq.preroll := by
  obtain ⟨u, hu⟩ : ∃ u, u = w.modPlayer p fun x =>
    { x with state := .cueing, loaded := some i, roll := some roll, endF := i.stop, stopF := none, stopConfirmed := false } := ⟨_, rfl⟩
  have hload : ∃ r, loadCue env p i handle roll w = submit env p r (makeRoom p u) := ⟨_, by rw [hu]; exact if_pos hroom⟩
  obtain ⟨r, hload⟩ := hload
  have hcues : u.cuesOn p i roll := by
    unfold W.cuesOn
    rw [hu, W.modPlayer_player]
    exact ⟨rfl, rfl, rfl, rfl⟩
  obtain ⟨hstands, hpreroll, hhold⟩ := submit_slots env p r (makeRoom p u)
  obtain ⟨hstands', hpreroll', hhold'⟩ := makeRoom_slots p u
  rw [hload]
  refine ⟨cuesOn_of_hold (hhold.trans hhold') hcues, ?_, ?_⟩
  · rw [hstands, hstands', hu, modPlayer_stands]
  · rw [hpreroll, hpreroll', hu, modPlayer_preroll]

/-- A cue for which the queue has no room: the item is returned by a player that holds nothing. -/
theorem loadCue_full {i : Item} (handle : Nat) (roll : Frame) (hroom : hasRoom (w.player p) = false) :
    ∃ u : W, loadCue env p i handle roll w = itemReturned p (some p) i u ∧ u.idleOn p ∧ u.stands = w.stands ∧
      u.ch.seq.preroll = w.ch.seq.preroll := by
  obtain ⟨x, hx⟩ : ∃ x, x = w.modPlayer p fun x =>
    { x with state := .cueing, loaded := some i, roll := some roll, endF := i.stop, stopF := none, stopConfirmed := false } := ⟨_, rfl⟩
  have hloaded : (x.player p).loaded = some i := by rw [hx, W.modPlayer_player]
  have hload : loadCue env p i handle roll w = failQueuedCue p x := by
    rw [hx]; exact if_neg (by rw [hroom]; exact Bool.false_ne_true)
  refine ⟨clearCue p .idle x, ?_, clearCue_player p .idle x, ?_, ?_⟩
  · rw [hload]
    unfold failQueuedCue
    dsimp only
    rw [hloaded]
  · rw [clearCue, modPlayer_stands, hx, modPlayer_stands]
  · rw [clearCue, modPlayer_preroll, hx, modPlayer_preroll]

theorem itemReturned_idle {i : Item} {avoid : Option PlayerId} (h : w.idleOn p) : (itemReturned q avoid i w).idleOn p :=
  idleOn_of_hands (itemReturned_hands ..) h

/-- Where a returned item goes: it leaves the cued slot, unless it is the landing or the break-in clip. -/
theorem itemReturned_stands {i : Item} {avoid : Option PlayerId} (hkind : i.kind ≠ .brk) (hnot : w.ch.isLanding p = false) :
    (itemReturned p avoid i w).stands =
      (w.ch.seq.landing, w.ch.seq.cued.filter (fun j => decide (j.player ≠ some p)), w.ch.seq.breakClip) := by
  have hseq := dropOwner_seq i w
  have hdrop : (w.dropOwner i).ch.isLanding p = false := by unfold Chan.isLanding; rw [hseq]; exact hnot
  unfold itemReturned itemAgain
  dsimp only
  rw [if_neg (show ¬ (i.released avoid).kind = .brk from hkind), if_neg (by rw [hdrop]; exact Bool.false_ne_true)]
  have hfilter : ((w.dropOwner i).ch.seq.landing, (w.dropOwner i).ch.seq.cued.filter (fun j => decide (j.player ≠ some p)),
      (w.dropOwner i).ch.seq.breakClip) =
      (w.ch.seq.landing, w.ch.seq.cued.filter (fun j => decide (j.player ≠ some p)), w.ch.seq.breakClip) := by rw [hseq]
  split <;> exact hfilter

/-- A landing that is returned stands uncued, or becomes fill. -/
theorem itemReturned_landing {i : Item} {avoid : Option PlayerId} (hkind : i.kind ≠ .brk) (his : w.ch.isLanding p = true) :
    (itemReturned p avoid i w).ch.seq.cued = w.ch.seq.cued ∧ (itemReturned p avoid i w).ch.seq.breakClip = w.ch.seq.breakClip ∧
      (∃ x, (itemReturned p avoid i w).ch.seq.landing = some x ∧ x.item.player = none) ∧
      ∀ j, (itemReturned p avoid i w).ch.seq.preroll = some j → j.kind = i.kind ∨ w.ch.seq.preroll = some j := by
  have hseq := dropOwner_seq i w
  have hdrop : (w.dropOwner i).ch.isLanding p = true := by unfold Chan.isLanding; rw [hseq]; exact his
  have hland : ∃ l, (w.dropOwner i).ch.seq.landing = some l := by
    unfold Chan.isLanding at hdrop
    cases hl : (w.dropOwner i).ch.seq.landing with
    | none => rw [hl] at hdrop; cases hdrop
    | some l => exact ⟨l, rfl⟩
  obtain ⟨l, hl⟩ := hland
  have hcued : (w.dropOwner i).ch.seq.cued = w.ch.seq.cued := congrArg Seq.cued hseq
  have hclip : (w.dropOwner i).ch.seq.breakClip = w.ch.seq.breakClip := congrArg Seq.breakClip hseq
  unfold itemReturned itemAgain
  dsimp only
  rw [if_neg (show ¬ (i.released avoid).kind = .brk from hkind), if_pos hdrop]
  split
  · refine ⟨hcued, hclip, ⟨{ l with item := i.released avoid }, ?_, rfl⟩, fun j hj => Or.inl ?_⟩
    · show ((w.dropOwner i).ch.seq.landing.map fun l => { l with item := i.released avoid }) = _
      rw [hl]; rfl
    · have hpre : (match (w.dropOwner i).ch.seq.landing with
          | some _ => some (i.released avoid)
          | none => (w.dropOwner i).ch.seq.preroll) = some j := hj
      rw [hl] at hpre
      cases hpre
      rfl
  · refine ⟨hcued, hclip, ⟨{ l with item := (i.released avoid).absent }, ?_, rfl⟩,
      fun j hj => Or.inr ?_⟩
    · show ((w.dropOwner i).ch.seq.landing.map fun l => { l with item := (i.released avoid).absent }) = _
      rw [hl]; rfl
    · exact (congrArg Seq.preroll hseq).symm.trans hj

/-- A break-in clip that is returned stands without a player, or becomes fill. -/
theorem itemReturned_break {i : Item} {avoid : Option PlayerId} (hkind : i.kind = .brk) :
    (itemReturned p avoid i w).ch.seq.preroll = w.ch.seq.preroll ∧
      ∃ j, (itemReturned p avoid i w).ch.seq.breakClip = some j ∧ j.player = none := by
  have hseq := dropOwner_seq i w
  have hpreroll : (w.dropOwner i).ch.seq.preroll = w.ch.seq.preroll := congrArg Seq.preroll hseq
  unfold itemReturned itemAgain
  dsimp only
  rw [if_pos (show (i.released avoid).kind = .brk from hkind)]
  refine ⟨hpreroll, _, rfl, ?_⟩
  split <;> rfl

/-! ## The item at the pointer (R105, R112) -/

theorem cuePreroll_eq {i : Item} {e : Event} {h : Nat × Bool} (he : w.ch.store.event i.event = some e) (hh : cueHandle e i = some h)
    (hend : i.endsAfter (rollFrame env i) = true) : cuePreroll env p i w =
      takePointer env (judgeItem env (i.cuedFor e p h) (rollFrame env i) (loadCue env p (i.cuedFor e p h) h.1 (rollFrame env i)
        (w.modSeq fun q => { q with cued := some (i.cuedFor e p h), preroll := none }))) := by
  unfold cuePreroll
  dsimp only
  rw [he]
  dsimp only
  rw [hh]
  dsimp only
  rw [if_neg (by rw [hend]; decide)]

theorem judged_hands (env : Env) (i : Item) (roll : Frame) (w : W) : (takePointer env (judgeItem env i roll w)).hands = w.hands := by
  rw [takePointer_hands, judgeItem_hands]

theorem judged_stands (env : Env) (i : Item) (roll : Frame) (w : W) : (takePointer env (judgeItem env i roll w)).stands = w.stands := by
  rw [takePointer_stands, judgeItem_stands]

theorem cuePreroll_room {i : Item} {e : Event} {h : Nat × Bool} (he : w.ch.store.event i.event = some e) (hh : cueHandle e i = some h)
    (hend : i.endsAfter (rollFrame env i) = true) (hroom : hasRoom (w.player p) = true) :
    (cuePreroll env p i w).cuesOn p (i.cuedFor e p h) (rollFrame env i) ∧
      (cuePreroll env p i w).ch.seq.cued = some (i.cuedFor e p h) := by
  obtain ⟨hcues, hstands, -⟩ := loadCue_room (env := env) (p := p) (i := i.cuedFor e p h) h.1 (rollFrame env i)
    (w := w.modSeq fun q => { q with cued := some (i.cuedFor e p h), preroll := none }) (by cases p <;> exact hroom)
  rw [cuePreroll_eq he hh hend]
  refine ⟨cuesOn_of_hands (judged_hands ..) hcues, ?_⟩
  obtain ⟨-, hcued, -⟩ := stands_cued ((judged_stands env (i.cuedFor e p h) (rollFrame env i) _).trans hstands)
  exact hcued

theorem cuePreroll_full {i : Item} {e : Event} {h : Nat × Bool} (hkind : i.kind ≠ .brk) (he : w.ch.store.event i.event = some e)
    (hh : cueHandle e i = some h) (hend : i.endsAfter (rollFrame env i) = true) (hroom : hasRoom (w.player p) = false)
    (hnot : w.ch.isLanding p = false) : (cuePreroll env p i w).idleOn p ∧ (cuePreroll env p i w).ch.seq.cued = none := by
  obtain ⟨u, hload, hidle, hstands, -⟩ := loadCue_full (env := env) (p := p) (i := i.cuedFor e p h) h.1 (rollFrame env i)
    (w := w.modSeq fun q => { q with cued := some (i.cuedFor e p h), preroll := none }) (by cases p <;> exact hroom)
  obtain ⟨hlanding, hcued, -⟩ := stands_cued hstands
  have hnotu : u.ch.isLanding p = false := by unfold Chan.isLanding; rw [hlanding]; exact hnot
  rw [cuePreroll_eq he hh hend, hload]
  refine ⟨idleOn_of_hands (judged_hands ..) (itemReturned_idle hidle), ?_⟩
  obtain ⟨-, hgone, -⟩ := stands_cued ((judged_stands env (i.cuedFor e p h) (rollFrame env i) _).trans
    (itemReturned_stands (i := i.cuedFor e p h) (avoid := some p) hkind hnotu))
  rw [hgone, hcued]
  exact Option.filter_some_neg (by simp [Item.cuedFor, Item.cuedOn])

/-- A cue of the item at the pointer leaves a landing that the player does not hold, and the break-in clip unless it is one. -/
theorem cuePreroll_stands (i : Item) : (w.ch.isLanding p = false → (cuePreroll env p i w).ch.seq.landing = w.ch.seq.landing) ∧
    (i.kind ≠ .brk → (cuePreroll env p i w).ch.seq.breakClip = w.ch.seq.breakClip) := by
  have hof : ∀ {x : W}, x.ch.seq.landing = w.ch.seq.landing ∧ x.ch.seq.breakClip = w.ch.seq.breakClip →
      (w.ch.isLanding p = false → x.ch.seq.landing = w.ch.seq.landing) ∧
        (i.kind ≠ .brk → x.ch.seq.breakClip = w.ch.seq.breakClip) := fun h => ⟨fun _ => h.1, fun _ => h.2⟩
  have hgone : ∀ due, (takePointer env (w.addSpent i due)).ch.seq.landing = w.ch.seq.landing ∧
      (takePointer env (w.addSpent i due)).ch.seq.breakClip = w.ch.seq.breakClip := fun due => by
    obtain ⟨hlanding, -, hclip⟩ := stands_cued (takePointer_stands env (w.addSpent i due))
    exact ⟨hlanding, hclip⟩
  cases he : w.ch.store.event i.event with
  | none =>
    unfold cuePreroll
    dsimp only
    rw [he]
    exact hof (hgone none)
  | some e =>
    cases hh : cueHandle e i with
    | none =>
      unfold cuePreroll
      dsimp only
      rw [he]
      dsimp only
      rw [hh]
      exact hof (hgone none)
    | some h =>
      cases hend : i.endsAfter (rollFrame env i) with
      | false =>
        obtain ⟨hlanding, -, hclip⟩ := stands_cued ((takePointer_stands env (loseWhole env i w)).trans (loseWhole_stands env i w))
        unfold cuePreroll
        dsimp only
        rw [he]
        dsimp only
        rw [hh]
        dsimp only
        rw [if_pos hend]
        exact hof ⟨hlanding, hclip⟩
      | true =>
        obtain ⟨u, hu⟩ : ∃ u, u = w.modSeq fun q => { q with cued := some (i.cuedFor e p h), preroll := none } := ⟨_, rfl⟩
        rw [cuePreroll_eq he hh hend, ← hu]
        obtain ⟨hlanding, -, hclip⟩ := stands_cued
          (judged_stands env (i.cuedFor e p h) (rollFrame env i) (loadCue env p (i.cuedFor e p h) h.1 (rollFrame env i) u))
        rw [hlanding, hclip]
        have huland : u.ch.seq.landing = w.ch.seq.landing ∧ u.ch.seq.breakClip = w.ch.seq.breakClip := by rw [hu]; exact ⟨rfl, rfl⟩
        cases hroom : hasRoom (u.player p) with
        | true =>
          obtain ⟨-, hstands, -⟩ := loadCue_room (env := env) (i := i.cuedFor e p h) h.1 (rollFrame env i) hroom
          obtain ⟨hl, -, hc⟩ := stands_cued hstands
          exact hof ⟨hl.trans huland.1, hc.trans huland.2⟩
        | false =>
          obtain ⟨x, hload, -, hstands, -⟩ := loadCue_full (env := env) (i := i.cuedFor e p h) h.1 (rollFrame env i) hroom
          obtain ⟨hl, -, hc⟩ := stands_cued hstands
          have hsame : x.ch.isLanding p = w.ch.isLanding p := by unfold Chan.isLanding; rw [hl, huland.1]
          rw [hload]
          by_cases hkind : i.kind = .brk
          · have hkept : (W.dropOwner (i.cuedFor e p h) x).ch.seq.landing = x.ch.seq.landing := congrArg Seq.landing (dropOwner_seq _ x)
            refine ⟨fun _ => ?_, fun hne => absurd hkind hne⟩
            unfold itemReturned itemAgain
            dsimp only
            rw [if_pos (show ((i.cuedFor e p h).released (some p)).kind = .brk from hkind)]
            exact hkept.trans (hl.trans huland.1)
          · cases his : x.ch.isLanding p with
            | false =>
              obtain ⟨hl', -, hc'⟩ := stands_cued (itemReturned_stands (i := i.cuedFor e p h) (avoid := some p) hkind his)
              exact hof ⟨hl'.trans (hl.trans huland.1), hc'.trans (hc.trans huland.2)⟩
            | true =>
              obtain ⟨-, hc', -⟩ := itemReturned_landing (i := i.cuedFor e p h) (avoid := some p) hkind his
              refine ⟨fun hnot => ?_, fun _ => hc'.trans (hc.trans huland.2)⟩
              rw [← hsame, his] at hnot
              cases hnot

/-! ## The landing (R114, R130) -/

theorem cueLanding_none (h : w.ch.seq.landing = none) : cueLanding env w = w := by
  unfold cueLanding
  rw [h]

theorem cueLanding_eq {l : Landing} {e : Event} {h : Nat × Bool} (hl : w.ch.seq.landing = some l) (hkind : l.item.kind = .pass)
    (hplayer : l.item.player = none) (hpending : w.ch.ctl.pendingBreak = none)
    (hreturn : w.ch.rollsBeforeReturn (rollFrame env l.item) = true) (hfree : w.ch.freePlayer l.item.avoid = some p)
    (he : w.ch.store.event l.item.event = some e) (hh : cueHandle e l.item = some h)
    (hend : l.item.endsAfter (rollFrame env l.item) = true) : cueLanding env w =
      takePointer env (judgeItem env (l.item.cuedFor e p h) (rollFrame env l.item) (loadCue env p (l.item.cuedFor e p h) h.1
        (rollFrame env l.item) ((w.modLanding fun _ => l.item.cuedFor e p h).modSeq fun q => { q with preroll := none }))) := by
  unfold cueLanding
  rw [hl]
  dsimp only
  rw [if_neg (by simp [Item.isPass, hkind, hplayer, hpending, hreturn]), hfree]
  dsimp only
  rw [he]
  dsimp only
  rw [hh]
  dsimp only
  rw [if_neg (by rw [hend]; decide)]

/-- The landing cued on a player. -/
def landedW (i : Item) (w : W) : W := (w.modLanding fun _ => i).modSeq fun q => { q with preroll := none }

theorem landedW_landing {l : Landing} (hl : w.ch.seq.landing = some l) (i : Item) :
    (landedW i w).ch.seq.landing = some { l with item := i } := by
  show (w.ch.seq.landing.map fun l => { l with item := i }) = _
  rw [hl]; rfl

theorem landedW_room (i : Item) : hasRoom ((landedW i w).player p) = hasRoom (w.player p) := by cases p <;> rfl

/-- The landing holds a cue, where the player's queue has room for it. -/
theorem loadLanding_room {l : Landing} {i : Item} {handle : Nat} {roll : Frame} (hl : w.ch.seq.landing = some l)
    (hroom : hasRoom (w.player p) = true) :
    (takePointer env (judgeItem env i roll (loadCue env p i handle roll (landedW i w)))).cuesOn p i roll ∧
      (takePointer env (judgeItem env i roll (loadCue env p i handle roll (landedW i w)))).ch.seq.landing = some { l with item := i } := by
  obtain ⟨hcues, hstands, -⟩ := loadCue_room (env := env) (i := i) handle roll (w := landedW i w)
    (by rw [landedW_room]; exact hroom)
  obtain ⟨hlanding, -, -⟩ := stands_cued ((judged_stands env i roll _).trans hstands)
  exact ⟨cuesOn_of_hands (judged_hands ..) hcues, hlanding.trans (landedW_landing hl i)⟩

theorem loadLanding_full {l : Landing} {i : Item} {handle : Nat} {roll : Frame} (hl : w.ch.seq.landing = some l)
    (hkind : i.kind ≠ .brk) (hplayer : i.player = some p) (hroom : hasRoom (w.player p) = false) :
    ∃ x, (takePointer env (judgeItem env i roll (loadCue env p i handle roll (landedW i w)))).ch.seq.landing = some x ∧
      x.item.player = none := by
  obtain ⟨u, hload, -, hstands, -⟩ := loadCue_full (env := env) (i := i) handle roll (w := landedW i w)
    (by rw [landedW_room]; exact hroom)
  obtain ⟨hlanding, -, -⟩ := stands_cued hstands
  have his : u.ch.isLanding p = true := by
    unfold Chan.isLanding
    rw [hlanding, landedW_landing hl i]
    exact decide_eq_true hplayer
  obtain ⟨-, -, ⟨x, hx, hnone⟩, -⟩ := itemReturned_landing (avoid := some p) hkind his
  rw [hload]
  obtain ⟨hkept, -, -⟩ := stands_cued (judged_stands env i roll (itemReturned p (some p) i u))
  exact ⟨x, hkept.trans hx, hnone⟩

/-! ## The item at the pointer is a PASS item -/

/-- What the pointer names is a PASS item. -/
def W.namesPass (w : W) : Prop := ∀ j, w.ch.seq.preroll = some j → j.kind = .pass

theorem waitsAs_kind (old j : Item) : (old.waitsAs j).kind = j.kind := by
  unfold Item.waitsAs
  split <;> rfl

theorem trim_kind (i : Item) (f : Frame) : (i.trim f).kind = i.kind := by
  unfold Item.trim
  split <;> rfl

theorem ownPoint_kind (c : Chan) (i : Item) : (c.ownPoint i).kind = i.kind := by
  unfold Chan.ownPoint
  split <;> rfl

theorem carryOver_kind (c : Chan) (old i : Item) : (carryOver c old i).kind = i.kind := by
  have hentry : ∀ j : Item, (match old.entry with | some f => j.trim f | none => j).kind = j.kind := fun j => by
    cases old.entry with
    | none => rfl
    | some f => exact trim_kind j f
  have hown : ∀ b : Bool, (if b then c.ownPoint i else i).kind = i.kind := fun b => by
    cases b with
    | false => rfl
    | true => exact ownPoint_kind c i
  exact (waitsAs_kind old _).trans ((hentry _).trans (hown _))

theorem continuation_kind (c : Chan) (old : Option Item) (ref : Frame) (i : Item) : (continuation c old ref i).kind = i.kind := by
  have hown : ((c.ownPoint i).trim ref).kind = i.kind := (trim_kind _ _).trans (ownPoint_kind c i)
  unfold continuation
  dsimp only
  cases old with
  | none => exact hown
  | some o =>
    dsimp only
    split
    · exact (waitsAs_kind _ _).trans hown
    · exact hown

theorem waitEntry_kind (c : Chan) (i : Item) : (c.waitEntry i).kind = i.kind := by
  unfold Chan.waitEntry
  split
  · split
    · exact trim_kind i _
    · rfl
  · rfl

theorem pointerItem_kind {c : Chan} {prev : Option Item} {now ref : Frame} {j : Item} (h : pointerItem c prev now ref = some j) :
    j.kind = .pass := by
  unfold pointerItem at h
  obtain ⟨i, hi, rfl⟩ := Option.map_eq_some_iff.1 h
  have hpass : i.kind = .pass := by
    have hfound := List.find?_some hi
    simp only [Item.isPass, Bool.and_eq_true, decide_eq_true_eq] at hfound
    exact hfound.1
  rw [← hpass]
  dsimp only
  split
  · split
    · exact carryOver_kind ..
    · split
      · exact continuation_kind ..
      · split
        · exact carryOver_kind ..
        · exact waitEntry_kind ..
  · split
    · exact continuation_kind ..
    · exact waitEntry_kind ..

theorem context_kind {c : Chan} (h : c.landingUncued = true) : ∀ j, c.context = some j → j.kind = .pass := by
  intro j hj
  unfold Chan.landingUncued at h
  unfold Chan.context at hj
  cases hl : c.seq.landing with
  | none => rw [hl] at h; cases h
  | some l =>
    rw [hl] at h hj
    cases hj
    simp only [Item.isPass, Bool.and_eq_true, decide_eq_true_eq] at h
    exact h.1

theorem takePointer_namesPass (h : w.namesPass) : (takePointer env w).namesPass := by
  have hset : ∀ i : Option Item, (∀ j, i = some j → j.kind = .pass) → (w.modSeq fun q => { q with preroll := i }).namesPass :=
    fun i hi j hj => hi j hj
  unfold takePointer
  dsimp only
  split
  · exact hset none fun j hj => by cases hj
  · split
    · exact h
    · refine hset _ fun j hj => ?_
      split at hj
      · rename_i huncued
        exact context_kind huncued j hj
      · split at hj
        · exact pointerItem_kind hj
        · exact pointerItem_kind hj

theorem namesPass_of_preroll (h : v.ch.seq.preroll = w.ch.seq.preroll) (hw : w.namesPass) : v.namesPass := by
  unfold W.namesPass
  rw [h]
  exact hw

theorem loseWhole_preroll (env : Env) (i : Item) (w : W) : (loseWhole env i w).ch.seq.preroll = w.ch.seq.preroll := by
  unfold loseWhole
  dsimp only
  split
  · show (w.itemRecord env .itemLate i.event i.pass (w.ch.offsetAt i i.start) .fill _).ch.seq.preroll = _
    rw [itemRecord_ch]
  · rfl

theorem isPass_kind {i : Item} (h : i.isPass = true) : i.kind = .pass := of_decide_eq_true h

/-- A cue of the landing leaves the break-in clip, and a PASS item at the pointer. -/
theorem cueLanding_break (hw : w.namesPass) : (cueLanding env w).ch.seq.breakClip = w.ch.seq.breakClip ∧ (cueLanding env w).namesPass := by
  have hfill : ∀ i : Item, (takePointer env ((w.modLanding Item.absent).addSpent i none)).ch.seq.breakClip = w.ch.seq.breakClip ∧
      (takePointer env ((w.modLanding Item.absent).addSpent i none)).namesPass := fun i =>
    ⟨takePointer_clip .., takePointer_namesPass hw⟩
  unfold cueLanding
  split
  · exact ⟨rfl, hw⟩
  · rename_i l hl
    split
    · exact ⟨rfl, hw⟩
    · rename_i hopen
      have hpass : l.item.kind = .pass := by
        refine isPass_kind ?_
        rw [← Bool.not_eq_false]
        exact fun h => hopen (Or.inl h)
      split
      · exact ⟨rfl, hw⟩
      · rename_i p hp
        dsimp only
        split
        · exact hfill _
        · split
          · exact hfill _
          · rename_i e he _ h hh
            split
            · refine ⟨(takePointer_clip ..).trans ((loseWhole_clip ..).trans rfl), takePointer_namesPass ?_⟩
              exact namesPass_of_preroll (loseWhole_preroll env l.item (w.modLanding Item.absent)) hw
            · obtain ⟨i, hi⟩ : ∃ i, i = l.item.cuedFor e p h := ⟨_, rfl⟩
              obtain ⟨u, hu⟩ : ∃ u, u = landedW i w := ⟨_, rfl⟩
              have hkind : i.kind = .pass := by rw [hi]; exact hpass
              have hnone : u.ch.seq.preroll = none ∧ u.ch.seq.breakClip = w.ch.seq.breakClip := by rw [hu]; exact ⟨rfl, rfl⟩
              obtain ⟨hpre, hclip⟩ := hnone
              have hload : (loadCue env p i h.1 (rollFrame env l.item) u).ch.seq.breakClip = w.ch.seq.breakClip ∧
                  (loadCue env p i h.1 (rollFrame env l.item) u).namesPass := by
                cases hroom : hasRoom (u.player p) with
                | true =>
                  obtain ⟨-, hstands, hpreroll⟩ := loadCue_room (env := env) (i := i) h.1 (rollFrame env l.item) hroom
                  obtain ⟨-, -, hc⟩ := stands_cued hstands
                  exact ⟨hc.trans hclip, fun j hj => by rw [hpreroll, hpre] at hj; cases hj⟩
                | false =>
                  obtain ⟨x, hload, -, hstands, hpreroll⟩ := loadCue_full (env := env) (i := i) h.1 (rollFrame env l.item) hroom
                  obtain ⟨hland, -, hc⟩ := stands_cued hstands
                  have his : x.ch.isLanding p = true := by
                    unfold Chan.isLanding
                    rw [hland, hu, landedW_landing hl i, hi]
                    exact decide_eq_true rfl
                  obtain ⟨-, hc', -, hnames⟩ := itemReturned_landing (avoid := some p) (by rw [hkind]; decide) his
                  rw [hload]
                  refine ⟨hc'.trans (hc.trans hclip), fun j hj => ?_⟩
                  rcases hnames j hj with hsame | hkept
                  · exact hsame.trans hkind
                  · rw [hpreroll, hpre] at hkept; cases hkept
              obtain ⟨hc, hnames⟩ := hload
              rw [hu] at hc hnames
              rw [← hi]
              refine ⟨(takePointer_clip ..).trans ?_, takePointer_namesPass ?_⟩
              · rw [judgeItem, judgeTriggers_seq]; exact hc
              · exact namesPass_of_preroll (congrArg Seq.preroll (judgeTriggers_seq ..)) hnames

/-! ## The break-in clip (R148, R150) -/

theorem cueBreak_none (h : w.ch.seq.breakClip = none) : cueBreak env w = w := by
  unfold cueBreak
  rw [h]

theorem cueBreak_eq {i : Item} {n : Nat} (hclip : w.ch.seq.breakClip = some i) (hkind : i.kind = .brk) (hplayer : i.player = none)
    (hhandle : i.handle = some n) (hfree : w.ch.freePlayer i.avoid = some p) (hend : i.endsAfter (rollFrame env i) = true) :
    cueBreak env w = loadCue env p (i.cuedOn p (n, false)) n (rollFrame env i)
      (w.modSeq fun q => { q with breakClip := some (i.cuedOn p (n, false)) }) := by
  unfold cueBreak
  rw [hclip]
  dsimp only
  rw [if_neg (by simp [hkind, hplayer]), hfree]
  dsimp only
  rw [if_neg (by rw [hend]; decide), hhandle]
  rfl

/-! ## Late cues (R112) -/

/-- The item at the pointer is cued late, where it is late and a player is free. -/
def latePointer (env : Env) (w : W) : W :=
  match w.ch.nextToCue with
  | some i =>
    if isLate env i && w.ch.cuesAllowed (rollFrame env i) then
      match w.ch.freePlayer i.avoid with
      | some p => cuePreroll env p i w
      | none => w
    else w
  | none => w

theorem lateCue_eq (env : Env) (w : W) : lateCue env w = latePointer env (cueLanding env (cueBreak env w)) := rfl

theorem nextToCue_preroll {c : Chan} {i : Item} (h : c.nextToCue = some i) : c.seq.preroll = some i := by
  unfold Chan.nextToCue at h
  split at h
  · cases h
  · exact h

/-- Any late cue of the item at the pointer is on a player that holds nothing, and not the landing. -/
theorem latePointer_cases (env : Env) (w : W) : latePointer env w = w ∨ ∃ i q, w.ch.seq.preroll = some i ∧ (w.player q).state = .idle ∧
    latePointer env w = cuePreroll env q i w := by
  unfold latePointer
  split
  · rename_i i hi
    split
    · split
      · rename_i q hq
        exact Or.inr ⟨i, q, nextToCue_preroll hi, freePlayer_idle hq, rfl⟩
      · exact Or.inl rfl
    · exact Or.inl rfl
  · exact Or.inl rfl

theorem latePointer_left (env : Env) (p : PlayerId) (w : W) : Left p w (latePointer env w) := by
  rcases latePointer_cases env w with h | ⟨i, q, -, hidle, h⟩
  · rw [h]; exact Left.refl p w
  · rw [h]; exact cuePreroll_left env p q i w hidle

/-- A landing whose player, if any, is busy. -/
theorem latePointer_landing (h : ∀ l p, w.ch.seq.landing = some l → l.item.player = some p → (w.player p).state ≠ .idle) :
    (latePointer env w).ch.seq.landing = w.ch.seq.landing := by
  rcases latePointer_cases env w with hw | ⟨i, q, -, hidle, hw⟩
  · rw [hw]
  · have hnot : w.ch.isLanding q = false := by
      unfold Chan.isLanding
      cases hl : w.ch.seq.landing with
      | none => rfl
      | some l => exact decide_eq_false fun hq => h l q hl hq hidle
    obtain ⟨hkept, -⟩ := cuePreroll_stands (env := env) (p := q) (w := w) i
    rw [hw, hkept hnot]

theorem latePointer_eq {i : Item} (hcued : w.ch.seq.cued = none) (hl : w.ch.landingUncued = false) (hpre : w.ch.seq.preroll = some i)
    (hlate : i.start < env.now + env.cp.lead ∨ 0 < i.attempts) (hallowed : w.ch.cuesAllowed (rollFrame env i) = true)
    (hfree : w.ch.freePlayer i.avoid = some p) : latePointer env w = cuePreroll env p i w := by
  have his : isLate env i = true := by simpa [isLate] using hlate
  unfold latePointer
  rw [nextToCue_free hl hcued, hpre]
  dsimp only
  rw [if_pos (by rw [his, hallowed]; rfl), hfree]

/-- Where the pointer names a PASS item, its late cue leaves the break-in clip. -/
theorem latePointer_clip (hnames : w.namesPass) : (latePointer env w).ch.seq.breakClip = w.ch.seq.breakClip := by
  rcases latePointer_cases env w with h | ⟨i, q, hpre, -, h⟩
  · rw [h]
  · obtain ⟨-, hkept⟩ := cuePreroll_stands (env := env) (p := q) (w := w) i
    rw [h, hkept (by rw [hnames i hpre]; decide)]

/-- On time an item is cued once its window has opened. -/
theorem cueWindow_eq {i : Item} (hcued : w.ch.seq.cued = none) (hl : w.ch.landingUncued = false) (hpre : w.ch.seq.preroll = some i)
    (hfirst : i.attempts = 0) (hearly : env.now + env.cp.lead ≤ i.start) (hopen : i.start - (env.cp.lead + env.cp.margin) ≤ env.now)
    (hallowed : w.ch.cuesAllowed (rollFrame env i) = true) (hfree : w.ch.freePlayer none = some p) :
    cueWindow env w = cuePreroll env p i w := by
  have hlate : isLate env i = false := by simp [isLate, hfirst, not_lt.2 hearly]
  unfold cueWindow
  rw [nextToCue_free hl hcued, hpre]
  dsimp only
  rw [if_pos ⟨hlate, hopen, hallowed⟩, hfree]

end Slots

end Sys2Proof.Machine

/-! PROOFS. The statement on cues: the item at the pointer on time and late, the landing, and the break-in clip (R105, R106, R112, R114,
R148). -/

namespace Sys2Proof.Machine

open Sys2Proof

variable {c : Ch} {p : PlayerId} {s : State}

/-! ## A cue as an event -/

/-- A cueing event: the operation, and the lifecycles that follow it. -/
theorem cue_event {i : Instr} {op : Env → W → W} {P : W → Prop}
    (hexec : exec i s = .next (live (runCh c (followed (fun _ => syncLife) op)) s)) (hpow : s.powered = true)
    (hrest : ∀ env w, (op env w).rest = w.rest) (hop : P (op (envOf s c) (begun s c)))
    (hsync : ∀ v : W, P v → P (syncLife v)) :
    ∃ t v, exec i s = .next t ∧ Within c s t ∧ t.chans[c] = v.ch ∧ P v := by
  obtain ⟨t, ht, hwithin, hchan⟩ := monitor_event hexec hpow (followed_rest _ _ (fun v => syncLife_rest v) (hrest ..))
  exact ⟨t, _, ht, hwithin, hchan, followed_prop hop fun v hv => hsync v hv⟩

theorem syncLife_cuesOn {i : Item} {roll : Frame} (v : W) (h : v.cuesOn p i roll) : (syncLife v).cuesOn p i roll :=
  cuesOn_of_hands (syncLife_hands v) h

theorem syncLife_idleOn (v : W) (h : v.idleOn p) : (syncLife v).idleOn p := idleOn_of_hands (syncLife_hands v) h

theorem syncLife_cued (v : W) : (syncLife v).ch.seq.cued = v.ch.seq.cued := (stands_cued (syncLife_stands v)).2.1

theorem syncLife_landing (v : W) : (syncLife v).ch.seq.landing = v.ch.seq.landing := (stands_cued (syncLife_stands v)).1

theorem cueWindow_rest (env : Env) (w : W) : (cueWindow env w).rest = w.rest := rest_of_base (cueWindow_base env w)

theorem lateCue_rest (env : Env) (w : W) : (lateCue env w).rest = w.rest := rest_of_base (lateCue_base env w)

/-! ## The item at the pointer -/

section Pointer

variable {i : Item} {v : Event} {h : Nat × Bool} {r : Frame} {op : Env → W → W} {instr : Instr}

/-- An event that cues the item at the pointer. -/
theorem pointer_cued (hexec : exec instr s = .next (live (runCh c (followed (fun _ => syncLife) op)) s)) (hpow : s.powered = true)
    (hrest : ∀ env w, (op env w).rest = w.rest) (hop : op (envOf s c) (begun s c) = cuePreroll (envOf s c) p i (begun s c))
    (hr : r = rollFrame (envOf s c) i) (hkind : i.kind = .pass) (hnot : s.chans[c].isLanding p = false)
    (he : s.chans[c].store.event i.event = some v) (hh : cueHandle v i = some h) (hend : i.endsAfter r = true) :
    (hasRoom (s.chans[c].seq.player p) = true →
      ∃ t, exec instr s = .next t ∧ Within c s t ∧ t.chans[c].seq.cued = some (i.cuedFor v p h) ∧
        (t.chans[c].seq.player p).state = .cueing ∧ (t.chans[c].seq.player p).loaded = some (i.cuedFor v p h) ∧
        (t.chans[c].seq.player p).roll = some r ∧ (t.chans[c].seq.player p).endF = i.stop) ∧
    (hasRoom (s.chans[c].seq.player p) = false →
      ∃ t, exec instr s = .next t ∧ Within c s t ∧ t.chans[c].seq.cued = none ∧
        (t.chans[c].seq.player p).state = .idle ∧ (t.chans[c].seq.player p).loaded = none) := by
  rw [hr] at hend
  refine ⟨fun hroom => ?_, fun hroom => ?_⟩
  · have hcue := cuePreroll_room (env := envOf s c) (w := begun s c) he hh hend hroom
    obtain ⟨t, u, ht, hwithin, hchan, hcues, hcued⟩ := cue_event
      (P := fun w => w.cuesOn p (i.cuedFor v p h) (rollFrame (envOf s c) i) ∧ w.ch.seq.cued = some (i.cuedFor v p h))
      hexec hpow hrest (by rw [hop]; exact hcue) fun w hw => ⟨syncLife_cuesOn w hw.1, (syncLife_cued w).trans hw.2⟩
    refine ⟨t, ht, hwithin, by rw [hchan]; exact hcued, ?_⟩
    rw [hchan, hr]
    exact hcues
  · have hcue := cuePreroll_full (env := envOf s c) (w := begun s c) (by rw [hkind]; decide) he hh hend hroom hnot
    obtain ⟨t, u, ht, hwithin, hchan, hidle, hcued⟩ := cue_event (P := fun w => w.idleOn p ∧ w.ch.seq.cued = none)
      hexec hpow hrest (by rw [hop]; exact hcue) fun w hw => ⟨syncLife_idleOn w hw.1, (syncLife_cued w).trans hw.2⟩
    refine ⟨t, ht, hwithin, by rw [hchan]; exact hcued, ?_⟩
    rw [hchan]
    exact hidle

/-- On time, in its window (R105). -/
theorem cued_on_time (hpow : s.powered = true)
    (hland : ∀ l, s.chans[c].seq.landing = some l → l.item.player ≠ some p ∧ (l.item.kind = .pass → l.item.player.isSome = true))
    (hcued : s.chans[c].seq.cued = none) (hpre : s.chans[c].seq.preroll = some i) (hkind : i.kind = .pass) (hfirst : i.attempts = 0)
    (hearly : s.time.hfn + s.params.chans[c].lead ≤ i.start)
    (hopen : i.start - (s.params.chans[c].lead + s.params.chans[c].margin) ≤ s.time.hfn)
    (hallowed : s.chans[c].cuesAllowed i.start = true) (hfree : s.chans[c].freePlayer none = some p)
    (he : s.chans[c].store.event i.event = some v) (hh : cueHandle v i = some h) (hend : i.endsAfter i.start = true) :
    (hasRoom (s.chans[c].seq.player p) = true →
      ∃ t, exec (.cueWindow c) s = .next t ∧ Within c s t ∧ t.chans[c].seq.cued = some (i.cuedFor v p h) ∧
        (t.chans[c].seq.player p).state = .cueing ∧ (t.chans[c].seq.player p).loaded = some (i.cuedFor v p h) ∧
        (t.chans[c].seq.player p).roll = some i.start ∧ (t.chans[c].seq.player p).endF = i.stop) ∧
    (hasRoom (s.chans[c].seq.player p) = false →
      ∃ t, exec (.cueWindow c) s = .next t ∧ Within c s t ∧ t.chans[c].seq.cued = none ∧
        (t.chans[c].seq.player p).state = .idle ∧ (t.chans[c].seq.player p).loaded = none) := by
  have hroll : i.start = rollFrame (envOf s c) i := (max_eq_left hearly).symm
  have huncued : s.chans[c].landingUncued = false := by
    unfold Chan.landingUncued
    cases hl : s.chans[c].seq.landing with
    | none => rfl
    | some l =>
      obtain ⟨-, hheld⟩ := hland l hl
      rw [← Bool.not_eq_true]
      intro hopen
      simp only [Item.isPass, Bool.and_eq_true, decide_eq_true_eq] at hopen
      obtain ⟨hpass, hnone⟩ := hopen
      have hsome := hheld hpass
      rw [Option.isNone_iff_eq_none.1 hnone] at hsome
      cases hsome
  have hnot : s.chans[c].isLanding p = false := by
    unfold Chan.isLanding
    cases hl : s.chans[c].seq.landing with
    | none => rfl
    | some l => exact decide_eq_false (hland l hl).1
  exact pointer_cued (op := cueWindow) rfl hpow cueWindow_rest
    (cueWindow_eq (env := envOf s c) (w := begun s c) hcued huncued hpre hfirst hearly hopen (by rw [← hroll]; exact hallowed) hfree)
    hroll hkind hnot he hh hend

/-- Late, as soon as a player is free (R112). -/
theorem cued_late (hpow : s.powered = true) (hr : r = max i.start (s.time.hfn + s.params.chans[c].lead))
    (hl : s.chans[c].seq.landing = none) (hclip : s.chans[c].seq.breakClip = none) (hcued : s.chans[c].seq.cued = none)
    (hpre : s.chans[c].seq.preroll = some i) (hkind : i.kind = .pass)
    (hlate : i.start < s.time.hfn + s.params.chans[c].lead ∨ 0 < i.attempts) (hallowed : s.chans[c].cuesAllowed r = true)
    (hfree : s.chans[c].freePlayer i.avoid = some p) (he : s.chans[c].store.event i.event = some v) (hh : cueHandle v i = some h)
    (hend : i.endsAfter r = true) :
    (hasRoom (s.chans[c].seq.player p) = true →
      ∃ t, exec (.lateCue c) s = .next t ∧ Within c s t ∧ t.chans[c].seq.cued = some (i.cuedFor v p h) ∧
        (t.chans[c].seq.player p).state = .cueing ∧ (t.chans[c].seq.player p).loaded = some (i.cuedFor v p h) ∧
        (t.chans[c].seq.player p).roll = some r ∧ (t.chans[c].seq.player p).endF = i.stop) ∧
    (hasRoom (s.chans[c].seq.player p) = false →
      ∃ t, exec (.lateCue c) s = .next t ∧ Within c s t ∧ t.chans[c].seq.cued = none ∧
        (t.chans[c].seq.player p).state = .idle ∧ (t.chans[c].seq.player p).loaded = none) := by
  have hroll : r = rollFrame (envOf s c) i := hr
  have hop : lateCue (envOf s c) (begun s c) = cuePreroll (envOf s c) p i (begun s c) := by
    rw [lateCue_eq, cueBreak_none (w := begun s c) hclip, cueLanding_none (w := begun s c) hl]
    exact latePointer_eq (env := envOf s c) (w := begun s c) hcued (landingUncued_none hl) hpre hlate
      (by rw [← hroll]; exact hallowed) hfree
  exact pointer_cued (op := lateCue) rfl hpow lateCue_rest hop hroll hkind (by unfold Chan.isLanding; rw [hl]) he hh hend

end Pointer

/-! ## The landing -/

/-- A landing that no player holds is cued at once (R114). -/
theorem landing_cued {l : Landing} {v : Event} {h : Nat × Bool} {r : Frame} (hpow : s.powered = true)
    (hr : r = max l.item.start (s.time.hfn + s.params.chans[c].lead)) (hclip : s.chans[c].seq.breakClip = none)
    (hl : s.chans[c].seq.landing = some l) (hkind : l.item.kind = .pass) (hplayer : l.item.player = none)
    (hpending : s.chans[c].ctl.pendingBreak = none) (hreturn : s.chans[c].rollsBeforeReturn r = true)
    (hfree : s.chans[c].freePlayer l.item.avoid = some p) (he : s.chans[c].store.event l.item.event = some v)
    (hh : cueHandle v l.item = some h) (hend : l.item.endsAfter r = true) :
    (hasRoom (s.chans[c].seq.player p) = true →
      ∃ t, exec (.lateCue c) s = .next t ∧ Within c s t ∧
        t.chans[c].seq.landing = some { l with item := l.item.cuedFor v p h } ∧
        (t.chans[c].seq.player p).state = .cueing ∧ (t.chans[c].seq.player p).roll = some r) ∧
    (hasRoom (s.chans[c].seq.player p) = false →
      ∃ t x, exec (.lateCue c) s = .next t ∧ Within c s t ∧ t.chans[c].seq.landing = some x ∧ x.item.player = none) := by
  have hroll : r = rollFrame (envOf s c) l.item := hr
  rw [hroll] at hreturn hend
  have hcue := cueLanding_eq (env := envOf s c) (w := begun s c) hl hkind hplayer hpending hreturn hfree he hh hend
  have hop : lateCue (envOf s c) (begun s c) = latePointer (envOf s c) (cueLanding (envOf s c) (begun s c)) := by
    rw [lateCue_eq, cueBreak_none (w := begun s c) hclip]
  refine ⟨fun hroom => ?_, fun hroom => ?_⟩
  · obtain ⟨hcues, hlanding⟩ := loadLanding_room (env := envOf s c) (w := begun s c) (i := l.item.cuedFor v p h) (handle := h.1)
      (roll := rollFrame (envOf s c) l.item) hl hroom
    rw [← landedW] at hcue
    rw [← hcue] at hcues hlanding
    have hbusy : ((cueLanding (envOf s c) (begun s c)).player p).state ≠ .idle := by
      obtain ⟨hstate, -⟩ := hcues
      rw [hstate]; decide
    obtain ⟨hleft, -⟩ := latePointer_left (envOf s c) p (cueLanding (envOf s c) (begun s c))
    have hkept := latePointer_landing (env := envOf s c) (w := cueLanding (envOf s c) (begun s c)) fun l' q hl' hq => by
      rw [hlanding] at hl'
      cases hl'
      cases hq
      exact hbusy
    obtain ⟨t, u, ht, hwithin, hchan, hcuesOn, hland⟩ := cue_event (i := .lateCue c) (op := lateCue)
      (P := fun w => w.cuesOn p (l.item.cuedFor v p h) (rollFrame (envOf s c) l.item) ∧
        w.ch.seq.landing = some { l with item := l.item.cuedFor v p h })
      rfl hpow lateCue_rest (by rw [hop]; exact ⟨cuesOn_of_hold (hleft hbusy) hcues, hkept.trans hlanding⟩)
      fun w hw => ⟨syncLife_cuesOn w hw.1, (syncLife_landing w).trans hw.2⟩
    obtain ⟨hstate, -, hrolls, -⟩ := hcuesOn
    rw [hroll]
    exact ⟨t, ht, hwithin, by rw [hchan]; exact hland, by rw [hchan]; exact hstate, by rw [hchan]; exact hrolls⟩
  · obtain ⟨x, hlanding, hnone⟩ := loadLanding_full (env := envOf s c) (w := begun s c) (i := l.item.cuedFor v p h) (handle := h.1)
      (roll := rollFrame (envOf s c) l.item) hl (by show l.item.kind ≠ .brk; rw [hkind]; decide) rfl hroom
    rw [← landedW] at hcue
    rw [← hcue] at hlanding
    have hkept := latePointer_landing (env := envOf s c) (w := cueLanding (envOf s c) (begun s c)) fun l' q hl' hq => by
      rw [hlanding] at hl'
      cases hl'
      rw [hnone] at hq
      cases hq
    obtain ⟨t, u, ht, hwithin, hchan, hland⟩ := cue_event (i := .lateCue c) (op := lateCue) (P := fun w => w.ch.seq.landing = some x)
      rfl hpow lateCue_rest (by rw [hop]; exact hkept.trans hlanding) fun w hw => (syncLife_landing w).trans hw
    exact ⟨t, x, ht, hwithin, by rw [hchan]; exact hland, hnone⟩

/-! ## The break-in clip -/

/-- A break-in clip without a player is cued late (R148). -/
theorem clip_cued {i : Item} {n : Nat} {r : Frame} (hpow : s.powered = true)
    (hr : r = max i.start (s.time.hfn + s.params.chans[c].lead)) (hclip : s.chans[c].seq.breakClip = some i) (hkind : i.kind = .brk)
    (hnames : ∀ j, s.chans[c].seq.preroll = some j → j.kind = .pass) (hplayer : i.player = none) (hhandle : i.handle = some n)
    (hfree : s.chans[c].freePlayer i.avoid = some p) (hend : i.endsAfter r = true) :
    (hasRoom (s.chans[c].seq.player p) = true →
      ∃ t, exec (.lateCue c) s = .next t ∧ Within c s t ∧ t.chans[c].seq.breakClip = some (i.cuedOn p (n, false)) ∧
        (t.chans[c].seq.player p).state = .cueing ∧ (t.chans[c].seq.player p).roll = some r) ∧
    (hasRoom (s.chans[c].seq.player p) = false →
      ∃ t j, exec (.lateCue c) s = .next t ∧ Within c s t ∧ t.chans[c].seq.breakClip = some j ∧ j.player = none) := by
  have hroll : r = rollFrame (envOf s c) i := hr
  rw [hroll] at hend
  obtain ⟨x, hx⟩ : ∃ x, x = (begun s c).modSeq fun q => { q with breakClip := some (i.cuedOn p (n, false)) } := ⟨_, rfl⟩
  have hcue := cueBreak_eq (env := envOf s c) (w := begun s c) hclip hkind hplayer hhandle hfree hend
  rw [← hx] at hcue
  have hxroom : hasRoom (x.player p) = hasRoom (s.chans[c].seq.player p) := by rw [hx]; cases p <;> rfl
  have hxclip : x.ch.seq.breakClip = some (i.cuedOn p (n, false)) := by rw [hx]; rfl
  have hxnames : x.namesPass := fun j hj => hnames j (by rw [hx] at hj; exact hj)
  -- Once the clip is dealt with, the landing and the item at the pointer leave it.
  have hlater : ∀ (P : Option Item → Prop) (u : W), cueBreak (envOf s c) (begun s c) = u → u.namesPass → P u.ch.seq.breakClip →
      P (lateCue (envOf s c) (begun s c)).ch.seq.breakClip := fun P u hu hunames hP => by
    obtain ⟨hkept, hpass⟩ := cueLanding_break (env := envOf s c) hunames
    rw [lateCue_eq, hu, latePointer_clip hpass, hkept]
    exact hP
  refine ⟨fun hroom => ?_, fun hroom => ?_⟩
  · obtain ⟨hcues, hstands, hpreroll⟩ := loadCue_room (env := envOf s c) (w := x) (i := i.cuedOn p (n, false)) n
      (rollFrame (envOf s c) i) (by rw [hxroom]; exact hroom)
    obtain ⟨-, -, hc⟩ := stands_cued hstands
    rw [← hcue] at hcues hpreroll hc
    have hfinal := hlater (fun b => b = some (i.cuedOn p (n, false))) _ rfl (namesPass_of_preroll hpreroll hxnames) (hc.trans hxclip)
    have hbusy : ((cueBreak (envOf s c) (begun s c)).player p).state ≠ .idle := by
      obtain ⟨hstate, -⟩ := hcues
      rw [hstate]; decide
    obtain ⟨hleft, -⟩ := (cueLanding_left (envOf s c) p (cueBreak (envOf s c) (begun s c))).trans (latePointer_left (envOf s c) p _)
    obtain ⟨t, u, ht, hwithin, hchan, hcuesOn, hbreak⟩ := cue_event (i := .lateCue c) (op := lateCue)
      (P := fun w => w.cuesOn p (i.cuedOn p (n, false)) (rollFrame (envOf s c) i) ∧ w.ch.seq.breakClip = some (i.cuedOn p (n, false)))
      rfl hpow lateCue_rest ⟨cuesOn_of_hold (hleft hbusy) hcues, hfinal⟩
      fun w hw => ⟨syncLife_cuesOn w hw.1, (syncLife_clip w).trans hw.2⟩
    obtain ⟨hstate, -, hrolls, -⟩ := hcuesOn
    rw [hroll]
    exact ⟨t, ht, hwithin, by rw [hchan]; exact hbreak, by rw [hchan]; exact hstate, by rw [hchan]; exact hrolls⟩
  · obtain ⟨u, hload, -, -, hpreroll⟩ := loadCue_full (env := envOf s c) (w := x) (i := i.cuedOn p (n, false)) n
      (rollFrame (envOf s c) i) (by rw [hxroom]; exact hroom)
    obtain ⟨hpre, j, hj, hnone⟩ := itemReturned_break (p := p) (w := u) (avoid := some p) (i := i.cuedOn p (n, false)) hkind
    rw [← hload, ← hcue] at hpre hj
    have hfinal := hlater (fun b => b = some j) _ rfl (namesPass_of_preroll (hpre.trans hpreroll) hxnames) hj
    obtain ⟨t, y, ht, hwithin, hchan, hbreak⟩ := cue_event (i := .lateCue c) (op := lateCue) (P := fun w => w.ch.seq.breakClip = some j)
      rfl hpow lateCue_rest hfinal fun w hw => (syncLife_clip w).trans hw
    exact ⟨t, j, ht, hwithin, by rw [hchan]; exact hbreak, hnone⟩

/-- Settles O28: each cue by what it leaves of its player and its slot. -/
theorem itemsAreCuedOnTimeOrAtOnce : Obligations.ItemsAreCuedOnTimeOrAtOnce := by
  unfold Obligations.ItemsAreCuedOnTimeOrAtOnce
  refine ⟨fun c p i v h s hpow hland hcued hpre hkind hfirst hearly hopen hallowed hfree he hh hend =>
      cued_on_time hpow hland hcued hpre hkind hfirst hearly hopen hallowed hfree he hh hend,
    fun c p i v h r s hpow hr hl hclip hcued hpre hkind hlate hallowed hfree he hh hend => ?_,
    fun c p l v h r s hpow hr hclip hl hkind hplayer hpending hreturn hfree he hh hend =>
      landing_cued hpow hr hclip hl hkind hplayer hpending hreturn hfree he hh hend,
    fun c p i n r s hpow hr hclip hkind hnames hplayer hhandle hfree hend =>
      clip_cued hpow hr hclip hkind hnames hplayer hhandle hfree hend⟩
  obtain ⟨hroom, hfull⟩ := cued_late hpow hr hl hclip hcued hpre hkind hlate hallowed hfree he hh hend
  refine ⟨fun h => ?_, hfull⟩
  obtain ⟨t, ht, hwithin, hcued, hstate, hloaded, hrolls, -⟩ := hroom h
  exact ⟨t, ht, hwithin, hcued, hstate, hloaded, hrolls⟩

end Sys2Proof.Machine

/-! PROOFS. Joins (R114, R128 to R131): what a join hands, and what of it stands while the timeline settles. -/

namespace Sys2Proof.Machine

open Sys2Proof

/-! ## The steps of a join -/

section Steps

variable {env : Env} {v w : W}

theorem joinBreak_stages (env : Env) (target : Frame) (h : v.Stages w) : v.Stages (joinBreak env target w) := by
  unfold joinBreak
  split
  · split
    · split
      · exact h.trans (issueStop_serves _ _ _ (W.Serves.refl w)).toStages
      · exact h
    · exact h
  · exact h

theorem joinOnAir_stages (env : Env) (why : JoinFor) (carrier : Option PlayerId) (target : Frame) (h : v.Stages w) :
    v.Stages (joinOnAir env why carrier target w) := by
  have hgone := modAir_stages (fun _ => none) h
  have hstop : ∀ p f, v.Stages (issueStop env p f w) := fun p f => h.trans (issueStop_serves _ _ _ (W.Serves.refl w)).toStages
  unfold joinOnAir
  split
  · exact h
  · rename_i o ho
    cases o.item.player with
    | none =>
      cases why
      case takeover => dsimp only; split <;> [exact h; exact hgone]
      all_goals dsimp only; split <;> exact h
    | some p =>
      have hcut : v.Stages (if (w.player p).state = .playing ∧ (w.player p).stopF.all (fun f => decide (target < f)) then
          issueStop env p target w else w) := by
        split
        · exact hstop _ _
        · exact h
      cases why
      case takeover =>
        dsimp only
        split
        · exact h
        · split
          · exact hgone.trans (stopAtOnce_serves _ _ _ (W.Serves.refl _)).toStages
          · exact hgone
      all_goals dsimp only; split <;> [exact h; exact hcut]

theorem joinOldLanding_stages (env : Env) (carrier : Option PlayerId) (h : v.Stages w) : v.Stages (joinOldLanding env carrier w) := by
  unfold joinOldLanding
  split
  · split
    · dsimp only
      split
      · exact h.trans (cancelCue_serves _ _ (W.Serves.refl w)).toStages
      · exact h
    · exact h
  · exact h

theorem joinCued_stages (env : Env) (carrier : Option PlayerId) (land : Item) (after : Frame) (h : v.Stages w) :
    v.Stages (joinCued env carrier land after w) := by
  unfold joinCued
  split
  · exact h
  · split
    · exact h.trans (modCued_serves _ (W.Serves.refl w)).toStages
    · split
      · exact h
      · exact h.trans (modCued_serves _ (cancelItem_serves _ _ (W.Serves.refl w))).toStages

theorem carryLanding_stages (carrier : Option PlayerId) (land : Item) (h : v.Stages w) : v.Stages (carryLanding carrier land w) := by
  unfold carryLanding
  split
  · exact h.trans (modPlayer_serves _ _ (W.Serves.refl w)).toStages
  · exact h

end Steps

/-! ## What a join hands -/

/-- The player that carries a join's landing already. -/
def Chan.joinCarrier (c : Chan) (target : Frame) : Option PlayerId :=
  if (c.landingAt target).isPass then [PlayerId.a, .b].find? (c.carriesLanding (c.landingAt target) target) else none

/-- The landing of a join, as the player that carries it already holds it. -/
def W.joinLanding (target : Frame) (w : W) : Item :=
  match w.ch.joinCarrier target with
  | some p => (w.ch.landingAt target).carriedBy p (w.player p).loaded
  | none => w.ch.landingAt target

/-- The channel as a join finds it, once what the join ends has been dealt with. -/
def preparedW (env : Env) (why : JoinFor) (target : Frame) (w : W) : W :=
  carryLanding (w.ch.joinCarrier target) (w.joinLanding target)
    (joinCued env (w.ch.joinCarrier target) (w.joinLanding target) ((w.joinLanding target).followEnd target)
      (joinOldLanding env (w.ch.joinCarrier target) (joinOnAir env why (w.ch.joinCarrier target) target
        (if why = .resume then joinBreak env target w else w))))

/-- A landing handed. -/
def handedW (why : JoinFor) (target : Frame) (land : Item) (handed : Handed) (w : W) : W :=
  (w.modSeq fun q => { q with landing := some { item := land, target := target, rejoin := decide (why = .rejoin) }
                              shadow := q.shadow || decide (w.mode = .mirror)
                              spent := land.unspent q.spent }).modCtl fun c => { c with handed := some handed }

theorem handJoin_eq (env : Env) (why : JoinFor) (target : Frame) (w : W) : handJoin env why target w =
    syncLife (rejudge env (takePointer env (cueLanding env (handedW why target (w.joinLanding target)
      (w.ch.handedOf (w.ch.landingAt target) target) (preparedW env why target w))))) := rfl

section Handed

variable {env : Env} {why : JoinFor} {target : Frame} {v w : W}

theorem preparedW_stages (env : Env) (why : JoinFor) (target : Frame) (w : W) : w.Stages (preparedW env why target w) := by
  refine carryLanding_stages _ _ (joinCued_stages _ _ _ _ (joinOldLanding_stages _ _ (joinOnAir_stages _ _ _ _ ?_)))
  split
  · exact joinBreak_stages _ _ (W.Stages.refl w)
  · exact W.Stages.refl w

/-- After a landing is handed, its cue and what follows it leave the Channel Controller, the shadow and the target. -/
theorem handJoin_after (env : Env) (w : W) : w.Stages (syncLife (rejudge env (takePointer env (cueLanding env w)))) :=
  syncLife_stages (rejudge_serves _ (takePointer_serves _ (cueLanding_serves _ (W.Serves.refl w)))).toStages

/-- A join under way: the mode and the realign run stand, a landing is handed, and the shadow runs in MIRROR alone. -/
structure W.Handing (m : Mode) (n : Nat) (w : W) : Prop where
  mode : w.ch.ctl.mode = m
  handed : w.ch.ctl.handed.isSome = true
  shadow : w.ch.seq.shadow = decide (m = .mirror)
  realign : w.ch.seq.realign = n

theorem W.Handing.lasts {m : Mode} {n : Nat} (h : v.Handing m n) (hw : v.Lasts w) : w.Handing m n :=
  ⟨by rw [hw.ctl]; exact h.mode, by rw [hw.ctl]; exact h.handed, hw.shadow.trans h.shadow, hw.realign.trans h.realign⟩

theorem handJoin_handing {m : Mode} {n : Nat} (why : JoinFor) (target : Frame) (hmode : w.ch.ctl.mode = m)
    (hshadow : w.ch.seq.shadow = true → m = .mirror) (hrealign : w.ch.seq.realign = n) :
    (handJoin env why target w).Handing m n ∧
      ((handJoin env why target w).ch.seq.landing.map fun l => l.target) = some target := by
  have hprep := preparedW_stages env why target w
  obtain ⟨u, hu⟩ : ∃ u, u = preparedW env why target w := ⟨_, rfl⟩
  rw [← hu] at hprep
  have humode : u.ch.ctl.mode = m := by rw [hprep.ctl, hmode]
  have hsame : (u.ch.seq.shadow || decide (u.ch.ctl.mode = .mirror)) = decide (m = .mirror) := by
    rw [humode, hprep.shadow]
    cases hs : w.ch.seq.shadow with
    | false => rfl
    | true => rw [hshadow hs]; rfl
  have hafter := handJoin_after env (handedW why target (w.joinLanding target) (w.ch.handedOf (w.ch.landingAt target) target) u)
  have hset : (handedW why target (w.joinLanding target) (w.ch.handedOf (w.ch.landingAt target) target) u).Handing m n :=
    ⟨humode, rfl, hsame, hprep.realign.trans hrealign⟩
  rw [handJoin_eq, ← hu]
  exact ⟨hset.lasts hafter.toLasts, hafter.target⟩

/-! ## The timeline settles on a join -/

/-- The landing may leave, but nothing else of a join does, as the landing follows the timeline. -/
theorem reactLanding_handing {m : Mode} {n : Nat} (h : w.Handing m n) : (reactLanding env w).Handing m n := by
  unfold reactLanding
  split
  · exact h
  · split
    · dsimp only
      split
      · split
        · obtain ⟨hjoin, -⟩ := handJoin_handing (env := env) (w := w) (m := m) (n := n) _ _ h.mode
            (fun hs => of_decide_eq_true (h.shadow.symm.trans hs)) h.realign
          exact hjoin
        · exact h.lasts (keepLanding_serves _ _ _ _ _ (W.Serves.refl w)).toLasts
      · exact h
    · split
      · exact h
      · dsimp only
        split
        · split
          · split
            · exact h.lasts (modLanding_serves _ (cutPlayer_serves _ _ _ (W.Serves.refl w))).toLasts
            · exact h
          · exact h.lasts (modLanding_serves _ (W.Serves.refl w)).toLasts
          · exact h
        · exact h.lasts (modLand_lasts (fun q => q.onAir) (fun _ => none) (cancelItem_serves _ _ (W.Serves.refl w)).toLasts)

/-- Before the target the landing stands, with its target. -/
theorem reactLanding_target {m : Mode} {n : Nat} (h : w.Handing m n) (ht : (w.ch.seq.landing.map fun l => l.target) = some target)
    (hnow : env.now < target) : ((reactLanding env w).ch.seq.landing.map fun l => l.target) = some target := by
  unfold reactLanding
  split
  · exact ht
  · rename_i l hl
    have hl' : l.target = target := by rw [hl] at ht; exact Option.some.inj ht
    rw [if_pos (by rw [hl']; exact hnow)]
    dsimp only
    split
    · split
      · obtain ⟨-, hjoin⟩ := handJoin_handing (env := env) (w := w) (m := m) (n := n) (l.why w.mode) l.target h.mode
          (fun hs => of_decide_eq_true (h.shadow.symm.trans hs)) h.realign
        rw [hl'] at hjoin ⊢
        exact hjoin
      · exact (keepLanding_serves _ _ _ _ _ (W.Serves.refl w)).target.trans ht
    · exact ht

/-- What settling does before the landing follows. -/
theorem settleOnce_before (env : Env) (w : W) : w.Stages (reactCued env (reactOnAir env (resolveStore env w))) :=
  (reactOnAir_stages env (resolveStore_serves env (W.Serves.refl w)).toStages).trans (reactCued_serves env (W.Serves.refl _)).toStages

theorem settleOnce_after (env : Env) (w : W) : w.Stages (syncLife (takePointer env w)) :=
  syncLife_stages (takePointer_serves env (W.Serves.refl w)).toStages

theorem settleOnce_handing {m : Mode} {n : Nat} (h : w.Handing m n) : (settleOnce env w).Handing m n :=
  (reactLanding_handing (h.lasts (settleOnce_before env w).toLasts)).lasts (settleOnce_after env _).toLasts

theorem settleOnce_target {m : Mode} {n : Nat} (h : w.Handing m n) (ht : (w.ch.seq.landing.map fun l => l.target) = some target)
    (hnow : env.now < target) : ((settleOnce env w).ch.seq.landing.map fun l => l.target) = some target := by
  have hbefore := settleOnce_before env w
  exact (settleOnce_after env _).target.trans
    (reactLanding_target (h.lasts hbefore.toLasts) (hbefore.target.trans ht) hnow)

theorem settleLoop_handing {m : Mode} {n : Nat} (k : Nat) (h : w.Handing m n) : (settleLoop env k w).Handing m n := by
  induction k generalizing w with
  | zero => exact h
  | succ k ih =>
    have hone := settleOnce_handing (env := env) h
    unfold settleLoop
    dsimp only
    split
    · exact hone
    · exact ih hone

theorem settleLoop_target {m : Mode} {n : Nat} (k : Nat) (h : w.Handing m n)
    (ht : (w.ch.seq.landing.map fun l => l.target) = some target) (hnow : env.now < target) :
    ((settleLoop env k w).ch.seq.landing.map fun l => l.target) = some target := by
  induction k generalizing w with
  | zero => exact ht
  | succ k ih =>
    have hone := settleOnce_target h ht hnow
    unfold settleLoop
    dsimp only
    split
    · exact hone
    · exact ih (settleOnce_handing h) hone

theorem settle_cases (env : Env) (w : W) : (settleLoop env 6 w).Serves (settle env w) := by
  unfold settle
  dsimp only
  split
  · exact W.Serves.refl _
  · exact rejudge_serves env (W.Serves.refl _)

theorem settle_handing {m : Mode} {n : Nat} (h : w.Handing m n) : (settle env w).Handing m n :=
  (settleLoop_handing 6 h).lasts (settle_cases env w).toLasts

theorem settle_target {m : Mode} {n : Nat} (h : w.Handing m n) (ht : (w.ch.seq.landing.map fun l => l.target) = some target)
    (hnow : env.now < target) : ((settle env w).ch.seq.landing.map fun l => l.target) = some target :=
  (settle_cases env w).target.trans (settleLoop_target 6 h ht hnow)

/-- A join whose timeline has settled. -/
theorem joinSettled_handing {m : Mode} {n : Nat} (why : JoinFor) (target : Frame) (hmode : w.ch.ctl.mode = m)
    (hshadow : w.ch.seq.shadow = true → m = .mirror) (hrealign : w.ch.seq.realign = n) :
    (joinSettled env why target w).Handing m n := by
  obtain ⟨hjoin, -⟩ := handJoin_handing (env := env) why target hmode hshadow hrealign
  exact settle_handing hjoin

theorem joinSettled_target {m : Mode} {n : Nat} (why : JoinFor) (hmode : w.ch.ctl.mode = m)
    (hshadow : w.ch.seq.shadow = true → m = .mirror) (hrealign : w.ch.seq.realign = n) (hnow : env.now < target) :
    ((joinSettled env why target w).ch.seq.landing.map fun l => l.target) = some target := by
  obtain ⟨hjoin, htarget⟩ := handJoin_handing (env := env) why target hmode hshadow hrealign
  exact settle_target hjoin htarget hnow

end Handed

/-! ## The shadow (R120, R121) -/

theorem map_target_some {x : Option Landing} {t : Frame} (h : (x.map fun l => l.target) = some t) :
    ∃ l, x = some l ∧ l.target = t := Option.map_eq_some_iff.1 h

/-- Settles O33: the shadow's joins, at now plus the preroll lead. -/
theorem theShadowStartsAndRejoins : Obligations.TheShadowStartsAndRejoins := by
  unfold Obligations.TheShadowStartsAndRejoins
  intro c s hpow hmode hlead
  have hnow : (envOf s c).now < (envOf s c).now + (envOf s c).cp.lead := by
    show (s.time.hfn : Int) < s.time.hfn + (s.params.chans[c].lead : Int)
    omega
  refine ⟨fun w hhot hshadow hanchor hw => ?_, fun w hshadow hrealign hw => ?_⟩
  · have hstart : w = joinSettled (envOf s c) .shadow ((envOf s c).now + (envOf s c).cp.lead) (begun s c) := by
      rw [hw]; exact if_pos ⟨hmode, hhot, hshadow, hanchor⟩
    have hjoin := joinSettled_handing (env := envOf s c) (w := begun s c) .shadow ((envOf s c).now + (envOf s c).cp.lead) hmode
      (fun _ => rfl) rfl
    have htarget := joinSettled_target (env := envOf s c) (w := begun s c) .shadow hmode (fun _ => rfl) rfl hnow
    rw [← hstart] at hjoin htarget
    exact ⟨congrArg Host.Outcome.next (live_on hpow), hjoin.mode, hjoin.shadow, map_target_some htarget⟩
  · obtain ⟨u, hu⟩ : ∃ u, u = (begun s c).modSeq fun q => { q with realign := 0 } := ⟨_, rfl⟩
    have hstart : w = joinSettled (envOf s c) .rejoin ((envOf s c).now + (envOf s c).cp.lead) u := by
      rw [hw, hu]; exact if_pos ⟨hmode, hshadow, hrealign⟩
    have humode : u.ch.ctl.mode = .mirror := by rw [hu]; exact hmode
    have huzero : u.ch.seq.realign = 0 := by rw [hu]; rfl
    have hjoin := joinSettled_handing (env := envOf s c) .rejoin ((envOf s c).now + (envOf s c).cp.lead) humode (fun _ => rfl) huzero
    have htarget := joinSettled_target (env := envOf s c) .rejoin humode (fun _ => rfl) huzero hnow
    rw [← hstart] at hjoin htarget
    exact ⟨congrArg Host.Outcome.next (live_on hpow), hjoin.mode, hjoin.shadow, hjoin.realign, map_target_some htarget⟩

end Sys2Proof.Machine

/-! PROOFS. The targets of a switch (R137, R138, R143), and the landing that a join takes from the timeline (R128 to R130). -/

namespace Sys2Proof.Machine

open Sys2Proof

/-! ## A landing keeps its place -/

/-- Whose frames an item airs, and from where. -/
def Item.place (i : Item) : Nat × Nat × Frame × Int := (i.event, i.pass, i.start, i.inPoint)

section Place

variable {env : Env} {p : PlayerId} {w : W}

/-- The landing is handed for a target, with an item that airs from a place. -/
def W.landsAt (target : Frame) (place : Nat × Nat × Frame × Int) (w : W) : Prop :=
  ∃ l, w.ch.seq.landing = some l ∧ l.target = target ∧ l.item.place = place

theorem landsAt_of_stands {v : W} {target : Frame} {place : Nat × Nat × Frame × Int} (h : v.stands = w.stands)
    (hw : w.landsAt target place) : v.landsAt target place := by
  obtain ⟨l, hl, hnamed⟩ := hw
  obtain ⟨hlanding, -, -⟩ := stands_cued h
  exact ⟨l, hlanding.trans hl, hnamed⟩

theorem landsAt_map {target : Frame} {place : Nat × Nat × Frame × Int} {f : Item → Item} (hf : ∀ i, i.place = place → (f i).place = place)
    (hw : w.landsAt target place) : (w.modLanding f).landsAt target place := by
  obtain ⟨l, hl, htarget, hplace⟩ := hw
  refine ⟨{ l with item := f l.item }, ?_, htarget, hf _ hplace⟩
  show (w.ch.seq.landing.map fun l => { l with item := f l.item }) = _
  rw [hl]; rfl

theorem absent_place (i : Item) : i.absent.place = i.place := rfl

theorem cuedFor_place (i : Item) (e : Event) (p : PlayerId) (h : Nat × Bool) : (i.cuedFor e p h).place = i.place := rfl

theorem released_place (i : Item) (avoid : Option PlayerId) : (i.released avoid).place = i.place := rfl

/-- A landing that a player returns keeps its place. -/
theorem itemReturned_landsAt {i : Item} {avoid : Option PlayerId} {target : Frame} (hkind : i.kind ≠ .brk)
    (his : w.ch.isLanding p = true) (hw : w.landsAt target i.place) : (itemReturned p avoid i w).landsAt target i.place := by
  have hseq := dropOwner_seq i w
  obtain ⟨v, hv⟩ : ∃ v, v = w.dropOwner i := ⟨_, rfl⟩
  rw [← hv] at hseq
  have hdrop : v.ch.isLanding p = true := by unfold Chan.isLanding; rw [hseq]; exact his
  have hlands : v.landsAt target i.place := landsAt_of_stands (stands_of_seq hseq) hw
  obtain ⟨l, hl, htarget, -⟩ := hlands
  unfold itemReturned itemAgain
  dsimp only
  rw [if_neg (show ¬ (i.released avoid).kind = .brk from hkind), ← hv, if_pos hdrop]
  split
  · refine ⟨{ l with item := i.released avoid }, ?_, htarget, rfl⟩
    show (v.ch.seq.landing.map fun l => { l with item := i.released avoid }) = _
    rw [hl]; rfl
  · refine ⟨{ l with item := (i.released avoid).absent }, ?_, htarget, rfl⟩
    show (v.ch.seq.landing.map fun l => { l with item := (i.released avoid).absent }) = _
    rw [hl]; rfl

theorem loadLanding_landsAt {l : Landing} {i : Item} (handle : Nat) (roll : Frame) (hl : w.ch.seq.landing = some l)
    (hkind : i.kind ≠ .brk) (hplayer : i.player = some p) :
    (takePointer env (judgeItem env i roll (loadCue env p i handle roll (landedW i w)))).landsAt l.target i.place := by
  have hlanded : (landedW i w).landsAt l.target i.place := ⟨_, landedW_landing hl i, rfl, rfl⟩
  refine landsAt_of_stands (judged_stands ..) ?_
  cases hroom : hasRoom ((landedW i w).player p) with
  | true =>
    obtain ⟨-, hstands, -⟩ := loadCue_room (env := env) (i := i) handle roll hroom
    exact landsAt_of_stands hstands hlanded
  | false =>
    obtain ⟨u, hload, -, hstands, -⟩ := loadCue_full (env := env) (i := i) handle roll hroom
    obtain ⟨hlanding, -, -⟩ := stands_cued hstands
    have his : u.ch.isLanding p = true := by
      unfold Chan.isLanding
      rw [hlanding, landedW_landing hl i]
      exact decide_eq_true hplayer
    rw [hload]
    exact itemReturned_landsAt hkind his (landsAt_of_stands hstands hlanded)

/-- The landing's own cue leaves its target and its place; fill is not cued. -/
theorem cueLanding_landsAt {l : Landing} (hl : w.ch.seq.landing = some l) :
    (cueLanding env w).landsAt l.target l.item.place ∧ (l.item.isPass = false → cueLanding env w = w) := by
  have hhere : w.landsAt l.target l.item.place := ⟨l, hl, rfl, rfl⟩
  have habsent : (w.modLanding Item.absent).landsAt l.target l.item.place := landsAt_map (fun i hi => (absent_place i).trans hi) hhere
  have hfill : (takePointer env ((w.modLanding Item.absent).addSpent l.item none)).landsAt l.target l.item.place :=
    landsAt_of_stands (takePointer_stands ..) (landsAt_of_stands (w := w.modLanding Item.absent) rfl habsent)
  refine ⟨?_, fun hkind => ?_⟩
  · unfold cueLanding
    rw [hl]
    dsimp only
    split
    · exact hhere
    · rename_i hopen
      have hpass : l.item.kind = .pass := by
        refine isPass_kind ?_
        rw [← Bool.not_eq_false]
        exact fun h => hopen (Or.inl h)
      split
      · exact hhere
      · split
        · exact hfill
        · split
          · exact hfill
          · split
            · exact landsAt_of_stands ((takePointer_stands ..).trans (loseWhole_stands ..)) habsent
            · rename_i p hp _ e he _ h hh hend
              exact loadLanding_landsAt (i := l.item.cuedFor e p h) h.1 (rollFrame env l.item) hl
                (by show l.item.kind ≠ .brk; rw [hpass]; decide) rfl
  · unfold cueLanding
    rw [hl]
    exact if_pos (Or.inl hkind)

end Place

/-! ## The landing of a join (R128 to R130) -/

section Join

variable {env : Env} {why : JoinFor} {h : Frame} {w v : W} {x : Item}

theorem rejudge_stands (env : Env) (w : W) : (rejudge env w).stands = w.stands := by
  by_cases hmode : w.ch.ctl.mode = .mirror
  · exact congrArg W.stands (if_pos hmode)
  · refine stands_of_seq ?_
    rw [rejudge_eq env w _ _ _ _ hmode rfl rfl rfl rfl]
    have hjudge : ∀ (o : Option Item) (u : W) (f : Item → Frame), u.ch.seq = w.ch.seq →
        (match o with | some i => judgeTriggers env w.ch.trig.pending i (f i) u | none => u).ch.seq = w.ch.seq := fun o u f hu => by
      cases o with
      | none => exact hu
      | some i => exact (judgeTriggers_seq ..).trans hu
    refine hjudge _ _ _ ?_
    split
    · split
      · refine (judgeTriggers_seq ..).trans ?_
        split
        · split
          · exact dropPending_seq ..
          · exact (judgeTriggers_seq ..).trans (dropPending_seq ..)
        · exact dropPending_seq ..
      · split
        · split
          · exact dropPending_seq ..
          · exact (judgeTriggers_seq ..).trans (dropPending_seq ..)
        · exact dropPending_seq ..
    · split
      · split
        · exact dropPending_seq ..
        · exact (judgeTriggers_seq ..).trans (dropPending_seq ..)
      · exact dropPending_seq ..

theorem landingAt_item (c : Chan) (h : Frame) (hx : x = heldAt c.timeline h) (hstart : x.start ≤ h) :
    (c.landingAt h).place = (x.event, x.pass, h, x.inPoint + (h - x.start)) ∧ (c.landingAt h).kind = x.kind ∧
      (c.landingAt h).stop = x.stop := by
  have hunfold : c.landingAt h =
      { x.trim h with start := h, onAirStart := some h, entry := if x.isPass then some h else none } := by rw [hx]; rfl
  rw [hunfold]
  unfold Item.trim
  split
  · exact ⟨rfl, rfl, rfl⟩
  · rename_i hlate
    have hsame : h = x.start := le_antisymm (not_lt.1 hlate) hstart
    refine ⟨?_, rfl, rfl⟩
    show (x.event, x.pass, h, x.inPoint) = _
    rw [hsame, sub_self, add_zero]

theorem carriedBy_place (p : PlayerId) (held : Option Item) (land : Item) : (land.carriedBy p held).place = land.place := by
  cases held <;> rfl

theorem joinLanding_place (h : Frame) (w : W) : (w.joinLanding h).place = (w.ch.landingAt h).place := by
  unfold W.joinLanding
  split
  · exact carriedBy_place ..
  · rfl

/-- Fill is handed as the timeline gives it. -/
theorem joinLanding_fill {k : FillKind} (hkind : (w.ch.landingAt h).kind = .fill k) : w.joinLanding h = w.ch.landingAt h := by
  have hnone : w.ch.joinCarrier h = none := if_neg (by simp [Item.isPass, hkind])
  unfold W.joinLanding
  rw [hnone]

/-- What a join hands is recorded, whatever becomes of its cue. -/
theorem handJoin_handed (env : Env) (why : JoinFor) (h : Frame) (w : W) :
    (handJoin env why h w).ch.ctl.handed = some (w.ch.handedOf (w.ch.landingAt h) h) := by
  rw [handJoin_eq, (handJoin_after env _).ctl]
  rfl

theorem handJoin_stands (env : Env) (why : JoinFor) (h : Frame) (w : W) : (handJoin env why h w).stands =
    (cueLanding env (handedW why h (w.joinLanding h) (w.ch.handedOf (w.ch.landingAt h) h) (preparedW env why h w))).stands := by
  rw [handJoin_eq, syncLife_stands, rejudge_stands, takePointer_stands]

theorem handedOf_fill {c : Chan} {i : Item} {k : FillKind} (hkind : i.kind = .fill k) : c.handedOf i h = .fill k := by
  unfold Chan.handedOf
  rw [hkind]

theorem handedOf_pass {c : Chan} {i : Item} {e : Event} {o : Frame} (hkind : i.kind = .pass) (he : c.store.event i.event = some e)
    (ho : c.origin i.event = some o) : c.handedOf i h = .pass i.event i.pass (h - o - i.pass * e.duration) (h - o) := by
  unfold Chan.handedOf
  rw [hkind]
  dsimp only
  rw [offsetAt_origin ho, he]

/-- The landing of a join is the timeline's item at the target, from its own offset there on. -/
theorem handJoin_landing (hv : v = handJoin env why h w) (hx : x = heldAt w.ch.timeline h) (hstart : x.start ≤ h) :
    ∃ l, v.ch.seq.landing = some l ∧ l.target = h ∧ l.item.start = h ∧ l.item.event = x.event ∧ l.item.pass = x.pass ∧
      l.item.inPoint = x.inPoint + (h - x.start) ∧
      (∀ k, x.kind = .fill k → v.ch.ctl.handed = some (.fill k) ∧ l.item.kind = .fill k ∧ l.item.stop = x.stop) ∧
      ∀ e o, x.kind = .pass → w.ch.store.event x.event = some e → w.ch.origin x.event = some o →
        v.ch.ctl.handed = some (.pass x.event x.pass (h - o - x.pass * e.duration) (h - o)) := by
  obtain ⟨hplace, hkind, hstop⟩ := landingAt_item w.ch h hx hstart
  obtain ⟨u, hu⟩ : ∃ u, u = handedW why h (w.joinLanding h) (w.ch.handedOf (w.ch.landingAt h) h) (preparedW env why h w) := ⟨_, rfl⟩
  have huland : u.ch.seq.landing = some { item := w.joinLanding h, target := h, rejoin := decide (why = .rejoin) } := by rw [hu]; rfl
  obtain ⟨hlands, hfill⟩ := cueLanding_landsAt (env := env) huland
  have hvstands : v.stands = (cueLanding env u).stands := by rw [hv, hu]; exact handJoin_stands ..
  obtain ⟨l, hl, htarget, hlplace⟩ := landsAt_of_stands hvstands hlands
  have hlplace : l.item.place = (x.event, x.pass, h, x.inPoint + (h - x.start)) := by rw [hlplace, joinLanding_place, hplace]
  have hhanded : v.ch.ctl.handed = some (w.ch.handedOf (w.ch.landingAt h) h) := by rw [hv]; exact handJoin_handed ..
  simp only [Item.place, Prod.mk.injEq] at hlplace
  obtain ⟨hevent, hpass, hlstart, hin⟩ := hlplace
  refine ⟨l, hl, htarget, hlstart, hevent, hpass, hin, fun k hk => ?_, fun e o hk he ho => ?_⟩
  · have hjoin := joinLanding_fill (w := w) (h := h) (hkind.trans hk)
    have hidle := hfill (by show (w.joinLanding h).isPass = false; rw [hjoin]; simp [Item.isPass, hkind, hk])
    have hsame : some l = some { item := w.joinLanding h, target := h, rejoin := decide (why = .rejoin) } := by
      rw [← hl, ← huland]
      obtain ⟨hlanding, -, -⟩ := stands_cued hvstands
      rw [hlanding, hidle]
    cases hsame
    refine ⟨by rw [hhanded, handedOf_fill (hkind.trans hk)], ?_, ?_⟩
    · show (w.joinLanding h).kind = _
      rw [hjoin, hkind, hk]
    · show (w.joinLanding h).stop = _
      rw [hjoin, hstop]
  · simp only [Item.place, Prod.mk.injEq] at hplace
    obtain ⟨hlevent, hlpass, -, -⟩ := hplace
    rw [hhanded, handedOf_pass (e := e) (o := o) (hkind.trans hk) (by rw [hlevent]; exact he) (by rw [hlevent]; exact ho), hlevent,
      hlpass]

end Join

/-! ## The pass that holds a frame (R101) -/

theorem passItem_offset {e : Event} {r : Resolved} {p : Nat} {x : Item} {h : Frame} (hdur : 0 < e.duration)
    (hx : passItem e r p = some x) (hstart : x.start ≤ h) (hend : x.endsAfter h = true) :
    x.event = e.id ∧ x.pass = p ∧ (h - r.origin) / (e.duration : Int) = p ∧
      x.inPoint + (h - x.start) = (e.fieldsFor p false).2.1 + (h - r.origin) % (e.duration : Int) := by
  have hunfold : ∃ kind, passItem e r p = if max r.start (r.origin + p * e.duration) < min r.stop (r.origin + p * e.duration + e.duration)
      then some (Item.fresh kind e.id p (max r.start (r.origin + p * e.duration))
        (some (min r.stop (r.origin + p * e.duration + e.duration)))
        ((e.fieldsFor p false).2.1 + (max r.start (r.origin + p * e.duration) - (r.origin + p * e.duration)))) else none :=
    ⟨_, rfl⟩
  obtain ⟨kind, hunfold⟩ := hunfold
  rw [hunfold] at hx
  split at hx
  case isFalse => cases hx
  case isTrue =>
    cases hx
    have hlow : r.origin + p * e.duration ≤ h := le_trans (le_max_right _ _) hstart
    have hhigh : h < r.origin + p * e.duration + e.duration := lt_of_lt_of_le (of_decide_eq_true hend) (min_le_right _ _)
    have hpos : (0 : Int) < e.duration := by exact_mod_cast hdur
    have hrest : (0 : Int) ≤ h - r.origin - p * e.duration := by linarith
    have hless : (h - r.origin - p * e.duration : Int) < e.duration := by linarith
    have hsplit : (h - r.origin : Int) = (h - r.origin - p * e.duration) + e.duration * p := by ring
    have hdiv : (h - r.origin) / (e.duration : Int) = p := by
      rw [hsplit, Int.add_mul_ediv_left _ _ hpos.ne', Int.ediv_eq_zero_of_lt hrest hless, zero_add]
    have hmod : (h - r.origin) % (e.duration : Int) = h - r.origin - p * e.duration := by
      rw [hsplit, Int.add_mul_emod_self_left, Int.emod_eq_of_lt hrest hless, ← hsplit]
    refine ⟨rfl, rfl, hdiv, ?_⟩
    show (e.fieldsFor p false).2.1 + (max r.start (r.origin + p * e.duration) - (r.origin + p * e.duration)) +
      (h - max r.start (r.origin + p * e.duration)) = _
    rw [hmod]
    ring

/-! ## The handback (R143) -/

/-- Nothing of the standby site is on air, cued, landing or handed, and no shadow runs. -/
structure Chan.HandedBack (c : Chan) : Prop where
  air : c.seq.onAir = none
  landing : c.seq.landing = none
  cued : c.seq.cued = none
  shadow : c.seq.shadow = false
  handed : c.ctl.handed = none

section Back

variable {env : Env} {v w : W}

theorem HandedBack.serves (h : w.ch.HandedBack) (hs : w.Serves v) (hstands : v.stands = w.stands) : v.ch.HandedBack := by
  obtain ⟨hlanding, hcued, -⟩ := stands_cued hstands
  exact ⟨hs.air.trans h.air, hlanding.trans h.landing, hcued.trans h.cued, hs.shadow.trans h.shadow, by rw [hs.ctl]; exact h.handed⟩

theorem syncLife_handedBack (h : w.ch.HandedBack) : (syncLife w).ch.HandedBack := by
  have hstages := syncLife_stages (W.Stages.refl w)
  obtain ⟨hlanding, hcued, -⟩ := stands_cued (syncLife_stands w)
  have hwait : syncWait w = w := by unfold syncWait; rw [h.air]
  have hair : (syncLife w).ch.seq.onAir = none := by
    show (syncWait w).ch.seq.onAir.map _ = none
    rw [hwait, h.air]
    rfl
  exact ⟨hair, hlanding.trans h.landing, hcued.trans h.cued, hstages.shadow.trans h.shadow, by rw [hstages.ctl]; exact h.handed⟩

theorem resolveStore_stands (env : Env) (w : W) : (resolveStore env w).stands = w.stands := by
  unfold resolveStore
  dsimp only
  split <;> rfl

theorem settleOnce_handedBack (h : w.ch.HandedBack) : (settleOnce env w).ch.HandedBack := by
  have hresolved : (resolveStore env w).ch.HandedBack :=
    HandedBack.serves h (resolveStore_serves env (W.Serves.refl w)) (resolveStore_stands env w)
  have hair : reactOnAir env (resolveStore env w) = resolveStore env w := by unfold reactOnAir; rw [hresolved.air]
  have hcued : reactCued env (resolveStore env w) = resolveStore env w := by unfold reactCued; rw [hresolved.cued]
  have hlanding : reactLanding env (resolveStore env w) = resolveStore env w := by unfold reactLanding; rw [hresolved.landing]
  unfold settleOnce
  dsimp only
  rw [hair, hcued, hlanding]
  exact syncLife_handedBack (HandedBack.serves hresolved (takePointer_serves env (W.Serves.refl _)) (takePointer_stands env _))

theorem settleLoop_handedBack (n : Nat) (h : w.ch.HandedBack) : (settleLoop env n w).ch.HandedBack := by
  induction n generalizing w with
  | zero => exact h
  | succ n ih =>
    have hone := settleOnce_handedBack (env := env) h
    unfold settleLoop
    dsimp only
    split
    · exact hone
    · exact ih hone

theorem settle_handedBack (h : w.ch.HandedBack) : (settle env w).ch.HandedBack := by
  have hloop := settleLoop_handedBack (env := env) 6 h
  unfold settle
  dsimp only
  split
  · exact hloop
  · exact HandedBack.serves hloop (rejudge_serves env (W.Serves.refl _)) (rejudge_stands env _)

theorem dropPending_handedBack (leaves : PendTrig → Bool) (h : w.ch.HandedBack) : (w.dropPending leaves).ch.HandedBack :=
  HandedBack.serves h (dropPending_serves leaves (W.Serves.refl w)) (stands_of_seq (dropPending_seq ..))

theorem targetDue_come {m : Mode} {c : Chan} {x : Switch} (hmode : c.ctl.mode = m) (hswitch : c.ctl.switch = some x)
    (hdue : x.target ≤ env.now) : targetDue env m c = some x := by
  unfold targetDue
  rw [hswitch]
  exact if_pos ⟨hmode, hdue⟩

theorem targetDue_early {m : Mode} {c : Chan} {x : Switch} (hswitch : c.ctl.switch = some x) (hearly : env.now < x.target) :
    targetDue env m c = none := by
  unfold targetDue
  rw [hswitch]
  exact if_neg fun h => absurd h.2 (not_le.2 hearly)

theorem handbackTarget_handedBack {x : Switch} (h : targetDue env .returning w.ch = some x) : (handbackTarget env w).ch.HandedBack := by
  unfold handbackTarget
  rw [h]
  refine settle_handedBack (syncLife_handedBack (dropPending_handedBack _ ?_))
  exact ⟨rfl, rfl, rfl, rfl, rfl⟩

end Back

/-! ## The statement -/

section Events

variable {c : Ch} {x : Switch} {s : State}

/-- A waiting TAKEOVER switch starts JOINING once it is due (R137). -/
theorem joiningStart_event (hpow : s.powered = true) (hmode : s.chans[c].ctl.mode = .mirror) (hswitch : s.chans[c].ctl.switch = some x) :
    (x.target - (s.params.chans[c].lead + s.params.chans[c].margin) ≤ s.time.hfn →
      ∃ t, exec (.joiningStart c) s = .next t ∧ Within c s t ∧ t.chans[c].ctl.mode = .joining ∧
        t.chans[c].ctl.handed.isSome = true ∧ t.chans[c].seq.shadow = false ∧
        t.chans[c].ctl.switch = some { x with target := max x.target (s.time.hfn + s.params.chans[c].lead) }) ∧
    ((s.time.hfn : Frame) < x.target - (s.params.chans[c].lead + s.params.chans[c].margin) →
      exec (.joiningStart c) s = .next s) := by
  have hdue : joiningDue (envOf s c) (begun s c).ch =
      if x.target - (s.params.chans[c].lead + s.params.chans[c].margin) ≤ s.time.hfn then some x else none := by
    have hm : (begun s c).ch.ctl.mode = .mirror := hmode
    have hsw : (begun s c).ch.ctl.switch = some x := hswitch
    unfold joiningDue
    rw [hm, hsw]
    rfl
  refine ⟨fun hnow => ?_, fun hearly => ?_⟩
  · rw [if_pos hnow] at hdue
    obtain ⟨t, hexec, hwithin, hchan⟩ := monitor_event (i := .joiningStart c) (op := joiningStart) rfl hpow (joiningStart_rest ..)
    obtain ⟨hm, hsw, -⟩ := rule_ctl (joiningStart_due (envOf s c) (begun s c) x hdue)
    obtain ⟨u, hu⟩ : ∃ u, u = ((begun s c).modCtl fun k => { k with
        switch := some { x with target := max x.target ((envOf s c).now + (envOf s c).cp.lead) }, mode := .joining }).modSeq
      fun q => { q with shadow := false, realign := 0 } := ⟨_, rfl⟩
    have hjoin := joinSettled_handing (env := envOf s c) (w := u) (m := .joining) (n := 0) .takeover
      (max x.target ((envOf s c).now + (envOf s c).cp.lead)) (by rw [hu]; rfl) (fun h => by rw [hu] at h; cases h) (by rw [hu]; rfl)
    obtain ⟨y, hydef⟩ : ∃ y, y = startJoining (envOf s c) x ((envOf s c).now + (envOf s c).cp.lead) (begun s c) := ⟨_, rfl⟩
    have hy : y.ch = (joinSettled (envOf s c) .takeover (max x.target ((envOf s c).now + (envOf s c).cp.lead)) u).ch := by
      rw [hydef, hu]
      exact modeNotice_ch ..
    have hstart : joiningStart (envOf s c) (begun s c) = pump (envOf s c) y := by
      unfold joiningStart
      rw [hdue, hydef]
    have hyjoin : y.Handing .joining 0 :=
      ⟨by rw [hy]; exact hjoin.mode, by rw [hy]; exact hjoin.handed, by rw [hy]; exact hjoin.shadow, by rw [hy]; exact hjoin.realign⟩
    have hfinal := hyjoin.lasts (pump_lasts (envOf s c) (W.Lasts.refl y))
    rw [← hstart] at hfinal
    refine ⟨t, hexec, hwithin, ?_, ?_, ?_, ?_⟩ <;> rw [hchan]
    exacts [hm, hfinal.handed, hfinal.shadow, hsw]
  · rw [if_neg (not_le.2 hearly)] at hdue
    exact congrArg Host.Outcome.next ((live_on hpow).trans (runCh_unmoved (joiningStart_idle _ _ hdue)))

/-- The JOINING target (R138). -/
theorem joiningTarget_event (hpow : s.powered = true) (hmode : s.chans[c].ctl.mode = .joining) (hswitch : s.chans[c].ctl.switch = some x) :
    (x.target ≤ s.time.hfn →
      ∃ t, exec (.joiningTarget c) s = .next t ∧ Within c s t ∧ t.chans[c].ctl.mode = .takeover ∧
        t.chans[c].ctl.switch = none ∧ t.chans[c].ctl.ctx = s.chans[c].ctl.ctx) ∧
    ((s.time.hfn : Frame) < x.target → exec (.joiningTarget c) s = .next s) := by
  refine ⟨fun hnow => ?_, fun hearly => ?_⟩
  · obtain ⟨t, hexec, hwithin, hchan⟩ := monitor_event (i := .joiningTarget c) (op := joiningTarget) rfl hpow (joiningTarget_rest ..)
    obtain ⟨hm, hsw, hctx, -⟩ := rule_ctl (joiningTarget_due (envOf s c) (begun s c) x (targetDue_come hmode hswitch hnow))
    refine ⟨t, hexec, hwithin, ?_, ?_, ?_⟩ <;> rw [hchan]
    exacts [hm, hsw, hctx]
  · have hidle : joiningTarget (envOf s c) (begun s c) = begun s c := by
      unfold joiningTarget
      rw [targetDue_early (c := (begun s c).ch) hswitch hearly]
    exact congrArg Host.Outcome.next ((live_on hpow).trans (runCh_unmoved hidle))

/-- The RETURNING target (R143). -/
theorem handbackTarget_event (hpow : s.powered = true) (hmode : s.chans[c].ctl.mode = .returning)
    (hswitch : s.chans[c].ctl.switch = some x) :
    (x.target ≤ s.time.hfn →
      ∃ t, exec (.handbackTarget c) s = .next t ∧ Within c s t ∧ t.chans[c].ctl.mode = .mirror ∧
        t.chans[c].ctl.switch = none ∧ t.chans[c].ctl.handed = none ∧ t.chans[c].seq.onAir = none ∧
        t.chans[c].seq.landing = none ∧ t.chans[c].seq.cued = none ∧ t.chans[c].seq.shadow = false) ∧
    ((s.time.hfn : Frame) < x.target → exec (.handbackTarget c) s = .next s) := by
  refine ⟨fun hnow => ?_, fun hearly => ?_⟩
  · obtain ⟨t, hexec, hwithin, hchan⟩ := monitor_event (i := .handbackTarget c) (op := handbackTarget) rfl hpow (handbackTarget_rest ..)
    have hdue : targetDue (envOf s c) .returning (begun s c).ch = some x := targetDue_come hmode hswitch hnow
    obtain ⟨hm, hsw, -⟩ := rule_ctl (handbackTarget_due (envOf s c) (begun s c) x hdue)
    obtain ⟨hair, hlanding, hcued, hshadow, hhanded⟩ := handbackTarget_handedBack hdue
    refine ⟨t, hexec, hwithin, ?_, ?_, ?_, ?_, ?_, ?_, ?_⟩ <;> rw [hchan]
    exacts [hm, hsw, hhanded, hair, hlanding, hcued, hshadow]
  · have hidle : handbackTarget (envOf s c) (begun s c) = begun s c := by
      unfold handbackTarget
      rw [targetDue_early (c := (begun s c).ch) hswitch hearly]
    exact congrArg Host.Outcome.next ((live_on hpow).trans (runCh_unmoved hidle))

end Events

/-- Settles O26: the three targets, the landing of a join, and the pass that holds it. -/
theorem switchesReachTheirTargets : Obligations.SwitchesReachTheirTargets := by
  unfold Obligations.SwitchesReachTheirTargets
  exact ⟨⟨fun c x s hpow hmode hswitch => joiningStart_event hpow hmode hswitch,
      fun c x s hpow hmode hswitch => joiningTarget_event hpow hmode hswitch⟩,
    fun c x s hpow hmode hswitch => handbackTarget_event hpow hmode hswitch,
    fun env why h w v x hv hx hstart => handJoin_landing hv hx hstart,
    fun e r p x h hdur hx hstart hend => passItem_offset hdur hx hstart hend⟩

end Sys2Proof.Machine

/-! PROOFS. A channel reset's players (R108, R125, R198): each is stopped or loses its queued cue, and nothing but STOPs stays queued. -/

namespace Sys2Proof.Machine

open Sys2Proof

/-! ## The queue of a player (R106) -/

theorem mem_insertReq {x q : Nat × PReq} {l : List (Nat × PReq)} : q ∈ insertReq x l ↔ q = x ∨ q ∈ l := by
  induction l with
  | nil => simp [insertReq]
  | cons y ys ih =>
    unfold insertReq
    split
    · rw [List.mem_cons, ih, List.mem_cons]
      exact or_left_comm
    · exact List.mem_cons

theorem mem_dropFirst {f : Nat × PReq → Bool} {q : Nat × PReq} {l : List (Nat × PReq)} (h : q ∈ dropFirst f l) : q ∈ l := by
  induction l with
  | nil => exact h
  | cons y ys ih =>
    unfold dropFirst at h
    split at h
    · exact List.mem_cons_of_mem _ h
    · rcases List.mem_cons.1 h with rfl | hmem
      · exact List.mem_cons_self
      · exact List.mem_cons_of_mem _ (ih hmem)

theorem mem_moveStop {f : Frame} {q : Nat × PReq} {l : List (Nat × PReq)} (h : q ∈ moveStop f l) : q.2 = .stop f ∨ q ∈ l := by
  induction l with
  | nil => exact Or.inr h
  | cons y ys ih =>
    unfold moveStop at h
    split at h
    · rcases List.mem_cons.1 h with rfl | hmem
      · exact Or.inl rfl
      · exact Or.inr (List.mem_cons_of_mem _ hmem)
    · rcases List.mem_cons.1 h with rfl | hmem
      · exact Or.inr List.mem_cons_self
      · rcases ih hmem with hstop | hold
        · exact Or.inl hstop
        · exact Or.inr (List.mem_cons_of_mem _ hold)

/-- The newest queued STOP has the new frame. -/
theorem moveStop_moved {f : Frame} {l : List (Nat × PReq)} (h : ∃ q ∈ l, q.2.isStop = true) : ∃ q ∈ moveStop f l, q.2 = .stop f := by
  induction l with
  | nil =>
    obtain ⟨q, hq, -⟩ := h
    cases hq
  | cons y ys ih =>
    unfold moveStop
    by_cases hmore : ∃ q ∈ ys, q.2.isStop = true
    · obtain ⟨q, hq, hstop⟩ := ih hmore
      rw [if_neg (by simpa using fun _ => hmore)]
      exact ⟨q, List.mem_cons_of_mem _ hq, hstop⟩
    · have hhead : y.2.isStop = true := by
        obtain ⟨q, hq, hstop⟩ := h
        rcases List.mem_cons.1 hq with rfl | hmem
        · exact hstop
        · exact absurd ⟨q, hmem, hstop⟩ hmore
      rw [if_pos (by simpa [hhead] using hmore)]
      exact ⟨_, List.mem_cons_self, rfl⟩

/-! ## Requests reach their player -/

/-- A request is in flight or queued. -/
def Player.asked (r : PReq) (x : Player) : Prop := (∃ g, x.flight = some g ∧ g.req = r) ∨ ∃ q ∈ x.queue, q.2 = r

section Requests

variable {env : Env} {p q : PlayerId} {r : PReq} {frame : Frame} {v w : W}

/-- A request submitted is in flight or queued, with those queued before it. -/
theorem submit_asked (env : Env) (p : PlayerId) (r : PReq) (w : W) : ((submit env p r w).player p).asked r ∧
    ∀ q ∈ ((submit env p r w).player p).queue, q.2 = r ∨ q ∈ (w.player p).queue := by
  obtain ⟨u, hu⟩ : ∃ u, u = w.modPlayer p fun x => { x with queue := insertReq (x.tags, r) x.queue, tags := (x.tags + 1) % two16 } :=
    ⟨_, rfl⟩
  have hqueue : (u.player p).queue = insertReq ((w.player p).tags, r) (w.player p).queue := by rw [hu, W.modPlayer_player]
  have hmem : ∀ q ∈ (u.player p).queue, q.2 = r ∨ q ∈ (w.player p).queue := fun q hq => by
    rw [hqueue, mem_insertReq] at hq
    rcases hq with rfl | hq
    · exact Or.inl rfl
    · exact Or.inr hq
  have hin : ((w.player p).tags, r) ∈ (u.player p).queue := by rw [hqueue, mem_insertReq]; exact Or.inl rfl
  have hsubmit : submit env p r w = sendNext env p u := by rw [hu]; rfl
  rw [hsubmit]
  unfold sendNext
  dsimp only
  split
  · rename_i tag req rest hnone hsent
    rw [emit_player, W.modPlayer_player]
    refine ⟨?_, fun q hq => hmem q (by rw [hsent]; exact List.mem_cons_of_mem _ hq)⟩
    rw [hsent] at hin
    rcases List.mem_cons.1 hin with hhead | hrest
    · exact Or.inl ⟨_, rfl, (congrArg Prod.snd hhead).symm⟩
    · exact Or.inr ⟨_, hrest, rfl⟩
  · exact ⟨Or.inr ⟨_, hin, rfl⟩, hmem⟩

theorem submit_other (hne : p ≠ q) (r : PReq) (w : W) : (submit env q r w).player p = w.player p := by
  unfold submit sendNext
  dsimp only
  split
  · rw [emit_player, W.modPlayer_other _ _ _ _ hne, W.modPlayer_other _ _ _ _ hne]
  · rw [W.modPlayer_other _ _ _ _ hne]

theorem makeRoom_other (hne : p ≠ q) (w : W) : (makeRoom q w).player p = w.player p := by
  unfold makeRoom
  split
  · rfl
  · exact W.modPlayer_other _ _ _ _ hne

theorem failQueuedCue_other (hne : p ≠ q) (w : W) : (failQueuedCue q w).player p = w.player p := by
  unfold failQueuedCue
  dsimp only
  split
  · rw [hands_player (itemReturned_hands ..) p, clearCue, W.modPlayer_other _ _ _ _ hne]
  · rfl

theorem issueStop_other (hne : p ≠ q) (frame : Frame) (w : W) : (issueStop env q frame w).player p = w.player p := by
  unfold issueStop
  dsimp only
  split
  · rw [W.modPlayer_other _ _ _ _ hne, W.modPlayer_other _ _ _ _ hne]
  · split
    · rw [submit_other hne, makeRoom_other hne, W.modPlayer_other _ _ _ _ hne]
    · split
      · rw [submit_other hne, failQueuedCue_other hne, W.modPlayer_other _ _ _ _ hne, W.modPlayer_other _ _ _ _ hne]
      · rw [submit_other hne, W.modPlayer_other _ _ _ _ hne, W.modPlayer_other _ _ _ _ hne]

/-- The owner of a player's item drops it. -/
def droppedW (p : PlayerId) (w : W) : W :=
  match (w.player p).loaded with
  | some i => w.dropOwner i
  | none => w

theorem droppedW_player (p q : PlayerId) (w : W) : (droppedW q w).player p = w.player p := by
  unfold droppedW
  split
  · exact hands_player (dropOwner_hands ..) p
  · rfl

/-- The state of a player that loses its queued CUE: a STOP of it is still held. -/
def Player.uncued (x : Player) : PState :=
  if x.queue.any (fun y => y.2.isStop) || (match x.flight with | some f => f.req.isStop | none => false) then .stopping else .idle

theorem cancelCue_eq (env : Env) (p : PlayerId) (w : W) : cancelCue env p w =
    if (w.player p).cueQueued then
      clearCue p (w.player p).uncued ((droppedW p w).modPlayer p fun x => { x with queue := x.queue.filter fun y => !y.2.isCue })
    else stopAtOnce env p env.now (droppedW p w) := rfl

theorem cancelCue_other (hne : p ≠ q) (w : W) : (cancelCue env q w).player p = w.player p := by
  rw [cancelCue_eq]
  split
  · rw [clearCue, W.modPlayer_other _ _ _ _ hne, W.modPlayer_other _ _ _ _ hne, droppedW_player]
  · rw [stopAtOnce, W.modPlayer_other _ _ _ _ hne, issueStop_other hne, droppedW_player]

theorem stopHolder_other (hne : p ≠ q) (frame : Frame) (w : W) : (stopHolder env frame q w).player p = w.player p := by
  unfold stopHolder
  dsimp only
  split
  · exact cancelCue_other hne w
  · split
    · rw [stopAtOnce, W.modPlayer_other _ _ _ _ hne, issueStop_other hne]
    · rfl

/-! ## A player that is stopped (R108, R125) -/

theorem hold_stopF {x y : Player} (h : x.hold = y.hold) : x.stopF = y.stopF := by
  simp only [Player.hold, Prod.mk.injEq] at h
  obtain ⟨-, -, -, -, hstop, -⟩ := h
  exact hstop

theorem cueQueued_not {x : Player} (h : ∀ q ∈ x.queue, q.2.isCue = false) : x.cueQueued = false := by
  rw [← Bool.not_eq_true, cueQueued_iff]
  rintro ⟨q, hq, hcue⟩
  rw [h q hq] at hcue
  cases hcue

/-- A STOP on a player without a queued CUE is in flight or queued, with its frame; no CUE joins. -/
theorem issueStop_asked (hcues : ∀ q ∈ (w.player p).queue, q.2.isCue = false) :
    ((issueStop env p frame w).player p).asked (.stop frame) ∧ ((issueStop env p frame w).player p).stopF = some frame ∧
      ∀ q ∈ ((issueStop env p frame w).player p).queue, q.2.isCue = false := by
  have hsubmitted : ∀ u : W, (u.player p).stopF = some frame → (∀ q ∈ (u.player p).queue, q ∈ (w.player p).queue) →
      ((submit env p (.stop frame) u).player p).asked (.stop frame) ∧ ((submit env p (.stop frame) u).player p).stopF = some frame ∧
        ∀ q ∈ ((submit env p (.stop frame) u).player p).queue, q.2.isCue = false := fun u hstop hqueue => by
    obtain ⟨hasked, hmem⟩ := submit_asked env p (.stop frame) u
    obtain ⟨-, -, hhold⟩ := submit_slots env p (.stop frame) u
    have hstopF := hold_stopF hhold
    refine ⟨hasked, hstopF.trans hstop, fun q hq => ?_⟩
    rcases hmem q hq with h | h
    · rw [h]; rfl
    · exact hcues q (hqueue q h)
  obtain ⟨u, hu⟩ : ∃ u, u = w.modPlayer p fun x => { x with stopF := some frame, stopConfirmed := false } := ⟨_, rfl⟩
  have hplayer : u.player p = { w.player p with stopF := some frame, stopConfirmed := false } := by rw [hu, W.modPlayer_player]
  have hustop : (u.player p).stopF = some frame := by rw [hplayer]
  have huqueue : (u.player p).queue = (w.player p).queue := by rw [hplayer]
  cases hown : (w.player p).ownStopQueued with
  | true =>
    obtain ⟨-, hstop⟩ := (ownStopQueued_iff _).1 hown
    rw [issueStop_own env p frame w hown, W.modPlayer_player]
    refine ⟨Or.inr (moveStop_moved hstop), rfl, fun q hq => ?_⟩
    rcases mem_moveStop hq with h | h
    · rw [h]; rfl
    · exact hcues q h
  | false =>
    have hstep : issueStop env p frame w = if hasRoom (w.player p) then submit env p (.stop frame) (makeRoom p u)
        else submit env p (.stop frame) (u.modPlayer p fun x => { x with queue := x.queue.drop 1 }) := by
      rw [hu]
      unfold issueStop
      dsimp only
      rw [if_neg (by rw [hown]; exact Bool.false_ne_true)]
      split
      · rfl
      · rw [if_neg (by rw [cueQueued_not hcues]; exact Bool.false_ne_true)]
    rw [hstep]
    split
    · obtain ⟨-, -, hhold⟩ := makeRoom_slots p u
      have hstopF := hold_stopF hhold
      refine hsubmitted _ (hstopF.trans hustop) fun q hq => ?_
      unfold makeRoom at hq
      split at hq
      · rw [huqueue] at hq; exact hq
      · rw [W.modPlayer_player, huqueue] at hq
        exact mem_dropFirst hq
    · refine hsubmitted _ (by rw [W.modPlayer_player]; exact hustop) fun q hq => ?_
      rw [W.modPlayer_player, huqueue] at hq
      exact List.mem_of_mem_drop hq

/-- What a reset makes of a player, before its queries go. -/
def StoppedAt (frame : Frame) (x y : Player) : Prop :=
  (∀ q ∈ y.queue, q.2.isCue = false) ∧
  ((∀ q ∈ x.queue, q.2.isCue = false) →
    (x.state = .cueing ∨ x.state = .cued ∨ x.state = .playing →
      y.state = .stopping ∧ y.loaded = none ∧ y.stopF = some frame ∧ y.asked (.stop frame)) ∧
    (x.state = .idle ∨ x.state = .stopping ∨ x.state = .fault → y = x)) ∧
  ((∃ q ∈ x.queue, q.2.isCue = true) → y.loaded = none ∧ y.flight = x.flight ∧ y.tags = x.tags ∧
    y.state = (if (∃ q ∈ x.queue, q.2.isStop = true) ∨ (∃ g, x.flight = some g ∧ g.req.isStop = true) then .stopping else .idle))

theorem not_cueing {x : PState} (h : x = .idle ∨ x = .stopping ∨ x = .fault) : ¬ (x = .cueing ∨ x = .cued ∨ x = .playing) := by
  rcases h with rfl | rfl | rfl <;> decide

/-- A STOP of a player is held where one is queued or in flight. -/
theorem uncued_eq (x : Player) : x.uncued =
    if (∃ q ∈ x.queue, q.2.isStop = true) ∨ (∃ g, x.flight = some g ∧ g.req.isStop = true) then .stopping else .idle := by
  have hheld : (x.queue.any (fun y => y.2.isStop) || (match x.flight with | some f => f.req.isStop | none => false)) = true ↔
      (∃ q ∈ x.queue, q.2.isStop = true) ∨ (∃ g, x.flight = some g ∧ g.req.isStop = true) := by
    rw [Bool.or_eq_true, List.any_eq_true]
    cases x.flight <;> simp
  unfold Player.uncued
  exact ite_congr (propext hheld) (fun _ => rfl) fun _ => rfl

/-- A player that loses its queued CUE. -/
theorem cancelCue_queued (hcue : ∃ q ∈ (w.player p).queue, q.2.isCue = true) : (cancelCue env p w).player p =
    { w.player p with
      queue := (w.player p).queue.filter fun y => !y.2.isCue
      state := (w.player p).uncued
      loaded := none
      roll := none
      endF := none
      stopF := none
      stopConfirmed := false } := by
  rw [cancelCue_eq, if_pos ((cueQueued_iff _).2 hcue), clearCue, W.modPlayer_player, W.modPlayer_player, droppedW_player]

theorem stopHolder_stopped (env : Env) (frame : Frame) (p : PlayerId) (w : W) :
    StoppedAt frame (w.player p) ((stopHolder env frame p w).player p) := by
  by_cases hcue : ∃ q ∈ (w.player p).queue, q.2.isCue = true
  · have hstep : stopHolder env frame p w = cancelCue env p w := if_pos ((cueQueued_iff _).2 hcue)
    rw [hstep, cancelCue_queued hcue]
    refine ⟨fun q hq => ?_, fun hnone => ?_, fun _ => ⟨rfl, rfl, rfl, uncued_eq _⟩⟩
    · simpa using (List.mem_filter.1 hq).2
    · obtain ⟨q, hq, his⟩ := hcue
      rw [hnone q hq] at his
      cases his
  · have hcues : ∀ q ∈ (w.player p).queue, q.2.isCue = false := fun q hq => by
      rw [← Bool.not_eq_true]
      exact fun his => hcue ⟨q, hq, his⟩
    have hstep : stopHolder env frame p w =
        if (w.player p).state = .cueing ∨ (w.player p).state = .cued ∨ (w.player p).state = .playing then stopAtOnce env p frame w
        else w := if_neg (by rw [cueQueued_not hcues]; exact Bool.false_ne_true)
    rw [hstep]
    by_cases hstate : (w.player p).state = .cueing ∨ (w.player p).state = .cued ∨ (w.player p).state = .playing
    · obtain ⟨hasked, hstop, hleft⟩ := issueStop_asked (env := env) (frame := frame) hcues
      rw [if_pos hstate, stopAtOnce, W.modPlayer_player]
      exact ⟨hleft, fun _ => ⟨fun _ => ⟨rfl, rfl, hstop, hasked⟩, fun h => absurd hstate (not_cueing h)⟩, fun h => absurd h hcue⟩
    · rw [if_neg hstate]
      exact ⟨hcues, fun _ => ⟨fun h => absurd h hstate, fun _ => rfl⟩, fun h => absurd h hcue⟩

/-! ## The players after a reset -/

/-- A player whose queries and late-frame run are cleared. -/
def Player.quieted (x : Player) : Player := { x with queue := x.queue.filter fun y => !y.2.isQuery, lateRun := 0 }

theorem stopped_queue {frame : Frame} {x y : Player} (h : StoppedAt frame x y) : ∀ q ∈ y.quieted.queue, q.2.isStop = true := by
  intro q hq
  obtain ⟨hmem, hquery⟩ := List.mem_filter.1 hq
  obtain ⟨hcues, -⟩ := h
  have hcue := hcues q hmem
  obtain ⟨tag, r⟩ := q
  cases r with
  | stop f => rfl
  | cue a b c d => cases hcue
  | query a => cases hquery

theorem asked_quieted {x : Player} {f : Frame} (h : x.asked (.stop f)) : x.quieted.asked (.stop f) := by
  rcases h with h | ⟨q, hq, hstop⟩
  · exact Or.inl h
  · exact Or.inr ⟨q, List.mem_filter.2 ⟨hq, by rw [hstop]; rfl⟩, hstop⟩

/-- The players' stops, in their order. -/
def stoppedW (env : Env) (w : W) : W := stopHolder env (env.now + 2) .b (stopHolder env (env.now + 2) .a w)

theorem stoppedW_player (env : Env) (p : PlayerId) (w : W) : StoppedAt (env.now + 2) (w.player p) ((stoppedW env w).player p) := by
  unfold stoppedW
  cases p with
  | a =>
    rw [stopHolder_other (p := .a) (q := .b) (by decide)]
    exact stopHolder_stopped env (env.now + 2) .a w
  | b =>
    have hfirst : (stopHolder env (env.now + 2) .a w).player .b = w.player .b := stopHolder_other (by decide) _ _
    have hsecond := stopHolder_stopped env (env.now + 2) .b (stopHolder env (env.now + 2) .a w)
    rw [hfirst] at hsecond
    exact hsecond

/-- What a reset clears of the Sequencer once its players are stopped. -/
def clearedW (w : W) : W :=
  ((((endContext w).modPlayer .a Player.quieted).modPlayer .b Player.quieted).modSeq fun q => { q with sweep := none })

theorem resetPlayers_eq (env : Env) (w : W) : resetPlayers env w = clearedW (stoppedW env w) := rfl

/-- The Sequencer then is idle but for its players. -/
theorem clearedW_seq (w : W) : (clearedW w).ch.seq =
    { Seq.reset with a := (w.player .a).quieted, b := (w.player .b).quieted } := rfl

theorem clearedW_parts (w : W) : (clearedW w).ch.out = w.ch.out ∧ (clearedW w).ch.store = w.ch.store ∧
    (clearedW w).ch.ctl = w.ch.ctl ∧ (clearedW w).fx = w.fx := ⟨rfl, rfl, rfl, rfl⟩

end Requests

end Sys2Proof.Machine

/-! PROOFS. What a channel reset hands on (R179, R198): its record is the last one, and a running digest scan is answered. -/

namespace Sys2Proof.Machine

open Sys2Proof

/-! ## Operations that only ask their players -/

/-- Nothing but a record. -/
def Effect.isRecord : Effect → Bool
  | .record _ => true
  | _ => false

/-- The scan, the REFRESH generation and the anchor stand, and CURRENT holds the same events (R31). -/
structure Store.Alike (t u : Store) : Prop where
  scan : u.scan = t.scan
  refresh : u.refresh = t.refresh
  anchor : u.anchor = t.anchor
  core : u.current.map Event.core = t.current.map Event.core

theorem Store.Alike.refl (t : Store) : t.Alike t := ⟨rfl, rfl, rfl, rfl⟩

theorem Store.Alike.trans {t u v : Store} (a : t.Alike u) (b : u.Alike v) : t.Alike v :=
  ⟨b.scan.trans a.scan, b.refresh.trans a.refresh, b.anchor.trans a.anchor, b.core.trans a.core⟩

/-- The output and the store stand, but for marks and lifecycles, and no record is made. -/
structure W.Asks (v w : W) : Prop where
  out : w.ch.out = v.ch.out
  store : v.ch.store.Alike w.ch.store
  fx : ∃ l, w.fx = v.fx ++ l ∧ ∀ e ∈ l, e.isRecord = false

section Asks

variable {u v w : W}

theorem W.Asks.trans (a : u.Asks v) (b : v.Asks w) : u.Asks w := by
  obtain ⟨l, hl, hnone⟩ := a.fx
  obtain ⟨m, hm, hnone'⟩ := b.fx
  refine ⟨b.out.trans a.out, a.store.trans b.store, l ++ m, by rw [hm, hl, List.append_assoc], fun e he => ?_⟩
  rcases List.mem_append.1 he with h | h
  · exact hnone e h
  · exact hnone' e h

theorem asks_of_eq (hout : w.ch.out = v.ch.out) (hstore : w.ch.store = v.ch.store) (hfx : w.fx = v.fx) : v.Asks w :=
  ⟨hout, hstore ▸ Store.Alike.refl _, [], by rw [hfx, List.append_nil], fun _ h => by cases h⟩

theorem W.Asks.refl (w : W) : w.Asks w := asks_of_eq rfl rfl rfl

theorem modSeq_asks (f : Seq → Seq) (h : v.Asks w) : v.Asks (w.modSeq f) := h.trans (asks_of_eq rfl rfl rfl)
theorem modPlayer_asks (p : PlayerId) (f : Player → Player) (h : v.Asks w) : v.Asks (w.modPlayer p f) := h.trans (asks_of_eq rfl rfl rfl)

theorem emit_asks {e : Effect} (he : e.isRecord = false) (h : v.Asks w) : v.Asks (w.emit e) :=
  h.trans ⟨rfl, Store.Alike.refl _, [e], rfl, fun x hx => by rw [List.mem_singleton.1 hx]; exact he⟩

theorem modStore_asks (f : Store → Store) (hf : w.ch.store.Alike (f w.ch.store)) (h : v.Asks w) : v.Asks (w.modStore f) :=
  h.trans ⟨rfl, hf, [], (List.append_nil _).symm, fun _ hx => by cases hx⟩

theorem setMark_core (i : Nat) (x : Option Frame) (e : Event) : (e.setMark i x).core = e.core := rfl

theorem setMark_asks (event i : Nat) (x : Option Frame) (h : v.Asks w) : v.Asks (w.setMark event i x) := by
  refine modStore_asks _ ⟨rfl, rfl, rfl, ?_⟩ h
  simp only [Store.modEvent, List.map_map]
  refine List.map_congr_left fun e _ => ?_
  simp only [Function.comp]
  split
  · exact setMark_core i x e
  · rfl

theorem setMarks_asks (l : List PendTrig) (h : v.Asks w) : v.Asks (l.foldl (fun w t => w.setMark t.event t.index none) w) := by
  induction l generalizing w with
  | nil => exact h
  | cons t ts ih => exact ih (setMark_asks _ _ _ h)

theorem dropOwner_asks (i : Item) (h : v.Asks w) : v.Asks (w.dropOwner i) :=
  setMarks_asks _ (h.trans (asks_of_eq rfl rfl rfl))

theorem sendNext_asks (env : Env) (p : PlayerId) (h : v.Asks w) : v.Asks (sendNext env p w) := by
  unfold sendNext
  dsimp only
  split
  · exact emit_asks rfl (modPlayer_asks _ _ h)
  · exact h

theorem submit_asks (env : Env) (p : PlayerId) (r : PReq) (h : v.Asks w) : v.Asks (submit env p r w) :=
  sendNext_asks env p (modPlayer_asks _ _ h)

theorem makeRoom_asks (p : PlayerId) (h : v.Asks w) : v.Asks (makeRoom p w) := by
  unfold makeRoom
  split
  · exact h
  · exact modPlayer_asks _ _ h

theorem itemReturned_asks (p : PlayerId) (avoid : Option PlayerId) (i : Item) (h : v.Asks w) : v.Asks (itemReturned p avoid i w) := by
  have hdrop := dropOwner_asks i h
  unfold itemReturned itemAgain
  dsimp only
  split
  · exact modSeq_asks _ hdrop
  · split
    · split
      · exact modSeq_asks _ hdrop
      · exact modSeq_asks _ (modSeq_asks _ hdrop)
    · split
      · exact modSeq_asks _ (modSeq_asks _ hdrop)
      · exact modSeq_asks _ (modSeq_asks _ (modSeq_asks _ hdrop))

theorem failQueuedCue_asks (p : PlayerId) (h : v.Asks w) : v.Asks (failQueuedCue p w) := by
  unfold failQueuedCue
  dsimp only
  split
  · exact itemReturned_asks p _ _ (modPlayer_asks _ _ h)
  · exact h

theorem issueStop_asks (env : Env) (p : PlayerId) (frame : Frame) (h : v.Asks w) : v.Asks (issueStop env p frame w) := by
  unfold issueStop
  dsimp only
  split
  · exact modPlayer_asks _ _ (modPlayer_asks _ _ h)
  · split
    · exact submit_asks env p _ (makeRoom_asks p (modPlayer_asks _ _ h))
    · split
      · exact submit_asks env p _ (failQueuedCue_asks p (modPlayer_asks _ _ (modPlayer_asks _ _ h)))
      · exact submit_asks env p _ (modPlayer_asks _ _ (modPlayer_asks _ _ h))

theorem stopAtOnce_asks (env : Env) (p : PlayerId) (frame : Frame) (h : v.Asks w) : v.Asks (stopAtOnce env p frame w) := by
  unfold stopAtOnce
  exact modPlayer_asks _ _ (issueStop_asks env p frame h)

theorem droppedW_asks (p : PlayerId) (h : v.Asks w) : v.Asks (droppedW p w) := by
  unfold droppedW
  split
  · exact dropOwner_asks _ h
  · exact h

theorem cancelCue_asks (env : Env) (p : PlayerId) (h : v.Asks w) : v.Asks (cancelCue env p w) := by
  rw [cancelCue_eq]
  split
  · exact modPlayer_asks _ _ (modPlayer_asks _ _ (droppedW_asks p h))
  · exact stopAtOnce_asks env p _ (droppedW_asks p h)

theorem stopHolder_asks (env : Env) (frame : Frame) (p : PlayerId) (h : v.Asks w) : v.Asks (stopHolder env frame p w) := by
  unfold stopHolder
  dsimp only
  split
  · exact cancelCue_asks env p h
  · split
    · exact stopAtOnce_asks env p frame h
    · exact h

theorem stoppedW_asks (env : Env) (h : v.Asks w) : v.Asks (stoppedW env w) := stopHolder_asks env _ .b (stopHolder_asks env _ .a h)

theorem resetPlayers_asks (env : Env) (w : W) : w.Asks (resetPlayers env w) := by
  obtain ⟨u, hu⟩ : ∃ u, u = stoppedW env w := ⟨_, rfl⟩
  have hasks : w.Asks u := hu ▸ stoppedW_asks env (W.Asks.refl w)
  obtain ⟨hout, hstore, -, hfx⟩ := clearedW_parts u
  rw [resetPlayers_eq, ← hu]
  exact hasks.trans (asks_of_eq hout hstore hfx)

end Asks

end Sys2Proof.Machine

/-! PROOFS. A channel reset, whole (R198). -/

namespace Sys2Proof.Machine

open Sys2Proof

/-! ## The log while effects are handed on (R179) -/

/-- The ring and the TRIGGER records that wait stand. -/
def SameRing (s t : State) : Prop := t.log.ring = s.log.ring ∧ t.log.triggers = s.log.triggers

theorem SameRing.trans {s t u : State} (a : SameRing s t) (b : SameRing t u) : SameRing s u :=
  ⟨b.1.trans a.1, b.2.trans a.2⟩

theorem asRunTest_ring (fuel : Nat) (s : State) : SameRing s (asRunTest fuel s) := by
  induction fuel generalizing s with
  | zero => exact ⟨rfl, rfl⟩
  | succ fuel ih =>
    unfold asRunTest
    split
    · rename_i n _
      have hlog : SameRing s (emitAsRun n s) := by
        unfold emitAsRun SameRing
        dsimp only
        rw [notice_log]
        exact ⟨rfl, rfl⟩
      exact hlog.trans (ih _)
    · exact ⟨rfl, rfl⟩

theorem append_ring (s : State) (r : RecProto) : (s.append r).log.ring = (s.log.append r).ring ∧
    (s.append r).log.triggers = s.log.triggers := asRunTest_ring _ _

theorem appendAll_triggers (l : List RecProto) (s : State) : (l.foldl State.append s).log.triggers = s.log.triggers := by
  induction l generalizing s with
  | nil => rfl
  | cons r l ih => rw [List.foldl_cons, ih, (append_ring s r).2]

/-- The records that were picked wait no longer. -/
theorem appendTriggers_left (pick : RecProto → Bool) (s : State) :
    (s.appendTriggers pick).log.triggers = s.log.triggers.filter fun r => !pick r := appendAll_triggers _ _

theorem applyEffect_log {e : Effect} (he : e.isRecord = false) (c : Ch) (s : State) : (applyEffect c s e).log = s.log := by
  cases e with
  | record r => cases he
  | notice f ch n => exact notice_log s f ch n
  | request p tag r => exact transmit_log s _ _
  | reply addr f code tag ch st body => exact transmit_log s _ _

theorem applyAll_log {l : List Effect} (hl : ∀ e ∈ l, e.isRecord = false) (c : Ch) (s : State) :
    (l.foldl (applyEffect c) s).log = s.log := by
  induction l generalizing s with
  | nil => rfl
  | cons e l ih =>
    rw [List.foldl_cons, ih (fun x hx => hl x (List.mem_cons_of_mem _ hx)), applyEffect_log (hl e List.mem_cons_self)]

/-- A reply among the effects leaves. -/
theorem applyAll_reply {l : List Effect} {addr : Option (Port × Nat)} {f : CtlFlow} {code tag ch : Nat} {st : Status} {body : ReplyBody}
    (h : Effect.reply addr f code tag ch st body ∈ l) (c : Ch) (s : State) :
    ∀ o ∈ leaves s addr (.reply f code tag ch st body), o ∈ (l.foldl (applyEffect c) s).sent := by
  intro o ho
  obtain ⟨a, b, hsplit⟩ := List.append_of_mem h
  obtain ⟨⟨-, -, hports, -⟩, -⟩ := applyAll_heard c a s
  obtain ⟨u, hu⟩ : ∃ u, u = a.foldl (applyEffect c) s := ⟨_, rfl⟩
  obtain ⟨-, hsent⟩ := foldl_calm (applyEffect c) (applyEffect_calm c) b (u.transmit addr (.reply f code tag ch st body))
  rw [hsplit, List.foldl_append, List.foldl_cons]
  show o ∈ (b.foldl (applyEffect c) ((a.foldl (applyEffect c) s).transmit addr (.reply f code tag ch st body))).sent
  rw [← hu]
  refine hsent.subset ?_
  rw [transmit_eq]
  refine List.mem_append_right _ ?_
  have hleaves : leaves u addr (.reply f code tag ch st body) = leaves s addr (.reply f code tag ch st body) := by
    unfold leaves
    rw [hu, hports]
  rw [hleaves]
  exact ho

/-! ## The steps of R198 -/

/-- What is handed on holds no record. -/
def W.Tells (v w : W) : Prop := ∃ l, w.fx = v.fx ++ l ∧ ∀ e ∈ l, e.isRecord = false

section Steps

variable {u v w : W}

theorem W.Tells.trans (a : u.Tells v) (b : v.Tells w) : u.Tells w := by
  obtain ⟨l, hl, hnone⟩ := a
  obtain ⟨m, hm, hnone'⟩ := b
  refine ⟨l ++ m, by rw [hm, hl, List.append_assoc], fun e he => ?_⟩
  rcases List.mem_append.1 he with h | h
  · exact hnone e h
  · exact hnone' e h

theorem tells_of_eq (h : w.fx = v.fx) : v.Tells w := ⟨[], by rw [h, List.append_nil], fun _ h => by cases h⟩

theorem tells_one {e : Effect} (he : e.isRecord = false) (h : w.fx = v.fx ++ [e]) : v.Tells w :=
  ⟨[e], h, fun x hx => by rw [List.mem_singleton.1 hx]; exact he⟩

/-- What is handed on stays. -/
theorem tells_mem {e : Effect} (h : v.Tells w) (he : e ∈ v.fx) : e ∈ w.fx := by
  obtain ⟨l, hl, -⟩ := h
  rw [hl]
  exact List.mem_append_left _ he

theorem resetControl_spec (env : Env) (w : W) : (resetControl env w).ch = { w.ch with ctl := Ctl.reset } ∧ w.Tells (resetControl env w) := by
  unfold resetControl
  dsimp only
  split
  · exact ⟨rfl, (tells_one (w := (w.modCtl fun _ => Ctl.reset).notice env .loc _) rfl rfl).trans (tells_one rfl rfl)⟩
  · exact ⟨rfl, tells_of_eq rfl⟩

theorem resetStore_spec (w : W) : (resetStore w).ch = { w.ch with store := Chan.reset.store } ∧ w.Tells (resetStore w) ∧
    ∀ x, w.ch.store.scan = some x → .reply x.addr .main 3 x.tag x.channel .aborted .none ∈ (resetStore w).fx := by
  unfold resetStore
  dsimp only
  cases hscan : w.ch.store.scan with
  | none => exact ⟨rfl, tells_of_eq rfl, fun x h => by cases h⟩
  | some x =>
    refine ⟨rfl, tells_one rfl rfl, fun y h => ?_⟩
    cases h
    exact List.mem_append_right _ (List.mem_singleton.2 rfl)

theorem resetMirror_spec (env : Env) (w : W) :
    (resetMirror env w).ch = { w.ch with mirror := Chan.reset.mirror } ∧ w.Tells (resetMirror env w) := by
  unfold resetMirror
  dsimp only
  split
  · exact ⟨rfl, tells_one rfl rfl⟩
  · exact ⟨rfl, (tells_one (w := W.notice _ env .main _) rfl rfl).trans (tells_one rfl rfl)⟩

theorem resetMonitor_spec (env : Env) (w : W) :
    (resetMonitor env w).ch = { w.ch with mon := Monitor.reset } ∧ w.Tells (resetMonitor env w) := by
  unfold resetMonitor
  dsimp only
  split
  · exact ⟨rfl, tells_of_eq rfl⟩
  · exact ⟨rfl, tells_one rfl rfl⟩

/-- The channel after the players of a reset are stopped. -/
def wiped (x : Chan) : Chan :=
  { x with
    store := Chan.reset.store
    mirror := Chan.reset.mirror
    intake := Intake.reset
    mon := Monitor.reset
    ctl := Ctl.reset
    trig := Chan.reset.trig
    out := { x.out with held := none, holdRun := 0, cues := [], window := { x.out.window with enabled := false, phase := 0 } } }

/-- The record that ends a reset. -/
def resetRecord (env : Env) (w : W) : RecProto :=
  { hfn := env.now, channel := env.ch.val, kind := .channelReset, event := (resetPoint env w.ch).1, pass := (resetPoint env w.ch).2.1,
    offset := (resetPoint env w.ch).2.2.1, source := (resetPoint env w.ch).2.2.2, detail := .chMode w.mode, trigger := none }

/-- A reset hands on its record last, after what else it has to say. -/
theorem resetChannelOn_spec (env : Env) (w : W) (hfx : w.fx = []) : (resetChannelOn env w).ch = wiped (resetPlayers env w).ch ∧
    ∃ l, (resetChannelOn env w).fx = l ++ [.record (resetRecord env w)] ∧ (∀ e ∈ l, e.isRecord = false) ∧
      ∀ x, w.ch.store.scan = some x → .reply x.addr .main 3 x.tag x.channel .aborted .none ∈ l := by
  obtain ⟨w1, h1⟩ : ∃ w1, w1 = resetPlayers env w := ⟨_, rfl⟩
  obtain ⟨w2, h2⟩ : ∃ w2, w2 = resetControl env w1 := ⟨_, rfl⟩
  obtain ⟨w3, h3⟩ : ∃ w3, w3 = resetStore w2 := ⟨_, rfl⟩
  obtain ⟨w4, h4⟩ : ∃ w4, w4 = resetMirror env w3 := ⟨_, rfl⟩
  obtain ⟨w5, h5⟩ : ∃ w5, w5 = resetMonitor env w4 := ⟨_, rfl⟩
  have hstep : resetChannelOn env w = (resetRest w5).emit (.record (resetRecord env w)) := by
    rw [h5, h4, h3, h2, h1]; rfl
  obtain ⟨-, hstore, hasked⟩ : w.Asks w1 := h1 ▸ resetPlayers_asks env w
  obtain ⟨hch2, htold2⟩ := resetControl_spec env w1
  obtain ⟨hch3, htold3, hreply⟩ := resetStore_spec w2
  obtain ⟨hch4, htold4⟩ := resetMirror_spec env w3
  obtain ⟨hch5, htold5⟩ := resetMonitor_spec env w4
  rw [← h2] at hch2 htold2
  rw [← h3] at hch3 htold3 hreply
  rw [← h4] at hch4 htold4
  rw [← h5] at hch5 htold5
  have htold : w.Tells w5 := ((W.Tells.trans hasked htold2).trans htold3).trans (htold4.trans htold5)
  obtain ⟨l, hl, hnone⟩ := htold
  have hfx5 : w5.fx = l := by rw [hl, hfx]; rfl
  refine ⟨?_, l, ?_, hnone, fun x hx => ?_⟩
  · rw [hstep, ← h1]
    show (resetRest w5).ch = wiped w1.ch
    have hch : w5.ch = { w1.ch with ctl := Ctl.reset, store := Chan.reset.store, mirror := Chan.reset.mirror, mon := Monitor.reset } := by
      rw [hch5, hch4, hch3, hch2]
    unfold resetRest W.modOut W.modCh
    rw [hch]
    rfl
  · rw [hstep, ← hfx5]; rfl
  · rw [← hfx5]
    refine tells_mem (htold4.trans htold5) (hreply x ?_)
    rw [hch2]
    exact hstore.scan.trans hx

end Steps

/-! ## The request (R198) -/

section Request

variable {c : Ch} {s : State}

/-- What a reset of channel `c` leaves of the part. -/
theorem resetChannel_parts (c : Ch) (s : State) : ∃ u, resetChannelReq c.val s = (u, .ok, .none) ∧ PartKept s u ∧ OthersKept c s u ∧
    (∃ v, u.sent = s.sent ++ v) ∧ (∃ env : Env, env.now = s.time.hfn ∧ env.ch = c ∧
      u.chans[c] = wiped (resetPlayers env (begun s c)).ch) ∧
    (∃ r, u.log.ring.getLast? = some r ∧ r.body.kind = .channelReset ∧ r.body.channel = c.val ∧ r.body.hfn = s.time.hfn ∧
      r.body.detail = .chMode s.chans[c].ctl.mode) ∧ (∀ r ∈ u.log.triggers, r.channel ≠ c.val) ∧
    ∀ x, s.chans[c].store.scan = some x → ∀ o ∈ leaves s x.addr (.reply .main 3 x.tag x.channel .aborted .none), o ∈ u.sent := by
  obtain ⟨a, ha⟩ : ∃ a, a = s.appendTriggers fun r => decide (r.channel = c.val) := ⟨_, rfl⟩
  obtain ⟨hkept, hchans⟩ : Heard s a := ha ▸ appendTriggers_heard _ s
  have htime : a.time = s.time := by
    obtain ⟨-, h, -⟩ := hkept
    exact h
  have hports : a.ports = s.ports := by
    obtain ⟨-, -, h, -⟩ := hkept
    exact h
  have hleft : a.log.triggers = s.log.triggers.filter fun r => !decide (r.channel = c.val) := ha ▸ appendTriggers_left _ s
  have hbegun : begun a c = begun s c := by unfold begun; rw [hchans]
  obtain ⟨env, henv⟩ : ∃ env, env = envOf a c := ⟨_, rfl⟩
  have hnow : env.now = s.time.hfn := by rw [henv, ← htime]; rfl
  have hch : env.ch = c := by rw [henv]; rfl
  obtain ⟨hwiped, l, hfx, hnone, hreply⟩ := resetChannelOn_spec env (begun s c) rfl
  have hran : ranCh c resetChannelOn a = resetChannelOn env (begun s c) := by rw [← hbegun, henv]; rfl
  have hreq : resetChannelReq c.val s = (runCh c resetChannelOn a, .ok, .none) := by
    unfold resetChannelReq
    rw [chanOf_val, ha]
  obtain ⟨b, hb⟩ : ∃ b, b = l.foldl (applyEffect c) (a.setCh c (ranCh c resetChannelOn a).ch) := ⟨_, rfl⟩
  have hrun : runCh c resetChannelOn a = b.append (resetRecord env (begun s c)) := by
    have hfold : runCh c resetChannelOn a =
        (ranCh c resetChannelOn a).fx.foldl (applyEffect c) (a.setCh c (ranCh c resetChannelOn a).ch) := rfl
    rw [hfold, hran, hfx, List.foldl_append, ← hran, ← hb]
    rfl
  obtain ⟨hring, htriggers⟩ := append_ring b (resetRecord env (begun s c))
  have hlog : b.log = a.log := by rw [hb, applyAll_log hnone]; rfl
  obtain ⟨-, hcalm⟩ := resetChannelReq_calm c.val s
  obtain ⟨v, hv⟩ := hcalm
  refine ⟨_, hreq, hkept.trans (runCh_kept c _ a), fun d hd => ?_, ⟨v, ?_⟩, ⟨env, hnow, hch, ?_⟩, ⟨{ number := b.log.counter, body := resetRecord env (begun s c), tick := b.log.tick }, ?_, rfl, ?_, hnow, rfl⟩, ?_, ?_⟩
  · rw [runCh_others c resetChannelOn a d hd, hchans]
  · rw [hv, hreq]
  · rw [runCh_here, hran, hwiped]
  · rw [hrun, hring, append_last]
  · show env.ch.val = c.val
    rw [hch]
  · intro r hr
    rw [hrun, htriggers, hlog, hleft] at hr
    obtain ⟨-, hne⟩ := List.mem_filter.1 hr
    simpa using hne
  · intro x hx o ho
    obtain ⟨-, hmade⟩ := append_calm b (resetRecord env (begun s c))
    rw [hrun]
    refine hmade.subset ?_
    rw [hb]
    refine applyAll_reply (hreply x hx) c _ o ?_
    have hleaves : leaves (a.setCh c (ranCh c resetChannelOn a).ch) x.addr (.reply .main 3 x.tag x.channel .aborted .none) =
        leaves s x.addr (.reply .main 3 x.tag x.channel .aborted .none) := by
      unfold leaves
      rw [← hports]
      rfl
    rw [hleaves]
    exact ho

/-- The player of a channel that a reset wiped. -/
theorem wiped_player (env : Env) (w : W) (p : PlayerId) :
    (wiped (resetPlayers env w).ch).seq.player p = ((stoppedW env w).player p).quieted := by
  show (resetPlayers env w).ch.seq.player p = _
  obtain ⟨u, hu⟩ : ∃ u, u = stoppedW env w := ⟨_, rfl⟩
  rw [resetPlayers_eq, ← hu, clearedW_seq]
  cases p <;> rfl

/-- What a reset leaves of a player. -/
def ResetPlayer (frame : Frame) (x y : Player) : Prop :=
  y.lateRun = 0 ∧ (∀ q ∈ y.queue, q.2.isStop = true) ∧
    ((∀ q ∈ x.queue, q.2.isCue = false) →
      (x.state = .cueing ∨ x.state = .cued ∨ x.state = .playing → y.state = .stopping ∧ y.loaded = none ∧
        y.stopF = some frame ∧ y.asked (.stop frame)) ∧
      (x.state = .idle ∨ x.state = .stopping ∨ x.state = .fault → y.state = x.state ∧ y.loaded = x.loaded ∧
        y.flight = x.flight ∧ y.tags = x.tags)) ∧
    ((∃ q ∈ x.queue, q.2.isCue = true) → y.loaded = none ∧ y.flight = x.flight ∧ y.tags = x.tags ∧
      y.state = (if (∃ q ∈ x.queue, q.2.isStop = true) ∨ (∃ g, x.flight = some g ∧ g.req.isStop = true) then .stopping
                 else .idle))

theorem resetPlayer_of_stopped {frame : Frame} {x y : Player} (h : StoppedAt frame x y) : ResetPlayer frame x y.quieted := by
  have hqueue := stopped_queue h
  obtain ⟨-, hplain, hcued⟩ := h
  refine ⟨rfl, hqueue, fun hcues => ?_, hcued⟩
  obtain ⟨hheld, hfree⟩ := hplain hcues
  refine ⟨fun hstate => ?_, fun hstate => ?_⟩
  · obtain ⟨hstop, hload, hframe, hasked⟩ := hheld hstate
    exact ⟨hstop, hload, hframe, asked_quieted hasked⟩
  · rw [hfree hstate]
    exact ⟨rfl, rfl, rfl, rfl⟩

end Request

/-- Settles O53: a reset stops the channel's players, wipes the rest of it step by step, and its record is the last thing it hands on. -/
theorem channelResetsAreWhole : Obligations.ChannelResetsAreWhole := by
  intro f h n s ht
  obtain ⟨hchans, hports, hsent⟩ := afterTurn_kept f s
  refine ⟨fun c hn => ?_, fun hn => ?_⟩
  · subst hn
    obtain ⟨u, hreq, hkept, hothers, ⟨v, hv⟩, ⟨env, hnow, -, hwiped⟩, hrecord, htriggers, hreply⟩ := resetChannel_parts c (afterTurn f s)
    have hbegun : begun (afterTurn f s) c = begun s c := begun_afterTurn f s c
    have htime : (afterTurn f s).time = s.time := by cases f <;> rfl
    have hup : u.ports = s.ports := by
      obtain ⟨-, -, hp, -⟩ := hkept
      exact hp.trans hports
    rw [hbegun] at hwiped
    rw [htime] at hnow hrecord
    rw [hchans] at hrecord hreply
    obtain ⟨w, hw⟩ : ∃ w, w = resetPlayers env (begun s c) := ⟨_, rfl⟩
    have hout : w.ch.out = s.chans[c].out := hw ▸ (resetPlayers_asks env (begun s c)).out
    have hseq : w.ch.seq = { Seq.reset with a := w.ch.seq.a, b := w.ch.seq.b } := by
      rw [hw, resetPlayers_eq, clearedW_seq]
    have hplayer : ∀ p, ResetPlayer (env.now + 2) (s.chans[c].seq.player p) (u.chans[c].seq.player p) := fun p => by
      rw [hwiped, wiped_player]
      exact resetPlayer_of_stopped (stoppedW_player env p (begun s c))
    rw [← hw] at hwiped
    refine ⟨{ u with sent := u.sent ++ replyPackets s f h (.resetChannel c.val) (.ok, .none) },
      congrArg Host.Outcome.next (answered_turn_of ht hreq hup), hkept, fun d hd => ?_, ⟨v, ?_⟩, ?_⟩
    · exact (hothers d hd).trans (by rw [hchans])
    · show u.sent ++ _ = _
      rw [hv, hsent]
    · dsimp only
      refine ⟨?_, ?_, ?_, ?_, ?_, ?_, ?_, ?_, fun p x y hx hy => ?_, hrecord, htriggers, fun x hx o ho => ?_⟩
      iterate 6 · rw [hwiped]; rfl
      · rw [hwiped, ← hout]; rfl
      · rw [hwiped]; exact hseq
      · rw [hx, hy, ← hnow]
        exact hplayer p
      · refine List.mem_append_left _ (hreply x hx o ?_)
        have hleaves : leaves (afterTurn f s) x.addr (.reply .main 3 x.tag x.channel .aborted .none) =
            leaves s x.addr (.reply .main 3 x.tag x.channel .aborted .none) := by
          unfold leaves
          rw [hports]
        rw [hleaves]
        exact ho
  · have hdeny : resetChannelReq n (afterTurn f s) = deny .badChannel (afterTurn f s) := by
      unfold resetChannelReq
      rw [chanOf_none hn]
    exact congrArg Host.Outcome.next (answered_turn_denied ht hdeny)

end Sys2Proof.Machine

/-! PROOFS. The operations of a batch (R24 to R29, R43, R46, R51): what each one does, and that a refused one does nothing. -/

namespace Sys2Proof.Machine

open Sys2Proof

/-! ## A PUT or REMOVE on a generation -/

theorem putEvent_key (rc : RateCode) (p : Put) : (putEvent rc p).key = p.key := rfl

/-- An applied PUT gives its record the PUT's key (R28). -/
theorem putOn_key {rc : RateCode} {timeSet : Bool} {limit free : Nat} {orphan : Option Event} {fromPass : Nat} {p : Put}
    {l l' : List Event} {st : Status} {old : Option Event} {e : Event}
    (h : putOn rc timeSet limit free orphan fromPass p l = .applied st l' old (some e)) : e.key = p.key := by
  unfold putOn at h
  dsimp only at h
  obtain ⟨-, h⟩ := refused_else h
  obtain ⟨-, h⟩ := refused_else h
  obtain ⟨-, h⟩ := refused_else h
  obtain ⟨-, h⟩ := refused_else h
  obtain ⟨-, h⟩ := refused_else h
  obtain ⟨-, h⟩ := refused_else h
  split at h
  case h_1 =>
    obtain ⟨-, h⟩ := refused_else h
    obtain ⟨-, h⟩ := refused_else h
    simp only [OpResult.applied.injEq, Option.some.injEq] at h
    obtain ⟨-, -, -, rfl⟩ := h
    rfl
  case h_2 o hold =>
    simp only [OpResult.applied.injEq, Option.some.injEq] at h
    obtain ⟨-, -, -, rfl⟩ := h
    have hcore := replaceEvent_core fromPass o (putEvent rc p)
    simp only [Event.core, Prod.mk.injEq] at hcore
    obtain ⟨-, hkey, -⟩ := hcore
    exact hkey

/-! ## What comes too late for CURRENT (R27) -/

section Late

variable {env : Env} {c : Chan} {p : Put} {l : List Event} {old : Option Event} {e : Event}

theorem cuedClose_iff (old : Option Event) : (match old with
    | some o => decide (o.lifecycle = .cued) &&
        (match o.res with | some f => decide (f.start < env.now + env.cp.lead) | none => false)
    | none => false) = true ↔ ∃ o r, old = some o ∧ o.lifecycle = .cued ∧ o.res = some r ∧ r.start < env.now + env.cp.lead := by
  cases old with
  | none => simp
  | some o => cases hres : o.res <;> simp [hres]

/-- The check of R27 is the statement's. -/
theorem tooLate_iff (hid : e.id = p.id) (hkey : e.key = p.key) :
    tooLate { resCtx env c with anchor := none } env.cp.lead c.store { c.store with current := l } old e = true ↔ TooLate env c p l old := by
  have hair : (!(match old with | some o => decide (o.lifecycle = .onAir) | none => false)) = true ↔
      ∀ o, old = some o → o.lifecycle ≠ .onAir := by
    cases old <;> simp
  have hbefore : (match c.store.anchorKey, c.store.anchor with
      | some k, some a => decide (e.id ≠ a.event) && decide (e.key < k)
      | _, _ => false) = true ↔ ∃ a k, c.store.anchor = some a ∧ c.store.anchorKey = some k ∧ p.id ≠ a.event ∧ p.key < k := by
    rw [hid, hkey]
    cases c.store.anchorKey <;> cases c.store.anchor <;> simp
  have hover : (match (({ c.store with current := l } : Store).resolve (resCtx env c)).event e.id with
      | some r => (match r.res with | some f => decide (f.stop ≤ env.now) | none => false)
      | none => false) = true ↔
      ∃ x r, (({ c.store with current := l } : Store).resolve (resCtx env c)).event p.id = some x ∧ x.res = some r ∧ r.stop ≤ env.now := by
    rw [hid]
    cases (({ c.store with current := l } : Store).resolve (resCtx env c)).event p.id with
    | none => simp
    | some x => cases hres : x.res <;> simp [hres]
  unfold TooLate
  rw [← hair, ← hbefore, ← hover, ← cuedClose_iff, ← Bool.or_eq_true, ← Bool.or_eq_true, ← Bool.and_eq_true, ← Bool.or_assoc]
  rfl

end Late

/-! ## One operation (R24 to R29, R43) -/

section Operations

variable {env : Env} {w : W}

theorem putCurrent_applied {p : Put} {st : Status} {l : List Event} {old : Option Event} {e : Event}
    (h : putOn env.rate env.timeSet env.cp.eventLimit (freeRecords env w.ch) w.ch.store.orphan
      (heldFrom env w.ch p.id p.duration) p w.ch.store.current = .applied st l old (some e)) :
    (TooLate env w.ch p l old → putCurrent env p w = (w, .tooLate)) ∧
      (¬ TooLate env w.ch p l old → ∃ changed, putCurrent env p w =
        (currentChanged env w.ch p.id (old.any fun o => decide (o.lifecycle = .onAir)) e.held.isSome changed
          (w.modStore fun t => { t with current := l }), st)) := by
  obtain ⟨e', he, hdone⟩ := putOn_applied h
  cases he
  have hiff := tooLate_iff (env := env) (c := w.ch) (l := l) (old := old) hdone.id (putOn_key h)
  unfold putCurrent
  dsimp only
  rw [h]
  dsimp only
  refine ⟨fun hlate => if_pos (hiff.2 hlate), fun hnot => ?_⟩
  rw [if_neg fun hlate => hnot (hiff.1 hlate)]
  cases old <;> exact ⟨_, rfl⟩

theorem orphan_id {o : Option Event} {id : Nat} :
    (match o with | some o => decide (o.id = id) | none => false) = true ↔ ∃ x, o = some x ∧ x.id = id := by
  cases o <;> simp

/-- The order of R29. -/
theorem removeCurrent_spec (env : Env) (id : Nat) (w : W) :
    ((∃ o, w.ch.store.orphan = some o ∧ o.id = id) → removeCurrent env id w = (w, .onAir)) ∧
    ((∀ o, w.ch.store.orphan = some o → o.id ≠ id) →
      (lookupId id w.ch.store.current = none → removeCurrent env id w = (w, .notFound)) ∧
      ∀ e, lookupId id w.ch.store.current = some e →
        (e.lifecycle = .onAir → removeCurrent env id w = (w, .onAir)) ∧
        (e.lifecycle = .cued → (∃ r, e.res = some r ∧ r.start < env.now + env.cp.lead) → removeCurrent env id w = (w, .tooLate)) ∧
        (e.lifecycle ≠ .onAir → (e.lifecycle = .cued → ∀ r, e.res = some r → env.now + env.cp.lead ≤ r.start) →
          removeCurrent env id w = (currentChanged env w.ch id false false true
            (w.modStore fun t => { t with current := removeId id t.current }), .ok))) := by
  have hstep : ∀ x, removeOn env.now env.cp.lead w.ch.store.orphan true id w.ch.store.current = x → removeCurrent env id w =
      match x with
      | .refused st => (w, st)
      | .applied st l _ _ =>
        (currentChanged env w.ch id false false true (w.modStore fun _ => { w.ch.store with current := l }), st) := by
    rintro x rfl
    rfl
  refine ⟨fun horphan => hstep (.refused .onAir) (if_pos (orphan_id.2 horphan)), fun hother => ?_⟩
  have hnot : ¬ (match w.ch.store.orphan with | some o => decide (o.id = id) | none => false) = true := fun h => by
    obtain ⟨o, ho, hid⟩ := orphan_id.1 h
    exact hother o ho hid
  have hlook : removeOn env.now env.cp.lead w.ch.store.orphan true id w.ch.store.current =
      match lookupId id w.ch.store.current with
      | none => .refused .notFound
      | some o =>
        if o.lifecycle = .onAir then .refused .onAir
        else if true && decide (o.lifecycle = .cued) &&
            (match o.res with | some f => decide (f.start < env.now + env.cp.lead) | none => false) then .refused .tooLate
        else .applied .ok (removeId id w.ch.store.current) (some o) none := if_neg hnot
  refine ⟨fun hnone => hstep (.refused .notFound) ?_, fun e he => ⟨fun hair => hstep (.refused .onAir) ?_,
    fun hcued hclose => hstep (.refused .tooLate) ?_, fun hair hfar => hstep (.applied .ok _ (some e) none) ?_⟩⟩
  · rw [hlook, hnone]
  · rw [hlook, he]
    exact if_pos hair
  · obtain ⟨r, hr, hlt⟩ := hclose
    rw [hlook, he]
    dsimp only
    rw [if_neg (by rw [hcued]; decide), if_pos (by simp [hcued, hr, hlt])]
  · rw [hlook, he]
    dsimp only
    rw [if_neg hair, if_neg]
    cases hres : e.res with
    | none => simp
    | some r => simpa using fun hcued => hfar hcued r hres

/-- The outcome of an operation on the REFRESH generation. -/
def onRefresh (env : Env) (op : BatchOp) (r : Refresh) (w : W) : OpResult :=
  match op with
  | .put p => putOn env.rate env.timeSet env.cp.eventLimit (freeRecords env w.ch) w.ch.store.orphan 0 p r.events
  | .remove id => removeOn env.now env.cp.lead w.ch.store.orphan false id r.events

theorem opRefresh_eq {op : BatchOp} {r : Refresh} (hr : w.ch.store.refresh = some r) :
    opRefresh env op w = match onRefresh env op r w with
      | .refused st => (w, st)
      | .applied st l old new => (w.modStore fun t => { t with refresh := some ({ r with events := l }.account old new) }, st) := by
  unfold opRefresh
  rw [hr]
  cases op <;> rfl

/-- The digest pair follows an applied operation (R38). -/
theorem onRefresh_digest {op : BatchOp} {r : Refresh} {st : Status} {l : List Event} {old new : Option Event}
    (hx : onRefresh env op r w = .applied st l old new) (hids : (r.events.map (·.id)).Nodup)
    (hpair : (r.count, r.sum) = digestOf r.events) :
    ((Refresh.account old new { r with events := l }).count, (Refresh.account old new { r with events := l }).sum) = digestOf l := by
  cases op with
  | put p =>
    obtain ⟨e, rfl, hdone⟩ := putOn_applied hx
    refine account_digest (rest := removeId p.id r.events) hpair ?_ hdone.perm
    cases hold : old with
    | none => rw [removeId_of_lookup_none (hdone.before.symm.trans hold)]; exact List.Perm.refl _
    | some o => exact perm_cons_removeId hids (hdone.before.symm.trans hold)
  | remove id =>
    obtain ⟨rfl, rfl, o, rfl, hold⟩ := removeOn_applied hx
    exact account_digest (rest := removeId id r.events) hpair (perm_cons_removeId hids hold) (List.Perm.refl _)

/-- An operation on the REFRESH generation touches nothing else. -/
theorem opRefresh_only (env : Env) (op : BatchOp) (w : W) : ∃ x, (opRefresh env op w).1 = w.modStore fun t => { t with refresh := x } := by
  cases hr : w.ch.store.refresh with
  | none =>
    refine ⟨w.ch.store.refresh, ?_⟩
    unfold opRefresh
    rw [hr]
    dsimp only
    rw [← hr]
    rfl
  | some r =>
    rw [opRefresh_eq hr]
    cases onRefresh env op r w with
    | refused st => exact ⟨w.ch.store.refresh, rfl⟩
    | applied st l old new => exact ⟨_, rfl⟩

theorem runRefreshOps_only (env : Env) (ops : List BatchOp) (w : W) :
    ∃ x, (runRefreshOps env ops w).1 = w.modStore fun t => { t with refresh := x } := by
  induction ops generalizing w with
  | nil => exact ⟨w.ch.store.refresh, rfl⟩
  | cons op ops ih =>
    obtain ⟨x, hx⟩ := opRefresh_only env op w
    unfold runRefreshOps
    dsimp only
    split
    · exact ⟨x, hx⟩
    · obtain ⟨y, hy⟩ := ih (opRefresh env op w).1
      exact ⟨y, by rw [hy, hx]; rfl⟩

theorem poolRefusal_iff (st : Status) : poolRefusal st = true ↔ st = .poolFull ∨ st = .limitReached := by
  simp [poolRefusal]

theorem runRefreshOps_stops {op : BatchOp} (ops : List BatchOp) (h : (opRefresh env op w).2 = .poolFull ∨ (opRefresh env op w).2 = .limitReached) :
    runRefreshOps env (op :: ops) w =
      ((opRefresh env op w).1, (opRefresh env op w).2 :: List.replicate ops.length .aborted, false) := by
  unfold runRefreshOps
  dsimp only
  rw [if_pos ((poolRefusal_iff _).2 h), List.map_const']

theorem runRefreshOps_goes {op : BatchOp} (ops : List BatchOp)
    (h : ¬ ((opRefresh env op w).2 = .poolFull ∨ (opRefresh env op w).2 = .limitReached)) :
    runRefreshOps env (op :: ops) w = ((runRefreshOps env ops (opRefresh env op w).1).1,
      (opRefresh env op w).2 :: (runRefreshOps env ops (opRefresh env op w).1).2.1,
      (runRefreshOps env ops (opRefresh env op w).1).2.2) :=
  if_neg fun hpool => h ((poolRefusal_iff _).1 hpool)

/-- One status for each operation; the refresh goes on unless one of them is a refusal of R50. -/
theorem runRefreshOps_statuses (env : Env) (ops : List BatchOp) (w : W) : (runRefreshOps env ops w).2.1.length = ops.length ∧
    ((runRefreshOps env ops w).2.2 = false ↔ .poolFull ∈ (runRefreshOps env ops w).2.1 ∨ .limitReached ∈ (runRefreshOps env ops w).2.1) := by
  induction ops generalizing w with
  | nil => simp [runRefreshOps]
  | cons op ops ih =>
    by_cases h : (opRefresh env op w).2 = .poolFull ∨ (opRefresh env op w).2 = .limitReached
    · rw [runRefreshOps_stops ops h]
      refine ⟨by simp, fun _ => ?_, fun _ => rfl⟩
      rcases h with h | h <;> simp [h]
    · obtain ⟨hlen, hon⟩ := ih (opRefresh env op w).1
      rw [runRefreshOps_goes ops h]
      have hne : Status.poolFull ≠ (opRefresh env op w).2 := fun he => h (Or.inl he.symm)
      have hne' : Status.limitReached ≠ (opRefresh env op w).2 := fun he => h (Or.inr he.symm)
      exact ⟨by simp [hlen], by simpa [hne, hne'] using hon⟩

theorem runCurrentOps_length (env : Env) (ops : List BatchOp) (w : W) : (runCurrentOps env ops w).2.length = ops.length := by
  induction ops generalizing w with
  | nil => rfl
  | cons op ops ih => exact congrArg (· + 1) (ih _)

end Operations

end Sys2Proof.Machine

/-! PROOFS. Batches and their sequence numbers (R44 to R47, R50). -/

namespace Sys2Proof.Machine

open Sys2Proof

/-! ## Requests that make one notice -/

section Turns

variable {f : CtlFlow} {h : Head} {b : ReqBody} {s : State} {c : Ch} {op : Env → W → W × Answer}

/-- A request of one channel that makes one notice besides its reply. -/
theorem asked_turn_notice {fl : CtlFlow} {x : Chan} {a : Answer} {ch : Nat} {n : Notice} (ht : Turn f h b s) (hn : Names h c)
    (hop : op (envOf s c) (begun s c) = ({ ch := x, fx := [.notice fl ch n] }, a)) :
    takeRequest f h b (answered f h b (onChannel h op)) s =
      { ((afterTurn f s).setCh c x).notice fl ch n with
        sent := (((afterTurn f s).setCh c x).notice fl ch n).sent ++ replyPackets s f h b a } := by
  obtain ⟨-, hports, -⟩ := afterTurn_kept f s
  have hask : onChannel h op (afterTurn f s) = (((afterTurn f s).setCh c x).notice fl ch n, a) := by
    rw [onChannel_named hn]
    exact askCh_of (v := { ch := x, fx := [.notice fl ch n] }) (by rw [envOf_afterTurn, begun_afterTurn, hop])
  refine answered_turn_of ht hask ?_
  obtain ⟨⟨-, -, h, -⟩, -⟩ := notice_heard ((afterTurn f s).setCh c x) fl ch n
  exact h.trans hports

/-- A request of one channel that leaves the channel alone and makes one notice on the main flow. -/
theorem asked_turn_main {a : Answer} {ch : Nat} {n : Notice} (ht : Turn f h b s) (hn : Names h c)
    (hop : op (envOf s c) (begun s c) = ({ ch := s.chans[c], fx := [.notice .main ch n] }, a)) :
    takeRequest f h b (answered f h b (onChannel h op)) s =
      { afterTurn f s with
        nextMain := (s.nextMain + 1) % two16
        sent := s.sent ++ noticePackets s .main s.nextMain ch n ++ replyPackets s f h b a } := by
  obtain ⟨hchans, hports, hsent⟩ := afterTurn_kept f s
  have hself : (afterTurn f s).setCh c s.chans[c] = afterTurn f s := by
    rw [← hchans]; exact setCh_self _ _
  have hnext : (afterTurn f s).nextMain = s.nextMain := by cases f <;> rfl
  have hflows : (afterTurn f s).flows = s.flows := by cases f <;> rfl
  rw [asked_turn_notice ht hn hop, hself, notice_main_eq, noticePackets_congr hflows hports, hnext, hsent]

end Turns

/-- The free records as a channel sees them are the part's (R19). -/
theorem freeRecords_here {s : State} {c : Ch} {x : Chan} (hx : x.store.held = s.chans[c].store.held) :
    freeRecords (envOf s c) x = s.free := by
  have hle := held_le_heldAll s c
  unfold freeRecords State.free envOf
  dsimp only
  rw [hx, Nat.sub_add_cancel hle]

/-! ## The sequence test (R44, R47) -/

section Sequence

variable {env : Env} {w : W} {seq : Nat} {bytes : List Byte} {ops : List BatchOp}

/-- A batch whose operations can be read. -/
theorem mirrorBatchOn_read (hread : readOps bytes = some ops) (hone : 1 ≤ ops.length) (hmany : ops.length ≤ 32) :
    (w.ch.mirror.state = .empty ∨ w.ch.mirror.state = .gap ∨ w.ch.mirror.state = .diverged →
      mirrorBatchOn seq bytes env w = (refreshNeeded env .repeated w, .outOfSequence, batchReply env seq [] w)) ∧
    (w.ch.mirror.state = .current ∨ w.ch.mirror.state = .stale ∨ w.ch.mirror.state = .syncing →
      (seq = (w.ch.mirror.lastSeq + 1) % 65536 → mirrorBatchOn seq bytes env w = acceptBatch env seq ops w) ∧
      (seq ≠ (w.ch.mirror.lastSeq + 1) % 65536 →
        (seq = w.ch.mirror.lastSeq → mirrorBatchOn seq bytes env w =
          (w.modMirror fun m => { m with timer := 0 }, .duplicate, batchReply env seq [] (w.modMirror fun m => { m with timer := 0 }))) ∧
        (seq ≠ w.ch.mirror.lastSeq → mirrorBatchOn seq bytes env w =
          (giveUp env .gap .sequence .sequence w, .outOfSequence, batchReply env seq [] (giveUp env .gap .sequence .sequence w))))) := by
  have hlen : ¬ (ops.length = 0 ∨ 32 < ops.length) := by omega
  have htest : (w.ch.mirror.state = .current ∨ w.ch.mirror.state = .stale ∨ w.ch.mirror.state = .syncing) →
      mirrorBatchOn seq bytes env w =
        if seq = (w.ch.mirror.lastSeq + 1) % two16 then acceptBatch env seq ops w
        else if seq = w.ch.mirror.lastSeq then
          (w.modMirror fun m => { m with timer := 0 }, .duplicate, batchReply env seq [] (w.modMirror fun m => { m with timer := 0 }))
        else (giveUp env .gap .sequence .sequence w, .outOfSequence, batchReply env seq [] (giveUp env .gap .sequence .sequence w)) := by
    intro hstate
    unfold mirrorBatchOn
    rw [hread]
    dsimp only
    rw [if_neg hlen]
    rcases hstate with h | h | h <;> rw [h]
  refine ⟨fun hstate => ?_, fun hstate => ⟨fun hnext => ?_, fun hnext => ⟨fun hsame => ?_, fun hdiff => ?_⟩⟩⟩
  · unfold mirrorBatchOn
    rw [hread]
    dsimp only
    rw [if_neg hlen]
    rcases hstate with h | h | h <;> rw [h]
  · rw [htest hstate]; exact if_pos hnext
  · exact (htest hstate).trans ((if_neg hnext).trans (if_pos hsame))
  · exact (htest hstate).trans ((if_neg hnext).trans (if_neg hdiff))

/-- An accepted batch aimed at CURRENT (R46). -/
theorem acceptBatch_current {v : W × List Status} (hstate : w.ch.mirror.state = .current ∨ w.ch.mirror.state = .stale)
    (hv : v = runCurrentOps env ops (w.modMirror fun m => { m with lastSeq := seq })) :
    acceptBatch env seq ops w =
      (pump env (shadowStart env v.1), .ok, batchReply env seq v.2 (pump env (shadowStart env v.1))) := by
  have hnot : ¬ (w.modMirror fun m => { m with lastSeq := seq }).ch.mirror.state = .syncing := by
    show ¬ w.ch.mirror.state = .syncing
    rcases hstate with h | h <;> rw [h] <;> decide
  rw [hv]
  exact if_neg hnot

/-- An accepted batch aimed at REFRESH (R46, R50). -/
theorem acceptBatch_refresh {v : W × List Status × Bool} (hstate : w.ch.mirror.state = .syncing)
    (hv : v = runRefreshOps env ops (w.modMirror fun m => { m with lastSeq := seq, timer := 0 })) :
    acceptBatch env seq ops w = if v.2.2 then (v.1, .ok, batchReply env seq v.2.1 v.1)
      else (giveUp env .gap .pool .pool v.1, .aborted, batchReply env seq v.2.1 (giveUp env .gap .pool .pool v.1)) := by
  have hsync : (w.modMirror fun m => { m with lastSeq := seq }).ch.mirror.state = .syncing := hstate
  rw [hv]
  exact if_pos hsync

end Sequence

/-! ## The request (R44 to R47, R50) -/

section Request

variable {f : CtlFlow} {h : Head} {c : Ch} {seq : Nat} {bytes : List Byte} {ops : List BatchOp} {m : Mirror} {s : State}

/-- A batch in EMPTY, GAP or DIVERGED. -/
theorem mirrorBatch_unready (ht : Turn f h (.mirrorBatch seq bytes) s) (hn : Names h c) (hread : readOps (statedPart h bytes) = some ops)
    (hone : 1 ≤ ops.length) (hmany : ops.length ≤ 32) (hm : m = s.chans[c].mirror)
    (hstate : m.state = .empty ∨ m.state = .gap ∨ m.state = .diverged) :
    exec (.mirrorBatch f h seq bytes) s = .next { afterTurn f s with
      nextMain := (s.nextMain + 1) % two16
      sent := s.sent ++ noticePackets s .main s.nextMain c.val (.refreshNeeded .repeated m.state m.lastSeq s.now) ++
        replyPackets s f h (.mirrorBatch seq bytes) (.outOfSequence, .batch seq m.state m.lastSeq [] s.free) } := by
  subst hm
  obtain ⟨hunready, -⟩ := mirrorBatchOn_read (env := envOf s c) (w := begun s c) (seq := seq) hread hone hmany
  have hfree : freeRecords (envOf s c) (begun s c).ch = s.free := freeRecords_here rfl
  refine congrArg Host.Outcome.next (asked_turn_main ht hn ((hunready hstate).trans ?_))
  rw [← hfree]
  rfl

/-- A batch that comes again. -/
theorem mirrorBatch_again (ht : Turn f h (.mirrorBatch seq bytes) s) (hn : Names h c) (hread : readOps (statedPart h bytes) = some ops)
    (hone : 1 ≤ ops.length) (hmany : ops.length ≤ 32) (hm : m = s.chans[c].mirror)
    (hstate : m.state = .current ∨ m.state = .stale ∨ m.state = .syncing) (hsame : seq = m.lastSeq)
    (hnext : seq ≠ (m.lastSeq + 1) % 65536) :
    exec (.mirrorBatch f h seq bytes) s = .next { (afterTurn f s).setCh c { s.chans[c] with mirror := { m with timer := 0 } } with
      sent := s.sent ++
        replyPackets s f h (.mirrorBatch seq bytes) (.duplicate, .batch seq m.state m.lastSeq [] s.free) } := by
  subst hm
  obtain ⟨-, hready⟩ := mirrorBatchOn_read (env := envOf s c) (w := begun s c) (seq := seq) hread hone hmany
  obtain ⟨-, hother⟩ := hready hstate
  obtain ⟨hagain, -⟩ := hother hnext
  have hfree : freeRecords (envOf s c) ((begun s c).modMirror fun m => { m with timer := 0 }).ch = s.free := freeRecords_here rfl
  refine congrArg Host.Outcome.next (asked_turn_quiet ht hn ((hagain hsame).trans ?_))
  rw [← hfree]
  rfl

/-- A batch out of sequence. -/
theorem mirrorBatch_outOfSequence (ht : Turn f h (.mirrorBatch seq bytes) s) (hn : Names h c)
    (hread : readOps (statedPart h bytes) = some ops) (hone : 1 ≤ ops.length) (hmany : ops.length ≤ 32) (hm : m = s.chans[c].mirror)
    (hstate : m.state = .current ∨ m.state = .stale ∨ m.state = .syncing) (hdiff : seq ≠ m.lastSeq)
    (hnext : seq ≠ (m.lastSeq + 1) % 65536) :
    ∃ t n, exec (.mirrorBatch f h seq bytes) s = .next t ∧ Within c (afterTurn f s) t ∧
      t.chans[c].mirror = { m with state := .gap, timer := 0 } ∧ t.chans[c].store.refresh = none ∧
      t.chans[c].store.current = s.chans[c].store.current ∧
      Replies s t f h (.mirrorBatch seq bytes) (.outOfSequence, .batch seq .gap m.lastSeq [] n) := by
  subst hm
  obtain ⟨-, hready⟩ := mirrorBatchOn_read (env := envOf s c) (w := begun s c) (seq := seq) hread hone hmany
  obtain ⟨-, hother⟩ := hready hstate
  obtain ⟨-, hgap⟩ := hother hnext
  have hne : (begun s c).ch.mirror.state ≠ .gap := by
    show s.chans[c].mirror.state ≠ .gap
    rcases hstate with h | h | h <;> rw [h] <;> decide
  have hgave := giveUp_syncing (env := envOf s c) (cause := .sequence) (need := .sequence) hne
  obtain ⟨t, hexec, hwithin, hchan, hreply⟩ := asked_turn_within ht hn (hgap hdiff) (giveUp_rest ..)
  have hbody : batchReply (envOf s c) seq [] (giveUp (envOf s c) .gap .sequence .sequence (begun s c)) =
      .batch seq .gap s.chans[c].mirror.lastSeq []
        (freeRecords (envOf s c) (giveUp (envOf s c) .gap .sequence .sequence (begun s c)).ch) := by
    unfold batchReply
    rw [hgave]
    rfl
  rw [hbody] at hreply
  refine ⟨t, _, congrArg Host.Outcome.next hexec, hwithin, ?_, ?_, ?_, hreply⟩
  · rw [hchan, hgave]; rfl
  · rw [hchan, hgave]
  · rw [hchan, hgave]; rfl

/-- A batch in sequence, aimed at CURRENT. -/
theorem mirrorBatch_current (ht : Turn f h (.mirrorBatch seq bytes) s) (hn : Names h c)
    (hread : readOps (statedPart h bytes) = some ops) (hone : 1 ≤ ops.length) (hmany : ops.length ≤ 32) (hm : m = s.chans[c].mirror)
    (hstate : m.state = .current ∨ m.state = .stale) (hnext : seq = (m.lastSeq + 1) % 65536) :
    ∃ t v n, exec (.mirrorBatch f h seq bytes) s = .next t ∧ Within c (afterTurn f s) t ∧
      v = runCurrentOps (envOf s c) ops ((begun s c).modMirror fun x => { x with lastSeq := seq }) ∧
      t.chans[c] = (pump (envOf s c) (shadowStart (envOf s c) v.1)).ch ∧ t.chans[c].mirror = { m with lastSeq := seq } ∧
      v.2.length = ops.length ∧ Replies s t f h (.mirrorBatch seq bytes) (.ok, .batch seq m.state seq v.2 n) := by
  subst hm
  obtain ⟨-, hready⟩ := mirrorBatchOn_read (env := envOf s c) (w := begun s c) (seq := seq) hread hone hmany
  obtain ⟨hseq, -⟩ := hready (hstate.elim Or.inl fun h => Or.inr (Or.inl h))
  obtain ⟨v, hv⟩ : ∃ v, v = runCurrentOps (envOf s c) ops ((begun s c).modMirror fun x => { x with lastSeq := seq }) := ⟨_, rfl⟩
  have hop := (hseq hnext).trans (acceptBatch_current hstate hv)
  have hmirror : (pump (envOf s c) (shadowStart (envOf s c) v.1)).ch.mirror = { s.chans[c].mirror with lastSeq := seq } := by
    rw [pump_mirror, shadowStart_mirror, hv, runCurrentOps_mirror]
    rfl
  have hrest : (pump (envOf s c) (shadowStart (envOf s c) v.1)).rest = (begun s c).rest := by
    rw [pump_rest, shadowStart_rest, hv, runCurrentOps_rest]
    rfl
  obtain ⟨t, hexec, hwithin, hchan, hreply⟩ := asked_turn_within ht hn hop hrest
  unfold batchReply at hreply
  rw [hmirror] at hreply
  exact ⟨t, v, _, congrArg Host.Outcome.next hexec, hwithin, hv, hchan, by rw [hchan, hmirror],
    by rw [hv, runCurrentOps_length], hreply⟩

/-- A batch in sequence, aimed at REFRESH. -/
theorem mirrorBatch_refresh (ht : Turn f h (.mirrorBatch seq bytes) s) (hn : Names h c)
    (hread : readOps (statedPart h bytes) = some ops) (hone : 1 ≤ ops.length) (hmany : ops.length ≤ 32) (hm : m = s.chans[c].mirror)
    (hstate : m.state = .syncing) (hnext : seq = (m.lastSeq + 1) % 65536) :
    ∃ t v n, exec (.mirrorBatch f h seq bytes) s = .next t ∧ Within c (afterTurn f s) t ∧
      v = runRefreshOps (envOf s c) ops ((begun s c).modMirror fun x => { x with lastSeq := seq, timer := 0 }) ∧
      v.2.1.length = ops.length ∧ t.chans[c].store.current = s.chans[c].store.current ∧
      ((t.chans[c].mirror = { m with lastSeq := seq, timer := 0 } ∧ t.chans[c] = v.1.ch ∧
          Replies s t f h (.mirrorBatch seq bytes) (.ok, .batch seq .syncing seq v.2.1 n) ∧
          (.poolFull ∉ v.2.1 ∧ .limitReached ∉ v.2.1)) ∨
       (t.chans[c].mirror = { state := .gap, lastSeq := seq, timer := 0 } ∧ t.chans[c].store.refresh = none ∧
          Replies s t f h (.mirrorBatch seq bytes) (.aborted, .batch seq .gap seq v.2.1 n) ∧
          (.poolFull ∈ v.2.1 ∨ .limitReached ∈ v.2.1))) := by
  subst hm
  obtain ⟨-, hready⟩ := mirrorBatchOn_read (env := envOf s c) (w := begun s c) (seq := seq) hread hone hmany
  obtain ⟨hseq, -⟩ := hready (Or.inr (Or.inr hstate))
  obtain ⟨u, hu⟩ : ∃ u, u = (begun s c).modMirror fun x => { x with lastSeq := seq, timer := 0 } := ⟨_, rfl⟩
  obtain ⟨v, hv⟩ : ∃ v, v = runRefreshOps (envOf s c) ops u := ⟨_, rfl⟩
  have hop := (hseq hnext).trans (acceptBatch_refresh hstate (hv.trans (by rw [hu])))
  obtain ⟨x, hx⟩ := runRefreshOps_only (envOf s c) ops u
  obtain ⟨hlen, hfalse⟩ := runRefreshOps_statuses (envOf s c) ops u
  rw [← hv] at hx hlen hfalse
  have hmirror : v.1.ch.mirror = { s.chans[c].mirror with lastSeq := seq, timer := 0 } := by rw [hx, hu]; rfl
  have hsync : v.1.ch.mirror.state = .syncing := by rw [hmirror]; exact hstate
  have hcurrent : v.1.ch.store.current = s.chans[c].store.current := by rw [hx, hu]; rfl
  have hrest : v.1.rest = (begun s c).rest := by rw [hx, hu]; rfl
  have hdone : ∀ {x : W} {st : Status}, mirrorBatchOn seq (statedPart h bytes) (envOf s c) (begun s c) =
        (x, st, batchReply (envOf s c) seq v.2.1 x) → x.rest = (begun s c).rest →
      ∃ t, exec (.mirrorBatch f h seq bytes) s = .next t ∧ Within c (afterTurn f s) t ∧ t.chans[c] = x.ch ∧
        Replies s t f h (.mirrorBatch seq bytes) (st, .batch seq x.ch.mirror.state x.ch.mirror.lastSeq v.2.1
          (freeRecords (envOf s c) x.ch)) := fun hx hrest => by
    obtain ⟨t, hexec, hrun⟩ := asked_turn_within ht hn hx hrest
    exact ⟨t, congrArg Host.Outcome.next hexec, hrun⟩
  cases hon : v.2.2 with
  | true =>
    rw [if_pos hon] at hop
    obtain ⟨t, hexec, hwithin, hchan, hreply⟩ := hdone hop hrest
    have hnone : ¬ (.poolFull ∈ v.2.1 ∨ .limitReached ∈ v.2.1) := fun hbad => by
      rw [hfalse.2 hbad] at hon
      cases hon
    rw [hmirror, hstate] at hreply
    exact ⟨t, v, _, hexec, hwithin, by rw [hv, hu], hlen, by rw [hchan, hcurrent],
      Or.inl ⟨by rw [hchan, hmirror], hchan, hreply, fun hfull => hnone (Or.inl hfull), fun hlimit => hnone (Or.inr hlimit)⟩⟩
  | false =>
    rw [if_neg (by rw [hon]; exact Bool.false_ne_true)] at hop
    have hgave := giveUp_syncing (env := envOf s c) (after := .gap) (cause := .pool) (need := .pool) (w := v.1) (by rw [hsync]; decide)
    obtain ⟨t, hexec, hwithin, hchan, hreply⟩ := hdone hop ((giveUp_rest ..).trans hrest)
    have hgap : (giveUp (envOf s c) .gap .pool .pool v.1).ch.mirror = { state := .gap, lastSeq := seq, timer := 0 } := by
      rw [hgave, hmirror]
    rw [hgap] at hreply
    refine ⟨t, v, _, hexec, hwithin, by rw [hv, hu], hlen, ?_, Or.inr ⟨by rw [hchan, hgap], ?_, hreply, hfalse.1 hon⟩⟩
    · rw [hchan, hgave]; exact hcurrent
    · rw [hchan, hgave]

end Request

/-- Settles O36: the sequence test decides what a batch does, and each of its operations follows the rules of one PUT or REMOVE. -/
theorem batchesFollowTheSequence : Obligations.BatchesFollowTheSequence := by
  refine ⟨fun f h c seq bytes ops m s ht hn hread hone hmany hm => ⟨?_, ?_, ?_, ?_, ?_⟩, fun env op ops w => ⟨rfl, rfl, rfl, ?_, ?_⟩,
    fun env p w r hr => ⟨fun st hst => ?_, fun st l old e hst => ?_⟩, fun env id w => removeCurrent_spec env id w,
    fun env op w r x hrefresh hx => ?_⟩
  · exact mirrorBatch_unready ht hn hread hone hmany hm
  · exact mirrorBatch_current ht hn hread hone hmany hm
  · exact fun hstate _ hnext => mirrorBatch_refresh ht hn hread hone hmany hm hstate hnext
  · exact fun hstate => mirrorBatch_again ht hn hread hone hmany hm hstate
  · exact fun hstate => mirrorBatch_outOfSequence ht hn hread hone hmany hm hstate
  · exact runRefreshOps_stops ops
  · exact fun hfull hlimit => runRefreshOps_goes ops fun h => h.elim hfull hlimit
  · show putCurrent env p w = (w, st)
    unfold putCurrent
    dsimp only
    rw [← hr, hst]
  · exact putCurrent_applied (hr.symm.trans hst)
  · have hon : onRefresh env op r w = x := by rw [hx]; cases op <;> rfl
    refine ⟨fun st hst => ?_, fun st l old new hst => ?_⟩
    · rw [opRefresh_eq hrefresh, hon, hst]
    · refine ⟨Refresh.account old new { r with events := l }, ?_, rfl, rfl, fun hids _ hpair => ?_⟩
      · rw [opRefresh_eq hrefresh, hon, hst]
      · exact onRefresh_digest (hon.trans hst) hids hpair

end Sys2Proof.Machine

/-! PROOFS. Refreshes that open and close (R48, R52 to R57). -/

namespace Sys2Proof.Machine

open Sys2Proof

/-! ## What the commit does to the cues (R55, R56, R60) -/

section Cues

variable {v w : W}

theorem asks_of_store (hout : w.ch.out = v.ch.out) (hstore : w.ch.store = v.ch.store) {l : List Effect}
    (hfx : w.fx = v.fx ++ l) (hl : ∀ e ∈ l, e.isRecord = false) : v.Asks w :=
  ⟨hout, hstore ▸ Store.Alike.refl _, l, hfx, hl⟩

theorem cancelItem_asks (env : Env) (i : Item) (h : v.Asks w) : v.Asks (cancelItem env i w) := by
  unfold cancelItem
  split
  · exact cancelCue_asks env _ h
  · exact dropOwner_asks i h

theorem cancelCued_asks (env : Env) (test : Item → Bool) (h : v.Asks w) : v.Asks (cancelCued env test w) := by
  unfold cancelCued
  split
  · split
    · exact modSeq_asks _ (cancelItem_asks env _ h)
    · exact h
  · exact h

theorem cancelLanding_asks (env : Env) (test : Item → Bool) (h : v.Asks w) : v.Asks (cancelLanding env test w) := by
  unfold cancelLanding
  split
  · split
    · exact modSeq_asks _ (cancelItem_asks env _ h)
    · exact h
  · exact h

theorem pinClose_asks (env : Env) (id duration : Nat) (h : v.Asks w) : v.Asks (pinClose env id duration w) := by
  unfold pinClose W.modLanding
  exact modSeq_asks _ (modSeq_asks _ h)

theorem pinCued_asks (env : Env) (h : v.Asks w) : v.Asks (pinCued env w) := by
  unfold pinCued
  generalize w.ch.cuedItems = l
  induction l generalizing w with
  | nil => exact h
  | cons i l ih =>
    refine ih ?_
    dsimp only
    split
    · split
      · exact pinClose_asks env _ _ h
      · exact h
    · exact h

theorem commitCues_asks (env : Env) (before : Chan) (new : List Event) (h : v.Asks w) : v.Asks (commitCues env before new w) :=
  pinCued_asks env (cancelCued_asks env _ (cancelLanding_asks env _ h))

theorem forgetTries_asks (test : Item → Bool) (h : v.Asks w) : v.Asks (forgetTries test w) := by
  unfold forgetTries W.modLanding
  exact modSeq_asks _ (modSeq_asks _ h)

theorem setMirror_asks (env : Env) (after : MirrorState) (cause : MirrorCause) (h : v.Asks w) : v.Asks (setMirror env after cause w) := by
  unfold setMirror
  dsimp only
  split
  · exact h.trans (asks_of_eq rfl rfl rfl)
  · exact emit_asks rfl (h.trans (asks_of_eq rfl rfl rfl))

theorem syncLife_asks (h : v.Asks w) : v.Asks (syncLife w) := by
  have hwait : v.Asks (syncWait w) := by
    unfold syncWait
    split
    · split
      · exact modSeq_asks _ h
      · exact h
    · exact h
  have hpasses : v.Asks (syncPasses (syncWait w)) := modSeq_asks _ hwait
  unfold syncLife
  refine modStore_asks _ ⟨rfl, rfl, rfl, ?_⟩ hpasses
  rw [List.map_map]
  exact List.map_congr_left fun e _ => relife_core _ _ e

end Cues

/-! ## The commit (R53 to R56) -/

/-- The records of the commit in CURRENT's place. -/
def replacedW (env : Env) (r : Refresh) (w : W) : W :=
  w.modStore fun t => { t with
    current := r.events.map (committed env w.ch)
    refresh := none
    orphan := newOrphan t.current (r.events.map (committed env w.ch)) t.orphan }

/-- And the cues, the mirror and the lifecycles brought in line, before the timeline settles. -/
def realignedW (env : Env) (before : Chan) (r : Refresh) (w : W) : W :=
  syncLife (setMirror env (if env.expired then .stale else .current) .commit
    (commitCues env before r.events (forgetTries (fun _ => true)
      (((w.modStore Store.scanChanged).modMirror fun m => { m with timer := 0 }).modSeq fun q => { q with spent := [] }))))

theorem commit_eq (env : Env) (r : Refresh) (w : W) :
    commit env r w = abandonSweep (rejudge env (settle env (realignedW env w.ch r (replacedW env r w)))) := rfl

section Commit

variable {env : Env} {before : Chan} {r : Refresh} {w : W}

theorem realignedW_store (env : Env) (before : Chan) (r : Refresh) (w : W) :
    (realignedW env before r w).ch.store.current.map Event.core = w.ch.store.current.map Event.core ∧
    (realignedW env before r w).ch.store.refresh = w.ch.store.refresh ∧ (realignedW env before r w).ch.store.anchor = w.ch.store.anchor := by
  obtain ⟨u, hu⟩ : ∃ u, u = ((w.modStore Store.scanChanged).modMirror fun m => { m with timer := 0 }).modSeq fun q => { q with spent := [] } :=
    ⟨_, rfl⟩
  have hasks : u.Asks (realignedW env before r w) := by
    unfold realignedW
    rw [← hu]
    exact syncLife_asks (setMirror_asks env _ _ (commitCues_asks env _ _ (forgetTries_asks _ (W.Asks.refl u))))
  have hstore : u.ch.store = w.ch.store.scanChanged := by rw [hu]; rfl
  obtain ⟨-, hrefresh, hanchor, hcore⟩ := hasks.store
  rw [hstore] at hrefresh hanchor hcore
  exact ⟨hcore, hrefresh, hanchor⟩

theorem setMirror_mode (env : Env) (after : MirrorState) (cause : MirrorCause) (w : W) :
    (setMirror env after cause w).ch.ctl.mode = w.ch.ctl.mode := by
  unfold setMirror
  dsimp only
  split <;> rfl

theorem realignedW_follows (env : Env) (before : Chan) (r : Refresh) (w : W) : w.Follows (realignedW env before r w) := by
  obtain ⟨u, hu⟩ : ∃ u, u = commitCues env before r.events (forgetTries (fun _ => true)
      (((w.modStore Store.scanChanged).modMirror fun m => { m with timer := 0 }).modSeq fun q => { q with spent := [] })) := ⟨_, rfl⟩
  have hcues : w.Follows u := by
    rw [hu]
    exact commitCues_follows _ _ _ (forgetTries_follows _ (modSeq_follows _ (modMirror_follows _ (scanChanged_follows (W.Follows.refl w)))))
  unfold realignedW
  rw [← hu]
  exact syncLife_follows (follows_of_eq hcues (setMirror_mode ..) (setMirror_store ..))

theorem realignedW_mirror (hstate : w.ch.mirror.state = .syncing) : (realignedW env before r w).ch.mirror =
    { state := if env.expired then .stale else .current, lastSeq := w.ch.mirror.lastSeq, timer := 0 } := by
  obtain ⟨u, hu⟩ : ∃ u, u = commitCues env before r.events (forgetTries (fun _ => true)
      (((w.modStore Store.scanChanged).modMirror fun m => { m with timer := 0 }).modSeq fun q => { q with spent := [] })) := ⟨_, rfl⟩
  have hmirror : u.ch.mirror = { w.ch.mirror with timer := 0 } := by rw [hu]; simp
  unfold realignedW
  rw [← hu, syncLife_mirror, setMirror_changed (by rw [hmirror, hstate]; split <;> decide)]
  dsimp only
  rw [hmirror]

/-- What stands in CURRENT once a commit has been followed by the Sequencer's work (R36, R53). -/
theorem commit_followed {x : W} (hr : w.ch.store.refresh = some r)
    (hx : (realignedW env w.ch r (replacedW env r w)).Follows x) : x.ch.store.refresh = none ∧
    (StoreOk w.ch.store → (x.ch.store.current.map Event.core).Sublist (r.events.map Event.core)) ∧
    (StoreOk w.ch.store → w.ch.ctl.mode = .mirror → w.ch.store.anchor = none → (∀ e ∈ r.events, e.fixed = none) →
      x.ch.store.current.map Event.core = r.events.map Event.core) := by
  obtain ⟨u, hu⟩ : ∃ u, u = replacedW env r w := ⟨_, rfl⟩
  have hmode : u.ch.ctl.mode = w.ch.ctl.mode := by rw [hu]; rfl
  have hanchor : u.ch.store.anchor = w.ch.store.anchor := by rw [hu]; rfl
  have hcore : u.ch.store.current.map Event.core = r.events.map Event.core := by rw [hu]; exact committed_list_core _ _
  have hok : StoreOk w.ch.store → u.ch.store.Tame := fun h => by
    have hholds : w.ch.store.Holds env.others u.ch.store := by rw [hu]; exact commitStore_holds rfl hr env.others
    exact storeOk_tame (hholds h).1
  rw [← hu] at hx
  obtain ⟨-, hrefresh, -, hstore⟩ := (realignedW_follows env w.ch r u).trans hx
  refine ⟨hrefresh.trans (by rw [hu]; rfl), fun h => ?_, fun h hm ha hf => ?_⟩
  · obtain ⟨-, hsub, -⟩ := hstore (hok h)
    rw [← hcore]
    exact hsub
  · obtain ⟨-, -, hsame, -⟩ := hstore (hok h)
    rw [← hcore]
    exact hsame (by rw [hmode, hm]; rfl) (hanchor.trans ha) (fixed_of_core (by rw [hcore]) hf)

end Commit

/-! ## The requests (R48, R52, R53, R57) -/

section Requests

variable {f : CtlFlow} {h : Head} {c : Ch} {seq count sum : Nat} {m : Mirror} {s : State}

/-- REFRESH_OPEN, in any state. -/
theorem refreshOpen_opens (ht : Turn f h (.refreshOpen seq) s) (hn : Names h c) :
    ∃ t n, exec (.refreshOpen f h seq) s = .next t ∧ t.chans[c] = { s.chans[c] with
        store := { s.chans[c].store with refresh := some { opening := seq, events := [], count := 0, sum := 0 } },
        mirror := { state := .syncing, lastSeq := seq, timer := 0 } } ∧
      Within c (afterTurn f s) t ∧ t.nextLocal = (s.nextLocal + 1) % two16 ∧ t.nextMain = s.nextMain ∧ t.log = s.log ∧
      t.sent = s.sent ++ noticePackets s .loc s.nextLocal c.val
          (.mirror s.chans[c].mirror.state .syncing .opened seq (some seq) s.time.hfn) ++
        replyPackets s f h (.refreshOpen seq) (.ok, .refresh .syncing seq none n) := by
  obtain ⟨x, hx⟩ : ∃ x : Chan, x = { s.chans[c] with
      store := { s.chans[c].store with refresh := some { opening := seq, events := [], count := 0, sum := 0 } },
      mirror := { state := .syncing, lastSeq := seq, timer := 0 } } := ⟨_, rfl⟩
  have hop : refreshOpenOn seq (envOf s c) (begun s c) =
      ({ ch := x, fx := [.notice .loc c.val (.mirror s.chans[c].mirror.state .syncing .opened seq (some seq) s.time.hfn)] },
        .ok, .refresh .syncing seq none (freeRecords (envOf s c) x)) := by
    have hopened : ∀ w : W, setMirror (envOf s c) .syncing .opened w =
        (w.modMirror fun m => { m with state := .syncing }).notice (envOf s c) .loc
          (.mirror w.ch.mirror.state .syncing .opened w.ch.mirror.lastSeq w.ch.store.opening (envOf s c).now) := fun w =>
      if_neg fun hsame => hsame.2 rfl
    unfold refreshOpenOn
    dsimp only
    rw [hopened, hx]
    rfl
  obtain ⟨u, hu⟩ : ∃ u, u = (afterTurn f s).setCh c x := ⟨_, rfl⟩
  obtain ⟨-, hports, hsent⟩ := afterTurn_kept f s
  have hflows : (afterTurn f s).flows = s.flows := by cases f <;> rfl
  have hturn := asked_turn_notice ht hn hop
  rw [← hu, notice_local_eq, noticePackets_congr (s := s) (by rw [hu]; exact hflows) (by rw [hu]; exact hports)] at hturn
  have hnext : u.nextLocal = s.nextLocal := by rw [hu]; cases f <;> rfl
  have husent : u.sent = s.sent := by rw [hu]; exact hsent
  rw [hnext, husent] at hturn
  refine ⟨_, _, congrArg Host.Outcome.next hturn, ?_, ?_, rfl, ?_, ?_, rfl⟩
  · rw [← hx]
    show u.chans[c] = x
    rw [hu]
    exact setCh_here _ c x
  · have hin : u.chans[c] = x := by rw [hu]; exact setCh_here _ c x
    refine ⟨?_, ?_, ?_, ?_⟩
    · rw [hu]; exact setCh_kept (afterTurn f s) c x
    · rw [hu]; exact setCh_others (afterTurn f s) c x
    · show u.chans[c].intake = _
      rw [hin, hx, (afterTurn_kept f s).1]
    · show u.chans[c].out.counter = _ ∧ u.chans[c].out.held = _ ∧ u.chans[c].out.holdRun = _
      rw [hin, hx, (afterTurn_kept f s).1]
      exact ⟨rfl, rfl, rfl⟩
  · rw [hu]; cases f <;> rfl
  · rw [hu]; cases f <;> rfl

/-- A close that changes the mirror record's timer at most. -/
theorem refreshClose_duplicate (ht : Turn f h (.refreshClose seq count sum) s) (hn : Names h c) {x : Chan} {st : MirrorState}
    {n : Nat} (hheld : x.store.held = s.chans[c].store.held)
    (hop : refreshCloseOn seq count sum (envOf s c) (begun s c) =
      ({ ch := x, fx := [] }, .duplicate, .refresh st n none (freeRecords (envOf s c) x))) :
    exec (.refreshClose f h seq count sum) s = .next { (afterTurn f s).setCh c x with
      sent := s.sent ++ replyPackets s f h (.refreshClose seq count sum) (.duplicate, .refresh st n none s.free) } := by
  rw [freeRecords_here hheld] at hop
  exact congrArg Host.Outcome.next (asked_turn_quiet ht hn hop)

/-- A close whose operation gives the refresh up. -/
theorem refreshClose_givesUp {after : MirrorState} {cause : MirrorCause} {need : NeedCause} {w : W} {st : Status}
    {pair : Option (Nat × Nat)} (ht : Turn f h (.refreshClose seq count sum) s) (hn : Names h c) (hrest : w.rest = (begun s c).rest)
    (hcurrent : w.ch.store.current = s.chans[c].store.current) (hstate : w.ch.mirror.state ≠ after)
    (hop : refreshCloseOn seq count sum (envOf s c) (begun s c) =
      (giveUp (envOf s c) after cause need w, st, refreshReply (envOf s c) pair (giveUp (envOf s c) after cause need w))) :
    ∃ t n, exec (.refreshClose f h seq count sum) s = .next t ∧ Within c (afterTurn f s) t ∧
      t.chans[c].mirror = { w.ch.mirror with state := after, timer := 0 } ∧ t.chans[c].store.refresh = none ∧
      t.chans[c].store.current = s.chans[c].store.current ∧
      Replies s t f h (.refreshClose seq count sum) (st, .refresh after w.ch.mirror.lastSeq pair n) := by
  obtain ⟨u, hu⟩ : ∃ u, u = giveUp (envOf s c) after cause need w := ⟨_, rfl⟩
  have hgave : u = _ := hu.trans (giveUp_syncing hstate)
  have hrestu : u.rest = (begun s c).rest := by rw [hu, giveUp_rest]; exact hrest
  rw [← hu] at hop
  obtain ⟨t, hexec, hwithin, hchan, hreply⟩ := asked_turn_within ht hn hop hrestu
  have hmirror : u.ch.mirror = { w.ch.mirror with state := after, timer := 0 } := by rw [hgave]
  unfold refreshReply at hreply
  rw [hmirror] at hreply
  refine ⟨t, _, congrArg Host.Outcome.next hexec, hwithin, by rw [hchan, hmirror], ?_, ?_, hreply⟩
  · rw [hchan, hgave]
  · rw [hchan, hgave]; exact hcurrent

/-- A close whose pair is the generation's (R53). -/
theorem refreshClose_commits {r : Refresh} (ht : Turn f h (.refreshClose seq count sum) s) (hn : Names h c)
    (hstate : s.chans[c].mirror.state = .syncing) (hr : s.chans[c].store.refresh = some r)
    (hop : refreshCloseOn seq count sum (envOf s c) (begun s c) =
      (pump (envOf s c) (shadowStart (envOf s c) (commit (envOf s c) r ((begun s c).modMirror fun m => { m with lastSeq := seq }))), .ok,
        refreshReply (envOf s c) (some (r.count, r.sum))
          (pump (envOf s c) (shadowStart (envOf s c) (commit (envOf s c) r ((begun s c).modMirror fun m => { m with lastSeq := seq })))))) :
    ∃ t n, exec (.refreshClose f h seq count sum) s = .next t ∧ Within c (afterTurn f s) t ∧
      t.chans[c].mirror = { state := if s.expired then .stale else .current, lastSeq := seq, timer := 0 } ∧
      t.chans[c].store.refresh = none ∧
      (∃ w : W, w.ch.store.current.map Event.core = r.events.map Event.core ∧ w.ch.store.refresh = none ∧
        w.ch.store.anchor = s.chans[c].store.anchor ∧
        t.chans[c] = (pump (envOf s c) (shadowStart (envOf s c) (abandonSweep (rejudge (envOf s c) (settle (envOf s c) w))))).ch) ∧
      (StoreOk s.chans[c].store → (t.chans[c].store.current.map Event.core).Sublist (r.events.map Event.core)) ∧
      (StoreOk s.chans[c].store → s.chans[c].ctl.mode = .mirror → s.chans[c].store.anchor = none →
        (∀ e ∈ r.events, e.fixed = none) → t.chans[c].store.current.map Event.core = r.events.map Event.core) ∧
      Replies s t f h (.refreshClose seq count sum)
        (.ok, .refresh (if s.expired then .stale else .current) seq (some (r.count, r.sum)) n) := by
  obtain ⟨v, hv⟩ : ∃ v, v = (begun s c).modMirror fun m => { m with lastSeq := seq } := ⟨_, rfl⟩
  obtain ⟨w, hw⟩ : ∃ w, w = realignedW (envOf s c) v.ch r (replacedW (envOf s c) r v) := ⟨_, rfl⟩
  obtain ⟨x, hx⟩ : ∃ x, x = pump (envOf s c) (shadowStart (envOf s c) (abandonSweep (rejudge (envOf s c) (settle (envOf s c) w)))) :=
    ⟨_, rfl⟩
  have hcommit : pump (envOf s c) (shadowStart (envOf s c) (commit (envOf s c) r v)) = x := by rw [commit_eq, ← hw, hx]
  rw [← hv, hcommit] at hop
  have hmirror : x.ch.mirror = { state := if s.expired then .stale else .current, lastSeq := seq, timer := 0 } := by
    rw [hx, pump_mirror, shadowStart_mirror, abandonSweep_mirror, rejudge_mirror, settle_mirror, hw, realignedW_mirror]
    · rw [hv]; rfl
    · rw [hv]; exact hstate
  have hrest : x.rest = (begun s c).rest := by rw [← hcommit, pump_rest, shadowStart_rest, commit_rest, hv]; rfl
  have hfollows : w.Follows x := by
    rw [hx]
    exact pump_follows _ (shadowStart_follows _ (abandonSweep_follows (rejudge_follows _ (settle_follows _ (W.Follows.refl w)))))
  rw [hw] at hfollows
  obtain ⟨hrefresh, hsub, hsame⟩ := commit_followed (w := v) (by rw [hv]; exact hr) hfollows
  obtain ⟨hcore, hnone, hanchor⟩ := realignedW_store (envOf s c) v.ch r (replacedW (envOf s c) r v)
  rw [← hw] at hcore hnone hanchor
  obtain ⟨t, hexec, hwithin, hchan, hreply⟩ := asked_turn_within ht hn hop hrest
  unfold refreshReply at hreply
  rw [hmirror] at hreply
  have hstore : v.ch.store = s.chans[c].store := by rw [hv]; rfl
  have hmode : v.ch.ctl.mode = s.chans[c].ctl.mode := by rw [hv]; rfl
  rw [hstore] at hsub hsame
  rw [hmode] at hsame
  refine ⟨t, _, congrArg Host.Outcome.next hexec, hwithin, by rw [hchan, hmirror], by rw [hchan, hrefresh],
    ⟨w, hcore.trans (committed_list_core _ _), hnone, hanchor.trans (by rw [hv]; rfl), by rw [hchan, hx]⟩, ?_, ?_, hreply⟩
  · rw [hchan]; exact hsub
  · rw [hchan]; exact hsame

end Requests

/-! ## Which close does what (R52, R53, R57) -/

section Closes

variable {env : Env} {w : W} {r : Refresh} {seq count sum : Nat}

theorem refreshCloseOn_syncing (hstate : w.ch.mirror.state = .syncing) (hr : w.ch.store.refresh = some r) :
    refreshCloseOn seq count sum env w =
      if seq = (w.ch.mirror.lastSeq + 1) % two16 then
        if count = r.count ∧ sum = r.sum then
          (pump env (shadowStart env (commit env r (w.modMirror fun m => { m with lastSeq := seq }))), .ok,
            refreshReply env (some (r.count, r.sum))
              (pump env (shadowStart env (commit env r (w.modMirror fun m => { m with lastSeq := seq })))))
        else
          (giveUp env .diverged .closeMismatch .closeMismatch (w.modMirror fun m => { m with lastSeq := seq }), .mismatch,
            refreshReply env (some (r.count, r.sum))
              (giveUp env .diverged .closeMismatch .closeMismatch (w.modMirror fun m => { m with lastSeq := seq })))
      else if seq = w.ch.mirror.lastSeq then
        (w.modMirror fun m => { m with timer := 0 }, .duplicate, refreshReply env none (w.modMirror fun m => { m with timer := 0 }))
      else
        (giveUp env .gap .sequence .sequence w, .outOfSequence, refreshReply env none (giveUp env .gap .sequence .sequence w)) := by
  unfold refreshCloseOn
  dsimp only
  rw [hstate, hr]

theorem refreshCloseOn_settled (hstate : w.ch.mirror.state = .current ∨ w.ch.mirror.state = .stale) :
    refreshCloseOn seq count sum env w =
      if seq = w.ch.mirror.lastSeq then (w, .duplicate, refreshReply env none w)
      else
        (giveUp env .gap .sequence .sequence w, .outOfSequence, refreshReply env none (giveUp env .gap .sequence .sequence w)) := by
  unfold refreshCloseOn
  dsimp only
  rcases hstate with h | h <;> rw [h]

theorem refreshCloseOn_unready (hstate : w.ch.mirror.state = .empty ∨ w.ch.mirror.state = .gap ∨ w.ch.mirror.state = .diverged) :
    refreshCloseOn seq count sum env w =
      (refreshNeeded env .repeated w, .outOfSequence, refreshReply env none (refreshNeeded env .repeated w)) := by
  unfold refreshCloseOn
  dsimp only
  rcases hstate with h | h | h <;> rw [h]

/-- A close out of sequence gives the refresh up. -/
theorem refreshCloseOn_gap (hstate : w.ch.mirror.state = .current ∨ w.ch.mirror.state = .stale ∨
      (w.ch.mirror.state = .syncing ∧ w.ch.store.refresh.isSome = true ∧ seq ≠ (w.ch.mirror.lastSeq + 1) % 65536))
    (hdiff : seq ≠ w.ch.mirror.lastSeq) : refreshCloseOn seq count sum env w =
      (giveUp env .gap .sequence .sequence w, .outOfSequence, refreshReply env none (giveUp env .gap .sequence .sequence w)) := by
  rcases hstate with h | h | ⟨h, hsome, hnext⟩
  · exact (refreshCloseOn_settled (Or.inl h)).trans (if_neg hdiff)
  · exact (refreshCloseOn_settled (Or.inr h)).trans (if_neg hdiff)
  · obtain ⟨r, hr⟩ := Option.isSome_iff_exists.1 hsome
    exact (refreshCloseOn_syncing h hr).trans ((if_neg hnext).trans (if_neg hdiff))

end Closes

/-- Settles O37: an open starts a generation; what a close does is decided by the state, the sequence number and the digest pair. -/
theorem refreshesOpenAndClose : Obligations.RefreshesOpenAndClose := by
  refine ⟨fun f h c seq s ht hn => refreshOpen_opens ht hn, fun f h c seq count sum m s ht hn hm => ?_⟩
  subst hm
  refine ⟨fun r hstate hr hnext => ?_, fun hstate hsome hsame => ?_, fun hstate hsame => ?_, fun hstate hdiff => ?_, fun hstate => ?_⟩
  · have hop := refreshCloseOn_syncing (env := envOf s c) (w := begun s c) (seq := seq) (count := count) (sum := sum) hstate hr
    have hop := hop.trans (if_pos hnext)
    by_cases hpair : count = r.count ∧ sum = r.sum
    · obtain ⟨t, n, hexec, hwithin, hcommit⟩ := refreshClose_commits ht hn hstate hr (hop.trans (if_pos hpair))
      exact ⟨t, n, hexec, hwithin, fun _ => hcommit, fun hnot => absurd hpair hnot⟩
    · obtain ⟨t, n, hexec, hwithin, hmismatch⟩ := refreshClose_givesUp (w := (begun s c).modMirror fun m => { m with lastSeq := seq })
        ht hn rfl rfl (show s.chans[c].mirror.state ≠ .diverged by rw [hstate]; decide) (hop.trans (if_neg hpair))
      exact ⟨t, n, hexec, hwithin, fun hyes => absurd hyes hpair, fun _ => hmismatch⟩
  · obtain ⟨r, hr⟩ := Option.isSome_iff_exists.1 hsome
    have hnext : ¬ seq = ((begun s c).ch.mirror.lastSeq + 1) % two16 := by
      show ¬ seq = (s.chans[c].mirror.lastSeq + 1) % 65536
      omega
    have hop := refreshCloseOn_syncing (env := envOf s c) (w := begun s c) (seq := seq) (count := count) (sum := sum) hstate hr
    rw [← hstate]
    exact refreshClose_duplicate (x := { s.chans[c] with mirror := { s.chans[c].mirror with timer := 0 } }) ht hn rfl
      (hop.trans ((if_neg hnext).trans (if_pos hsame)))
  · have hop := refreshCloseOn_settled (env := envOf s c) (w := begun s c) (seq := seq) (count := count) (sum := sum) hstate
    have hself : (afterTurn f s).setCh c s.chans[c] = afterTurn f s := by
      rw [← (afterTurn_kept f s).1]; exact setCh_self _ _
    have hexec := refreshClose_duplicate ht hn rfl (hop.trans (if_pos hsame))
    rw [hself] at hexec
    exact hexec
  · refine refreshClose_givesUp ht hn rfl rfl ?_ (refreshCloseOn_gap (w := begun s c) hstate hdiff)
    show s.chans[c].mirror.state ≠ .gap
    rcases hstate with h | h | ⟨h, -⟩ <;> rw [h] <;> decide
  · have hfree : freeRecords (envOf s c) (begun s c).ch = s.free := freeRecords_here rfl
    refine congrArg Host.Outcome.next (asked_turn_main ht hn ((refreshCloseOn_unready hstate).trans ?_))
    rw [← hfree]
    rfl

end Sys2Proof.Machine

/-! PROOFS. Graphics over pictures, and the takes of a period (R76, R77, R167, R172). -/

namespace Sys2Proof.Machine

open Sys2Proof

/-! ## Graphics over pictures (R172) -/

/-- One sample of a graphic drawn. -/
def drawSample (g : Graphic) (x y : Nat) (mix : Nat → Nat → Nat) (p : Picture) (i : Nat) : Picture :=
  match graphicPlace g.width x y i with
  | some (line, pos) => p.write (picKey line pos) (BitVec.ofNat 10 (mix (graphicSample g i) (p.read (picKey line pos)).toNat))
  | none => p

theorem drawGraphic_eq (g : Graphic) (x y : Nat) (mix : Nat → Nat → Nat) (p : Picture) :
    drawGraphic g x y mix p = (List.range (2 * g.width * g.height)).foldl (drawSample g x y mix) p := rfl

theorem graphicPlace_iff {width x y i line pos : Nat} : graphicPlace width x y i = some (line, pos) ↔
    line = y + i / (2 * width) ∧ pos = 2 * x + i % (2 * width) ∧ line < 1080 ∧ pos < 3840 := by
  unfold graphicPlace
  dsimp only
  split <;> simp only [Option.some.injEq, Prod.mk.injEq, reduceCtorEq, false_iff] <;> omega

theorem picKey_inj {line pos line' pos' : Nat} (hpos : pos < 3840) (hpos' : pos' < 3840) (h : picKey line pos = picKey line' pos') :
    line = line' ∧ pos = pos' := by
  unfold picKey at h
  omega

section Drawing

variable {g : Graphic} {x y line pos : Nat} {mix : Nat → Nat → Nat} {p : Picture}

theorem drawSample_wf (h : Picture.wf p = true) (i : Nat) : Picture.wf (drawSample g x y mix p i) = true := by
  unfold drawSample
  split
  · exact picture_wf_write _ _ h
  · exact h

/-- A sample is drawn at its place and nowhere else. -/
theorem drawSample_read (h : Picture.wf p = true) (hpos : pos < 3840) (i : Nat) :
    (drawSample g x y mix p i).read (picKey line pos) =
      if graphicPlace g.width x y i = some (line, pos) then
        BitVec.ofNat 10 (mix (graphicSample g i) (p.read (picKey line pos)).toNat)
      else p.read (picKey line pos) := by
  unfold drawSample
  cases hplace : graphicPlace g.width x y i with
  | none => rw [if_neg (by simp)]
  | some at' =>
    obtain ⟨line', pos'⟩ := at'
    dsimp only
    obtain ⟨-, -, -, hpos'⟩ := graphicPlace_iff.1 hplace
    rw [picture_read_write h]
    by_cases hsame : picKey line pos = picKey line' pos'
    · obtain ⟨rfl, rfl⟩ := picKey_inj hpos hpos' hsame
      rw [if_pos rfl, if_pos rfl]
    · rw [if_neg hsame, if_neg]
      intro heq
      cases heq
      exact hsame rfl

/-- Samples that lie elsewhere leave a position alone. -/
theorem drawSamples_off (hpos : pos < 3840) {l : List Nat} (hoff : ∀ i ∈ l, graphicPlace g.width x y i ≠ some (line, pos))
    (h : Picture.wf p = true) : (l.foldl (drawSample g x y mix) p).read (picKey line pos) = p.read (picKey line pos) := by
  induction l generalizing p with
  | nil => rfl
  | cons i l ih =>
    rw [List.foldl_cons, ih (fun j hj => hoff j (List.mem_cons_of_mem _ hj)) (drawSample_wf h i), drawSample_read h hpos,
      if_neg (hoff i List.mem_cons_self)]

/-- The one sample that lies at a position is drawn there once. -/
theorem drawSamples_on (hpos : pos < 3840) {l : List Nat} {k : Nat} (hnodup : l.Nodup) (hk : k ∈ l)
    (hat : ∀ i ∈ l, graphicPlace g.width x y i = some (line, pos) ↔ i = k) (h : Picture.wf p = true) :
    (l.foldl (drawSample g x y mix) p).read (picKey line pos) =
      BitVec.ofNat 10 (mix (graphicSample g k) (p.read (picKey line pos)).toNat) := by
  induction l generalizing p with
  | nil => cases hk
  | cons i l ih =>
    obtain ⟨hnot, hrest⟩ := List.nodup_cons.1 hnodup
    have hplace := hat i List.mem_cons_self
    have htail : ∀ j ∈ l, graphicPlace g.width x y j = some (line, pos) ↔ j = k := fun j hj => hat j (List.mem_cons_of_mem _ hj)
    rw [List.foldl_cons]
    by_cases hik : i = k
    · subst hik
      rw [drawSamples_off hpos (fun j hj hfound => hnot ((htail j hj).1 hfound ▸ hj)) (drawSample_wf h i), drawSample_read h hpos,
        if_pos (hplace.2 rfl)]
    · have hmem : k ∈ l := (List.mem_cons.1 hk).resolve_left fun he => hik he.symm
      rw [ih hrest hmem htail (drawSample_wf h i), drawSample_read h hpos, if_neg fun hfound => hik (hplace.1 hfound)]

/-- The samples that lie inside the picture at a position: one, where the graphic covers it. -/
theorem graphicPlace_inside {width height i : Nat} (hline : line < 1080) (hpos : pos < 3840) (hi : i < 2 * width * height) :
    graphicPlace width x y i = some (line, pos) ↔
      (y ≤ line ∧ line < y + height ∧ 2 * x ≤ pos ∧ pos < 2 * x + 2 * width) ∧ i = (line - y) * (2 * width) + (pos - 2 * x) := by
  have hwidth : 0 < 2 * width := Nat.pos_of_ne_zero fun hzero => by rw [hzero, Nat.zero_mul] at hi; omega
  have hrow : i / (2 * width) < height := Nat.div_lt_of_lt_mul hi
  have hcol : i % (2 * width) < 2 * width := Nat.mod_lt _ hwidth
  rw [graphicPlace_iff]
  refine ⟨fun ⟨hl, hp, _, _⟩ => ⟨?_, ?_⟩, fun ⟨⟨hy, _, hx, hright⟩, hat⟩ => ?_⟩
  · generalize i / (2 * width) = row at hl hrow
    generalize i % (2 * width) = col at hp hcol
    omega
  · have hdiv := Nat.div_add_mod i (2 * width)
    rw [hl, hp, Nat.add_sub_cancel_left, Nat.add_sub_cancel_left, Nat.mul_comm]
    exact hdiv.symm
  · have hlt : pos - 2 * x < 2 * width := by omega
    have hdiv : i / (2 * width) = line - y := by
      rw [hat, Nat.mul_comm, Nat.mul_add_div hwidth, Nat.div_eq_of_lt hlt, Nat.add_zero]
    have hmod : i % (2 * width) = pos - 2 * x := by
      rw [hat, Nat.mul_comm, Nat.mul_add_mod, Nat.mod_eq_of_lt hlt]
    rw [hdiv, hmod]
    exact ⟨by omega, by omega, hline, hpos⟩

/-- A graphic over a picture, read at a position of it. -/
theorem drawGraphic_read (h : Picture.wf p = true) (hline : line < 1080) (hpos : pos < 3840) :
    (drawGraphic g x y mix p).read (picKey line pos) =
      (if y ≤ line ∧ line < y + g.height ∧ 2 * x ≤ pos ∧ pos < 2 * x + 2 * g.width then
         BitVec.ofNat 10 (mix (graphicSample g ((line - y) * (2 * g.width) + (pos - 2 * x))) (p.read (picKey line pos)).toNat)
       else p.read (picKey line pos)) := by
  have hplace : ∀ i ∈ List.range (2 * g.width * g.height), _ := fun i hi =>
    graphicPlace_inside (x := x) (y := y) hline hpos (List.mem_range.1 hi)
  rw [drawGraphic_eq]
  split
  · rename_i hin
    obtain ⟨hy, hbelow, hx, hright⟩ := hin
    refine drawSamples_on hpos List.nodup_range (List.mem_range.2 ?_) (fun i hi => ?_) h
    · have hrow : line - y + 1 ≤ g.height := by omega
      calc (line - y) * (2 * g.width) + (pos - 2 * x) < (line - y) * (2 * g.width) + 2 * g.width := by omega
        _ = (line - y + 1) * (2 * g.width) := (Nat.succ_mul _ _).symm
        _ ≤ g.height * (2 * g.width) := Nat.mul_le_mul_right _ hrow
        _ = 2 * g.width * g.height := Nat.mul_comm _ _
    · rw [hplace i hi]
      exact ⟨fun hat => hat.2, fun hat => ⟨⟨hy, hbelow, hx, hright⟩, hat⟩⟩
  · rename_i hout
    exact drawSamples_off hpos (fun i hi hfound => hout ((hplace i hi).1 hfound).1) h

end Drawing

/-! ## The fill (R167) -/

theorem fillPicture_slate (gs : Vector Graphic 16) (k : Fin 16) :
    (gs[k].state ≠ .ready → fillPicture gs (.slate k) = Picture.black) ∧
    (gs[k].state = .ready → fillPicture gs (.slate k) =
      drawGraphic gs[k] (2 * ((1920 - gs[k].width) / 4)) ((1080 - gs[k].height) / 2) (fun s _ => s) Picture.black) := by
  refine ⟨fun hnot => ?_, fun hready => ?_⟩
  · have hnone : fillSlate gs (.slate k) = none := if_neg hnot
    unfold fillPicture
    rw [hnone]
  · have hsome : fillSlate gs (.slate k) = some gs[k] := if_pos hready
    have hcolumn : (slateAt gs[k]).1 = 2 * ((1920 - gs[k].width) / 4) := by
      unfold slateAt
      dsimp only
      omega
    unfold fillPicture
    rw [hsome]
    dsimp only
    rw [hcolumn]
    rfl

/-! ## The takes of a period (R76, R77) -/

theorem mainTake_takes {depth : Nat} {i : Intake} {gone rest : List EssFrame} {f : EssFrame}
    (hgone : gone.length = i.main.fifo.length - (depth + 1)) (hfifo : i.main.fifo = gone ++ f :: rest) :
    (mainTake depth i).takeMain = some f ∧ (mainTake depth i).main.fifo = rest ∧
      (mainTake depth i).lastTaken = some (f.hdr.label, f.hdr.day) ∧
      (mainTake depth i).main.dropped = min (two32 - 1) (i.main.dropped + gone.length) := by
  have hdrop : i.main.fifo.drop (i.main.fifo.length - (depth + 1)) = f :: rest := by
    rw [← hgone, hfifo, List.drop_left]
  unfold mainTake
  dsimp only
  rw [hdrop, hgone]
  exact ⟨rfl, rfl, rfl, rfl⟩

theorem mainTake_empty {depth : Nat} {i : Intake} (hfifo : i.main.fifo = []) : (mainTake depth i).takeMain = none ∧
    (mainTake depth i).main.fifo = [] ∧ (mainTake depth i).lastTaken = i.lastTaken := by
  unfold mainTake
  dsimp only
  rw [hfifo, List.drop_nil]
  exact ⟨rfl, rfl, rfl⟩

theorem playerTake_spec (n : Nat) (x : Source) : (playerTake n x).2 = x.fifo.find? (fun f => decide (f.hdr.hfn = some n)) ∧
    (playerTake n x).1.fifo = x.fifo.filter (fun f => f.hdr.hfn.any fun h => decide (n < h)) ∧
    (playerTake n x).1.dropped = min (two32 - 1)
      (x.dropped + (x.fifo.length - (playerTake n x).1.fifo.length - (playerTake n x).2.toList.length)) := by
  have hcount : ∀ l : List EssFrame, (if l.isEmpty then 0 else 1) = l.head?.toList.length := fun l => by cases l <;> rfl
  refine ⟨List.head?_filter .., ?_, ?_⟩
  · refine List.filter_congr fun f _ => ?_
    cases f.hdr.hfn <;> rfl
  · unfold playerTake satAdd
    dsimp only
    rw [hcount]

theorem lateRunAfter_lateRun (x : Player) (f : Option EssFrame) : (lateRunAfter x f.isSome).lateRun =
    if x.state = .playing ∧ f.isNone = true then min 65535 (x.lateRun + 1) else 0 := by
  unfold lateRunAfter
  dsimp only
  rw [sat16_eq]
  by_cases hplay : x.state = .playing <;> cases f <;> simp [hplay]

/-- The takes of a period and the late-frame runs after them. -/
theorem takes_spec (env : Env) (w : W) (p : PlayerId) :
    (takes env w).ch.intake = w.ch.intake.taken env.cp.alignDepth env.now.toNat ∧
    ((takes env w).player p).lateRun =
      (if (w.player p).state = .playing ∧ ((takes env w).ch.intake.take p).isNone = true then min 65535 ((w.player p).lateRun + 1)
       else 0) := by
  obtain ⟨ha, hb⟩ := mainTake_players env.cp.alignDepth w.ch.intake
  have hintake : (takes env w).ch.intake = w.ch.intake.taken env.cp.alignDepth env.now.toNat := by
    show ({ mainTake env.cp.alignDepth w.ch.intake with
      a := (playerTake env.now.toNat (mainTake env.cp.alignDepth w.ch.intake).a).1
      takeA := (playerTake env.now.toNat (mainTake env.cp.alignDepth w.ch.intake).a).2
      b := (playerTake env.now.toNat (mainTake env.cp.alignDepth w.ch.intake).b).1
      takeB := (playerTake env.now.toNat (mainTake env.cp.alignDepth w.ch.intake).b).2 } : Intake) = _
    rw [ha, hb]
    rfl
  refine ⟨hintake, ?_⟩
  cases p with
  | a => exact lateRunAfter_lateRun (w.player .a) _
  | b => exact lateRunAfter_lateRun (w.player .b) _

end Sys2Proof.Machine

/-! PROOFS. Output frames (R164 to R173). -/

namespace Sys2Proof.Machine

open Sys2Proof

section Frames

variable {gs : Vector Graphic 16} {env : Env} {c : Chan} {o : OutFrame} {x u : Out} {m : Made}

/-! ## The source (R164, R165) -/

theorem baseOf_main (h : c.ctl.mode = .mirror ∨ (c.ctl.mode = .joining ∧ c.forced = false)) : baseOf c = mainBase c := by
  unfold baseOf
  rcases h with h | ⟨h, hforced⟩
  · rw [h]
  · rw [h]
    dsimp only
    rw [if_neg (by rw [hforced]; exact Bool.false_ne_true)]

theorem baseOf_forced (h : c.ctl.mode = .joining) (hforced : c.forced = true) : baseOf c = .hold := by
  unfold baseOf
  rw [h]
  exact if_pos hforced

/-- The standby modes of R165. -/
def Chan.standsBy (c : Chan) : Prop := c.ctl.mode = .takeover ∨ c.ctl.mode = .breakIn ∨ c.ctl.mode = .returning

theorem baseOf_standby (h : c.standsBy) : baseOf c = airBase c := by
  unfold baseOf
  rcases h with h | h | h <;> rw [h]

theorem airBase_player {a : OnAir} {p : PlayerId} (ha : c.seq.onAir = some a) (hkind : a.item.kind = .pass ∨ a.item.kind = .brk)
    (hmark : a.fillMark = false) (hp : a.item.player = some p) :
    airBase c = match c.intake.take p with | some f => .player p f | none => .hold := by
  unfold airBase
  rw [ha]
  dsimp only
  rcases hkind with h | h <;> rw [h] <;> simp only [hmark, hp, Bool.false_eq_true, if_false] <;> rfl

theorem airBase_fill (h : c.seq.onAir = none ∨ ∃ a, c.seq.onAir = some a ∧ ((∃ k, a.item.kind = .fill k) ∨ a.fillMark = true)) :
    airBase c = .fill := by
  unfold airBase
  rcases h with h | ⟨a, h, ⟨k, hk⟩ | hmark⟩
  · rw [h]
  · rw [h]
    dsimp only
    rw [hk]
  · rw [h]
    dsimp only
    cases a.item.kind <;> simp [hmark]

/-! ## The frame before the ident (R165 to R167) -/

/-- Whatever the source, only the held frame and the hold run of the output change. -/
theorem makeFrame_kept (gs : Vector Graphic 16) (f : FillSetting) (limit : Nat) (b : Base) (v : Out) :
    ∃ run held, (makeFrame gs f limit b v).2 = { v with holdRun := run, held := held } := by
  cases b with
  | main y => exact ⟨_, _, rfl⟩
  | player p y => exact ⟨_, _, rfl⟩
  | fill => exact ⟨_, _, rfl⟩
  | hold =>
    show ∃ run held, (holdMade gs f limit v).2 = _
    unfold holdMade
    split
    · exact ⟨_, v.held, rfl⟩
    · split <;> exact ⟨_, v.held, rfl⟩

/-- The picture counts as the main return's where it is a MAIN frame, or one that is held (R166, R172). -/
theorem makeFrame_ofMain (gs : Vector Graphic 16) (f : FillSetting) (limit : Nat) (b : Base) (v : Out) :
    (makeFrame gs f limit b v).1.ofMain = false ↔ (makeFrame gs f limit b v).1.source ≠ .main ∧
      ((makeFrame gs f limit b v).1.source = .hold → ∃ k, v.held = some k ∧ k.origin = .standby) := by
  cases b with
  | main y => simp [makeFrame, keep]
  | player p y => cases p <;> simp [makeFrame, keep, playerOut]
  | fill => simp [makeFrame, keep, fillMade]
  | hold =>
    show (holdMade gs f limit v).1.ofMain = false ↔ _ ∧ ((holdMade gs f limit v).1.source = .hold → _)
    unfold makeFrame holdMade
    cases hheld : v.held with
    | none => simp [fillMade]
    | some k =>
      dsimp only
      split
      · cases horigin : k.origin <;> simp [horigin]
      · simp [fillMade]

/-! ## The ident (R171 to R173) -/

theorem slotOf_iff (gs : Vector Graphic 16) (n : Nat) (g : Graphic) : slotOf gs n = some g ↔ ∃ k : Fin 16, n = k.val ∧ gs[k] = g := by
  unfold slotOf
  split
  · rename_i h
    simp only [Option.some.injEq]
    exact ⟨fun hg => ⟨⟨n, h⟩, rfl, hg⟩, fun ⟨k, hk, hg⟩ => by subst hk; exact hg⟩
  · rename_i h
    simp only [reduceCtorEq, false_iff]
    rintro ⟨k, rfl, -⟩
    exact h k.isLt

theorem identFor_iff (gs : Vector Graphic 16) (y : Window) (ofMain : Bool) (g : Graphic) :
    identFor gs y ofMain = some g ↔ IdentShows gs y g ∧ ofMain = false := by
  unfold identFor IdentShows
  rw [← slotOf_iff]
  cases hslot : slotOf gs y.slot with
  | none => simp
  | some g' =>
    dsimp only
    have hshown : y.shown = true ↔ y.blink = 0 ∨ y.phase < y.blink := by simp [Window.shown]
    rw [← hshown]
    by_cases hall : y.enabled = true ∧ g'.state = .ready ∧ y.shown = true ∧ ofMain = false
    · rw [if_pos hall]
      obtain ⟨hon, hready, hshow, hmain⟩ := hall
      refine ⟨fun hg => ?_, fun ⟨⟨_, hg, _⟩, _⟩ => hg⟩
      cases hg
      exact ⟨⟨hon, rfl, hready, hshow⟩, hmain⟩
    · rw [if_neg hall]
      simp only [reduceCtorEq, false_iff]
      rintro ⟨⟨hon, hg, hready, hshow⟩, hmain⟩
      cases hg
      exact hall ⟨hon, hready, hshow, hmain⟩

/-- The frame's picture with the ident of a window (R172). -/
def shownPicture (gs : Vector Graphic 16) (y : Window) (m : Made) : Picture :=
  match identFor gs y m.ofMain with
  | some g => drawGraphic g y.x y.y (blend y.alpha) m.picture
  | none => m.picture

theorem shownPicture_main {y : Window} (h : m.ofMain = true) : shownPicture gs y m = m.picture := by
  have hnone : identFor gs y m.ofMain = none := Option.eq_none_iff_forall_ne_some.2 fun g hg => by
    obtain ⟨-, hfalse⟩ := (identFor_iff ..).1 hg
    rw [h] at hfalse
    cases hfalse
  unfold shownPicture
  rw [hnone]

theorem shownPicture_standby {y : Window} (h : m.ofMain = false) : Drawn gs y m.picture (shownPicture gs y m) := by
  refine ⟨fun g hg => ?_, fun hnot => ?_⟩
  · have hsome : identFor gs y m.ofMain = some g := (identFor_iff ..).2 ⟨hg, h⟩
    unfold shownPicture
    rw [hsome]
  · have hnone : identFor gs y m.ofMain = none := Option.eq_none_iff_forall_ne_some.2 fun g hg => hnot g ((identFor_iff ..).1 hg).1
    unfold shownPicture
    rw [hnone]

/-! ## The frame built (R164 to R173) -/

/-- The output frame and the block after it, from the frame before the ident. -/
theorem buildOut_of (hmade : makeFrame gs env.cp.fill env.cp.freezeLimit (baseOf c) c.out = (m, u)) : buildOut gs env c =
    ({ count := packetCount m.sound.length, label := (env.at env.now).label, day := (env.at env.now).day, hfn := env.now.toNat,
       counter := u.counter, source := m.source, standby := standbyFlag c, stamp := stampOf c env.now (baseOf c),
       cues := u.cues, picture := shownPicture gs u.window m, sound := m.sound },
     { u with counter := (u.counter + 1) % two32, last := m.source, cues := [], window := u.window.advance,
              lastIdent := (identFor gs u.window m.ofMain).isSome, lastCues := u.cues.length }) := by
  unfold buildOut
  dsimp only
  rw [hmade]
  rfl

/-- The frame built shows what was made, with the ident of the channel's window; the held frame and the hold run are its. -/
theorem buildOut_made (hb : buildOut gs env c = (o, x)) (hmade : makeFrame gs env.cp.fill env.cp.freezeLimit (baseOf c) c.out = (m, u)) :
    o.source = m.source ∧ o.sound = m.sound ∧ o.picture = shownPicture gs c.out.window m ∧ o.stamp = stampOf c env.now (baseOf c) ∧
      x.holdRun = u.holdRun ∧ x.held = u.held := by
  obtain ⟨run, held, hkept⟩ := makeFrame_kept gs env.cp.fill env.cp.freezeLimit (baseOf c) c.out
  rw [hmade] at hkept
  have hwindow : u.window = c.out.window := by
    have := congrArg Out.window hkept
    exact this
  rw [buildOut_of hmade] at hb
  cases hb
  exact ⟨rfl, rfl, by rw [← hwindow], rfl, rfl, rfl⟩

theorem standbyFlag_iff (c : Chan) : standbyFlag c = true ↔ c.ctl.mode = .takeover ∨ c.ctl.mode = .breakIn ∨ c.ctl.mode = .returning ∨
    (c.ctl.mode = .joining ∧ c.forced = true) := by
  unfold standbyFlag
  cases c.ctl.mode <;> simp [drMode]

end Frames

end Sys2Proof.Machine

/-! PROOFS. The output frame of every mode (R164 to R173). -/

namespace Sys2Proof.Machine

open Sys2Proof

section Frames

variable {gs : Vector Graphic 16} {env : Env} {c : Chan} {o : OutFrame} {x : Out}

/-! ## What every frame has (R168, R170, R173) -/

theorem buildOut_always (hb : buildOut gs env c = (o, x)) :
    o.counter = c.out.counter ∧ x.counter = (c.out.counter + 1) % two32 ∧ o.cues = c.out.cues ∧ x.cues = [] ∧ x.last = o.source ∧
    (o.hfn = env.now.toNat ∧ o.label = (env.at env.now).label ∧ o.day = (env.at env.now).day ∧
      o.count = 1080 + (o.sound.length + 1919) / 1920) ∧
    (o.standby = true ↔ c.ctl.mode = .takeover ∨ c.ctl.mode = .breakIn ∨ c.ctl.mode = .returning ∨
      (c.ctl.mode = .joining ∧ c.forced = true)) ∧
    x.window = { c.out.window with phase :=
      if c.out.window.enabled = false ∨ c.out.window.blink = 0 then 0 else (c.out.window.phase + 1) % (2 * c.out.window.blink) } ∧
    (x.lastIdent = true ↔ (∃ g, IdentShows gs c.out.window g) ∧ o.source ≠ .main ∧
      (o.source = .hold → ∃ k, c.out.held = some k ∧ k.origin = .standby)) := by
  have hmain := makeFrame_ofMain gs env.cp.fill env.cp.freezeLimit (baseOf c) c.out
  obtain ⟨run, held, hkept⟩ := makeFrame_kept gs env.cp.fill env.cp.freezeLimit (baseOf c) c.out
  obtain ⟨m, u, hmade⟩ : ∃ m u, makeFrame gs env.cp.fill env.cp.freezeLimit (baseOf c) c.out = (m, u) := ⟨_, _, rfl⟩
  rw [hmade] at hmain hkept
  have hu : u = { c.out with holdRun := run, held := held } := hkept
  rw [buildOut_of hmade] at hb
  cases hb
  subst hu
  refine ⟨rfl, rfl, rfl, rfl, rfl, ⟨rfl, rfl, rfl, rfl⟩, standbyFlag_iff c, rfl, ?_⟩
  show (identFor gs c.out.window m.ofMain).isSome = true ↔ _
  rw [Option.isSome_iff_exists, ← hmain]
  exact ⟨fun ⟨g, hg⟩ => ⟨⟨g, ((identFor_iff ..).1 hg).1⟩, ((identFor_iff ..).1 hg).2⟩,
    fun ⟨⟨g, hg⟩, hfalse⟩ => ⟨g, (identFor_iff ..).2 ⟨hg, hfalse⟩⟩⟩

/-! ## A frame from each source (R165 to R167) -/

theorem buildOut_main {f : EssFrame} (hb : buildOut gs env c = (o, x)) (hbase : baseOf c = .main f) :
    o.source = .main ∧ o.picture = f.picture ∧ o.sound = f.sound ∧ x.holdRun = 0 ∧
      x.held = some { picture := f.picture, samples := f.sound.length, origin := .main } := by
  obtain ⟨hsource, hsound, hpicture, -, hrun, hheld⟩ := buildOut_made hb (by rw [hbase])
  exact ⟨hsource, hpicture.trans (shownPicture_main rfl), hsound, hrun, hheld⟩

theorem buildOut_player {p : PlayerId} {f : EssFrame} (hb : buildOut gs env c = (o, x)) (hbase : baseOf c = .player p f) :
    o.source = playerOut p ∧ o.sound = f.sound ∧ x.holdRun = 0 ∧
      x.held = some { picture := f.picture, samples := f.sound.length, origin := .standby } ∧
      Drawn gs c.out.window f.picture o.picture := by
  obtain ⟨hsource, hsound, hpicture, -, hrun, hheld⟩ := buildOut_made hb (by rw [hbase])
  refine ⟨hsource, hsound, hrun, hheld, ?_⟩
  rw [hpicture]
  exact shownPicture_standby rfl

theorem buildOut_fill (hb : buildOut gs env c = (o, x)) (hbase : baseOf c = .fill) :
    o.source = .fill ∧ x.holdRun = 0 ∧ o.sound = List.replicate (heldSamples c.out) 0#24 ∧
      x.held = some { picture := fillPicture gs env.cp.fill, samples := heldSamples c.out, origin := .standby } ∧
      Drawn gs c.out.window (fillPicture gs env.cp.fill) o.picture := by
  obtain ⟨hsource, hsound, hpicture, -, hrun, hheld⟩ := buildOut_made hb (by rw [hbase])
  refine ⟨hsource, hrun, hsound, hheld.trans ?_, ?_⟩
  · show some ({ picture := fillPicture gs env.cp.fill, samples := (silence (heldSamples c.out)).length, origin := .standby } : HeldFrame) = _
    rw [silence, List.length_replicate]
  · rw [hpicture]
    exact shownPicture_standby rfl

theorem holdMade_held {v : Out} {k : HeldFrame} (hk : v.held = some k) (gs : Vector Graphic 16) (f : FillSetting) (limit : Nat) :
    holdMade gs f limit v =
      if v.holdRun < limit then
        ({ source := .hold, picture := k.picture, sound := silence k.samples, ofMain := decide (k.origin = .main) },
          { v with holdRun := sat16 v.holdRun })
      else (fillMade gs f v, v) := by
  obtain ⟨counter, held, run, last, window, cues, ident, n⟩ := v
  cases hk
  rfl

theorem holdMade_none {v : Out} (hnone : v.held = none) (gs : Vector Graphic 16) (f : FillSetting) (limit : Nat) :
    holdMade gs f limit v = (fillMade gs f v, { v with holdRun := sat16 v.holdRun }) := by
  obtain ⟨counter, held, run, last, window, cues, ident, n⟩ := v
  cases hnone
  rfl

/-- A period without the frame that its mode asks for (R166). -/
theorem buildOut_hold (hb : buildOut gs env c = (o, x)) (hbase : baseOf c = .hold) :
    (∀ k, c.out.held = some k → c.out.holdRun < env.cp.freezeLimit → o.source = .hold ∧ x.held = some k ∧
      x.holdRun = sat16 c.out.holdRun ∧ o.sound = List.replicate k.samples 0#24 ∧
      (k.origin = .main → o.picture = k.picture) ∧ (k.origin = .standby → Drawn gs c.out.window k.picture o.picture)) ∧
    (∀ k, c.out.held = some k → env.cp.freezeLimit ≤ c.out.holdRun → o.source = .fill ∧ x.held = some k ∧
      x.holdRun = c.out.holdRun ∧ o.sound = List.replicate k.samples 0#24 ∧
      Drawn gs c.out.window (fillPicture gs env.cp.fill) o.picture) ∧
    (c.out.held = none → o.source = .fill ∧ x.held = none ∧ x.holdRun = sat16 c.out.holdRun ∧ o.sound = [] ∧
      Drawn gs c.out.window (fillPicture gs env.cp.fill) o.picture) := by
  have hmade : ∀ {m : Made} {u : Out}, holdMade gs env.cp.fill env.cp.freezeLimit c.out = (m, u) →
      makeFrame gs env.cp.fill env.cp.freezeLimit (baseOf c) c.out = (m, u) := fun h => by rw [hbase]; exact h
  have hfilled : (fillMade gs env.cp.fill c.out).ofMain = false := rfl
  refine ⟨fun k hk hlt => ?_, fun k hk hle => ?_, fun hnone => ?_⟩
  · obtain ⟨m, hm⟩ : ∃ m : Made, m =
      { source := .hold, picture := k.picture, sound := silence k.samples, ofMain := decide (k.origin = .main) } := ⟨_, rfl⟩
    have hstep : holdMade gs env.cp.fill env.cp.freezeLimit c.out = (m, { c.out with holdRun := sat16 c.out.holdRun }) := by
      rw [hm]
      exact (holdMade_held hk ..).trans (if_pos hlt)
    obtain ⟨hsource, hsound, hpicture, -, hrun, hheld⟩ := buildOut_made hb (hmade hstep)
    have hshown : m.picture = k.picture := by rw [hm]
    refine ⟨by rw [hsource, hm], hheld.trans hk, hrun, by rw [hsound, hm]; rfl, fun hmain => ?_, fun hstandby => ?_⟩
    · rw [hpicture, shownPicture_main (by rw [hm]; exact decide_eq_true hmain), hshown]
    · rw [hpicture, ← hshown]
      exact shownPicture_standby (by rw [hm]; exact decide_eq_false (by rw [hstandby]; decide))
  · have hstep : holdMade gs env.cp.fill env.cp.freezeLimit c.out = (fillMade gs env.cp.fill c.out, c.out) :=
      (holdMade_held hk ..).trans (if_neg (Nat.not_lt.2 hle))
    obtain ⟨hsource, hsound, hpicture, -, hrun, hheld⟩ := buildOut_made hb (hmade hstep)
    refine ⟨hsource, hheld.trans hk, hrun, hsound.trans ?_, ?_⟩
    · show silence (heldSamples c.out) = _
      unfold heldSamples
      rw [hk]
      rfl
    · rw [hpicture]
      exact shownPicture_standby hfilled
  · have hstep : holdMade gs env.cp.fill env.cp.freezeLimit c.out =
        (fillMade gs env.cp.fill c.out, { c.out with holdRun := sat16 c.out.holdRun }) := holdMade_none hnone ..
    obtain ⟨hsource, hsound, hpicture, -, hrun, hheld⟩ := buildOut_made hb (hmade hstep)
    refine ⟨hsource, hheld.trans hnone, hrun, hsound.trans ?_, ?_⟩
    · show silence (heldSamples c.out) = _
      unfold heldSamples
      rw [hnone]
      rfl
    · rw [hpicture]
      exact shownPicture_standby hfilled

/-- The periods without the frame that their mode asks for (R164, R165). -/
theorem baseOf_hold (h : ((c.ctl.mode = .mirror ∨ (c.ctl.mode = .joining ∧ c.forced = false)) ∧ c.intake.takeMain = none) ∨
      (c.ctl.mode = .joining ∧ c.forced = true) ∨
      ((c.ctl.mode = .takeover ∨ c.ctl.mode = .breakIn ∨ c.ctl.mode = .returning) ∧ ∃ a p, c.seq.onAir = some a ∧
        (a.item.kind = .pass ∨ a.item.kind = .brk) ∧ a.fillMark = false ∧ a.item.player = some p ∧ c.intake.take p = none)) :
    baseOf c = .hold := by
  rcases h with ⟨hmode, hnone⟩ | ⟨hmode, hforced⟩ | ⟨hmode, a, p, ha, hkind, hmark, hp, hnone⟩
  · rw [baseOf_main hmode, mainBase, hnone]
  · exact baseOf_forced hmode hforced
  · rw [baseOf_standby hmode, airBase_player ha hkind hmark hp, hnone]

/-! ## The position stamp (R169) -/

theorem stampOf_missing (h : ((c.ctl.mode = .mirror ∨ (c.ctl.mode = .joining ∧ c.forced = false)) ∧ c.intake.takeMain = none) ∨
      (c.ctl.mode = .joining ∧ c.forced = true)) (now : Frame) : stampOf c now (baseOf c) = none := by
  have hbase : baseOf c = .hold := baseOf_hold (h.imp_right Or.inl)
  unfold stampOf
  rw [hbase]
  rcases h with ⟨hmode | ⟨hmode, -⟩, -⟩ | ⟨hmode, -⟩ <;> rw [hmode]

theorem stampOf_main {f : EssFrame} (h : c.ctl.mode = .mirror ∨ (c.ctl.mode = .joining ∧ c.forced = false)) (now : Frame) :
    stampOf c now (.main f) = f.hdr.stamp := by
  unfold stampOf
  rcases h with h | ⟨h, -⟩ <;> rw [h]

/-- The stamp of the item on air. -/
def airStamp (c : Chan) (now : Frame) : Option PosStamp :=
  match c.seq.onAir with
  | none => none
  | some a => match a.item.kind with
    | .pass => eventStamp c now a.item.event (some a.item.pass) a.item
    | .fill .wait => eventStamp c now a.item.forEvent none { a.item with pass := a.item.forPass }
    | .fill _ => if a.item.carriesFill then eventStamp c now a.item.event none a.item else none
    | .brk => none

theorem stampOf_standby (h : c.standsBy) (now : Frame) (b : Base) : stampOf c now b = airStamp c now := by
  unfold stampOf airStamp
  rcases h with h | h | h <;> rw [h] <;> rfl

/-- The stamp of a resolved event (R169). -/
theorem eventStamp_resolved {event : Nat} {i : Item} {q now : Frame} (hne : event ≠ 0) (hq : c.origin event = some q)
    (pass : Option Nat) : eventStamp c now event pass i =
      some { event := event, offset := (now - q).toNat, pass := pass.getD (c.passAt event (now - q)) } := by
  have hoff : c.offsetAt { i with event := event } now = now - q := offsetAt_origin (i := { i with event := event }) hq now
  unfold eventStamp
  rw [if_neg hne]
  dsimp only
  rw [hoff]

theorem passAt_found {event : Nat} {e : Event} (he : c.store.event event = some e) (off : Int) :
    c.passAt event off = (off / (e.duration : Int)).toNat := by
  unfold Chan.passAt
  rw [he]

/-- What the item on air gives the frame's stamp. -/
theorem airStamp_item {a : OnAir} (ha : c.seq.onAir = some a) (now : Frame) :
    (∀ q, a.item.kind = .pass → a.item.event ≠ 0 → c.origin a.item.event = some q →
      airStamp c now = some { event := a.item.event, offset := (now - q).toNat, pass := a.item.pass }) ∧
    (∀ q e, a.item.kind = .fill .blank ∨ a.item.kind = .fill .absent → a.item.event ≠ 0 →
      c.origin a.item.event = some q → c.store.event a.item.event = some e →
      airStamp c now = some { event := a.item.event, offset := (now - q).toNat, pass := ((now - q) / (e.duration : Int)).toNat }) ∧
    (∀ q e, a.item.kind = .fill .wait → a.item.forEvent ≠ 0 →
      c.origin a.item.forEvent = some q → c.store.event a.item.forEvent = some e →
      airStamp c now = some { event := a.item.forEvent, offset := (now - q).toNat,
                              pass := ((now - q) / (e.duration : Int)).toNat }) ∧
    (a.item.kind = .fill .gap ∨ a.item.kind = .fill .scheduleEnd ∨ a.item.kind = .brk ∨
      (a.item.kind = .fill .wait ∧ a.item.forEvent = 0) → airStamp c now = none) := by
  have hstamp : ∀ k, a.item.kind = k → airStamp c now = match k with
      | .pass => eventStamp c now a.item.event (some a.item.pass) a.item
      | .fill .wait => eventStamp c now a.item.forEvent none { a.item with pass := a.item.forPass }
      | .fill _ => if a.item.carriesFill then eventStamp c now a.item.event none a.item else none
      | .brk => none := by
    rintro k rfl
    unfold airStamp
    rw [ha]
  refine ⟨fun q hkind hne hq => ?_, fun q e hkind hne hq he => ?_, fun q e hkind hne hq he => ?_, fun hkind => ?_⟩
  · exact (hstamp _ hkind).trans (eventStamp_resolved hne hq _)
  · have hcarries : a.item.carriesFill = true := (carriesFill_iff _).2 hkind
    have hevent : airStamp c now = eventStamp c now a.item.event none a.item := by
      rcases hkind with h | h <;> exact (hstamp _ h).trans (if_pos hcarries)
    rw [hevent, eventStamp_resolved hne hq, Option.getD_none, passAt_found he]
  · rw [(hstamp _ hkind).trans (eventStamp_resolved hne hq _), Option.getD_none, passAt_found he]
  · rcases hkind with h | h | h | ⟨h, hzero⟩
    · exact (hstamp _ h).trans (if_neg (by rw [carriesFill_iff, h]; decide))
    · exact (hstamp _ h).trans (if_neg (by rw [carriesFill_iff, h]; decide))
    · exact hstamp _ h
    · exact (hstamp _ h).trans (if_pos hzero)

theorem buildOut_stamp (hb : buildOut gs env c = (o, x)) : o.stamp = stampOf c env.now (baseOf c) := by
  obtain ⟨-, -, -, hstamp, -⟩ := buildOut_made hb (m := _) (u := _) rfl
  exact hstamp

end Frames

/-- Settles O55: graphics, takes, and the frame that each mode builds. -/
theorem outputFramesFollowTheMode : Obligations.OutputFramesFollowTheMode := by
  refine ⟨fun g x y line pos mix p hwf hline hpos => drawGraphic_read hwf hline hpos,
    fun gs k => ⟨rfl, fillPicture_slate gs k⟩,
    fun depth i gone => ⟨fun hgone f rest hfifo => mainTake_takes hgone hfifo, mainTake_empty, mainTake_players depth i⟩,
    playerTake_spec, takes_spec, fun gs env c o x hb => ?_⟩
  have hstamp := buildOut_stamp hb
  obtain ⟨hcounter, hnext, hcues, hempty, hlast, hhead, hflag, hwindow, hident⟩ := buildOut_always hb
  refine ⟨hcounter, hnext, hcues, hempty, hlast, hhead, hflag, hwindow, hident, fun m hmode hm => ?_,
    fun a p m hmode ha hkind hmark hp hm => ?_, fun hmissing => buildOut_hold hb (baseOf_hold hmissing),
    fun ⟨hmode, hair⟩ => buildOut_fill hb (by rw [baseOf_standby hmode, airBase_fill hair]),
    fun hmissing => hstamp.trans (stampOf_missing hmissing env.now), fun hmode => ?_⟩
  · have hbase : baseOf c = .main m := by rw [baseOf_main hmode, mainBase, hm]
    obtain ⟨hsource, hpicture, hsound, hrun, hheld⟩ := buildOut_main hb hbase
    exact ⟨hsource, hpicture, hsound, by rw [hstamp, hbase, stampOf_main hmode], hrun, hheld⟩
  · obtain ⟨hsource, hplayed⟩ := buildOut_player hb (by rw [baseOf_standby hmode, airBase_player ha hkind hmark hp, hm])
    exact ⟨hsource.trans (by cases p <;> rfl), hplayed⟩
  · rw [hstamp, stampOf_standby hmode]
    exact ⟨fun hnone => by rw [airStamp, hnone], fun a ha => airStamp_item ha env.now⟩

end Sys2Proof.Machine
